-- ==== Sys2Proof/Word.lean ====
section
/-!
DEFINITION. Sys2Proof/Word.lean: the widths of R3 and R43 and the plainest arithmetic on them.
-/
namespace Sys2Proof

/-- A word, 64 bits (R3). -/
abbrev Word := BitVec 64

/-- One byte. -/
abbrev Byte := BitVec 8

/-- An instruction word, 16 bits (R30). -/
abbrev IWord := BitVec 16

/-- A register field (R43). -/
abbrev Reg := BitVec 5

/-- A vector register, 128 bits (R129). -/
abbrev VWord := BitVec 128

/-- A truth value as the integer 1 or 0 that a compare writes (Table 3.8). -/
def ofBool (b : Bool) : Word := if b then 1 else 0

end Sys2Proof
end

