-- ==== Sys2Proof/Config.lean ====
section
/-!
DEFINITION. Sys2Proof/Config.lean: what the spec leaves open, as constants without a body: nothing can be proved of
their values, so a claim holds whatever they are.
-/
namespace Sys2Proof.Config

/-- A firmware image: kind, version, its bytes, whether its vendor signature is good, and its `dev` and `tcm` sections
(R371, R416). -/
structure Image where
  kind    : BitVec 8
  version : BitVec 8
  bytes   : List Byte
  genuine : Bool
  dev     : List Byte
  tcm     : List Byte
  deriving DecidableEq, Repr, Inhabited

/-- Free choices, one for each number of the counter State.fresh (log 13): whether a fetch takes the old value of a
stored-to word (R79), or a walk's cached translation, where the spec allows either. -/
opaque freeBit : Nat → Bool

/-- Free words, one for each number of the counter State.fresh (log 13). -/
opaque freeWord : Nat → Word

/-- The entry that the handler table of a code object gives for an index, or none: the spec does not say where the table
lies (R58, R165, log 55). The object is named by its context, its digest and its base (R407); all objects that the code
table does not list are one in their context. -/
opaque handler : BitVec 12 → List Word → Word → Nat → Option Word

/-- Cycles that a core had counted at module reset: the counts of different cores are not related (R29, log 64). -/
opaque cycLead : Nat → Nat

/-- Virtual functions that the endpoint presents, as the model reads it: 1 to 32 (R417, log 73). -/
opaque vfCount : Nat

/-- Good lanes that training finds on link l of die d, one value for each of the two ends' owner (R387, log 4). -/
opaque trainedLanes : Nat → Nat → Nat

/-- Whether the memory stacks train (R426). -/
opaque memoryTrains : Bool

/-- VBRATIO of a cluster, set by repair (R388, log 5). -/
opaque vbRatio : Nat → BitVec 8

/-- The firmware of the die control cores (R371, log 9). -/
opaque controlImage : Image

/-- The other firmware images, in the order in which they are measured (R416, log 9). -/
opaque otherImages : List Image

/-- The Falcon-1024 signature, padded to 1,280 bytes, of a digest; one for each number of the counter State.fresh, since a
signer draws randomness (R412, log 17). -/
opaque signature : Nat → List Word → Vector Byte 1280

/-- The module's Falcon-1024 public key, 1,793 bytes (R412, R414). -/
opaque publicKey : Vector Byte 1793

/-- The certificate that GETKEY writes (R414). -/
opaque certificate : List Byte

end Sys2Proof.Config
end

