-- ==== Sys2Proof/Machine/Table.lean ====
section
/-!
DEFINITION. Sys2Proof/Machine/Table.lean: sparse tables of plain data in one canonical form, keys strictly rising and
no entry equal to what an unlisted key reads as. Memory (a list of Host.Cell) is such a table of bytes.
-/
namespace Sys2Proof.Machine

/-- A sparse table: a list of keys and values. -/
abbrev Table (α : Type) := List (Nat × α)

/-- What a key reads as: its entry, else the default. -/
def Table.get {α : Type} (d : α) : Table α → Nat → α
  | [], _ => d
  | (k, v) :: t, n => if n = k then v else Table.get d t n

/-- Write a key: the entry is replaced or inserted in order, and removed where it is the default. -/
def Table.set {α : Type} [DecidableEq α] (d : α) (n : Nat) (x : α) : Table α → Table α
  | [] => if x = d then [] else [(n, x)]
  | (k, v) :: t =>
    if n < k then (if x = d then (k, v) :: t else (n, x) :: (k, v) :: t)
    else if n = k then (if x = d then t else (n, x) :: t)
    else (k, v) :: Table.set d n x t

/-- Every key of the table lies above `n`. -/
def Table.above {α : Type} (n : Nat) : Table α → Bool
  | [] => true
  | (k, _) :: _ => decide (n < k)

/-- The canonical form: keys strictly rising, no entry equal to the default. -/
def Table.wf {α : Type} [DecidableEq α] (d : α) : Table α → Bool
  | [] => true
  | (k, v) :: t => decide (v ≠ d) && Table.above k t && Table.wf d t

end Sys2Proof.Machine
end

