-- ==== Sys2Proof/Syntax.lean ====
section
/-!
DEFINITION. Sys2Proof/Syntax.lean: the instructions and steps of spec/opcode_table.json, one constructor a row
(Table 2.7 of spec/02_encoding.md, and the events of spec/95_what_each_step_holds.md).
A group is kept by its fields: `a` and `b` of the base word, `r` the PFX.R it carries, `is` the fields of its PFX.I
words from the most significant, `m` its PFX.M. The page is the constructor's; a PFX.P that names page 0 has no
effect (R37) and is not kept. The events name the party that moves by number, and carry the values that the outside
of the module supplies.
-/
namespace Sys2Proof

/-- PFX.R (R36): D in bits 9-5 and E in bits 4-0. -/
structure RPfx where
  d : Reg
  e : Reg
  deriving DecidableEq, Repr

/-- PFX.M (Table 2.5), its bits 1-0 being 00. -/
structure MPfx where
  order : BitVec 2
  scope : BitVec 3
  nt    : BitVec 1
  fe    : BitVec 2
  deriving DecidableEq, Repr

/-- The 10-bit fields of the group's PFX.I words, the first word first (R35). -/
abbrev IPfx := List (BitVec 10)

/-- A frame between packages (Table 18.4). `ctx` is the sender's CTXID (R424), `words` the payload, of which the first
`bytes` bytes count. -/
structure Frame where
  port   : Bool
  mac    : BitVec 48
  srcPkg : Nat
  dstPkg : Nat
  cls    : Nat
  seq    : Nat
  ack    : Nat
  dest   : BitVec 64
  ctx    : Nat
  words  : List (BitVec 64)
  bytes  : Nat
  deriving DecidableEq, Repr

/-- The rows of the opcode table. -/
inductive Instr where
  /-- ILL (page 0, op 0; R42): Raises cause 1 for an illegal group; op 0 of page 0 and the all-zero word decode to it. -/
  | ill (a b : Reg)
  /-- ADD (page 0, op 1; R81): Sets A (or D with PFX.R) to A + B modulo 2^64. -/
  | add (a b : Reg) (r : Option RPfx)
  /-- SUB (page 0, op 2; R81): Sets A (or D) to A − B modulo 2^64. -/
  | sub (a b : Reg) (r : Option RPfx)
  /-- AND (page 0, op 3; R81): Sets A (or D) to A AND B. -/
  | and (a b : Reg) (r : Option RPfx)
  /-- OR (page 0, op 4; R81): Sets A (or D) to A OR B. -/
  | or (a b : Reg) (r : Option RPfx)
  /-- XOR (page 0, op 5; R81): Sets A (or D) to A XOR B. -/
  | xor (a b : Reg) (r : Option RPfx)
  /-- SHL (page 0, op 6; R81): Shifts A left by B[5:0]. -/
  | shl (a b : Reg) (r : Option RPfx)
  /-- SHR (page 0, op 7; R81): Shifts A right logically by B[5:0]. -/
  | shr (a b : Reg) (r : Option RPfx)
  /-- SAR (page 0, op 8; R81): Shifts A right arithmetically by B[5:0]. -/
  | sar (a b : Reg) (r : Option RPfx)
  /-- MUL (page 0, op 9; R81): Sets A (or D) to the low 64 bits of A × B. -/
  | mul (a b : Reg) (r : Option RPfx)
  /-- MOV (page 0, op 10; R82): Copies B to A; accepts no prefix. -/
  | mov (a b : Reg)
  /-- SLT (page 0, op 11; R81): Writes 1 if A < B signed, else 0. -/
  | slt (a b : Reg) (r : Option RPfx)
  /-- SLTU (page 0, op 12; R81): Writes 1 if A < B unsigned, else 0. -/
  | sltu (a b : Reg) (r : Option RPfx)
  /-- SEQ (page 0, op 13; R81): Writes 1 if A = B, else 0. -/
  | seq (a b : Reg) (r : Option RPfx)
  /-- MIN (page 0, op 14; R81): Writes the signed minimum of A and B. -/
  | min (a b : Reg) (r : Option RPfx)
  /-- MAX (page 0, op 15; R81): Writes the signed maximum of A and B. -/
  | max (a b : Reg) (r : Option RPfx)
  /-- ADDI (page 0, op 16; R83): Adds a signed immediate to A. -/
  | addi (a b : Reg) (r : Option RPfx) (is : IPfx)
  /-- ANDI (page 0, op 17; R83): ANDs A with a signed immediate. -/
  | andi (a b : Reg) (r : Option RPfx) (is : IPfx)
  /-- ORI (page 0, op 18; R83): ORs A with a zero-extended immediate. -/
  | ori (a b : Reg) (r : Option RPfx) (is : IPfx)
  /-- XORI (page 0, op 19; R83): XORs A with a zero-extended immediate. -/
  | xori (a b : Reg) (r : Option RPfx) (is : IPfx)
  /-- SHLI (page 0, op 20; R83): Shifts A left by an immediate of 0–63. -/
  | shli (a b : Reg) (r : Option RPfx) (is : IPfx)
  /-- SHRI (page 0, op 21; R83): Shifts A right logically by an immediate of 0–63. -/
  | shri (a b : Reg) (r : Option RPfx) (is : IPfx)
  /-- SARI (page 0, op 22; R83): Shifts A right arithmetically by an immediate of 0–63. -/
  | sari (a b : Reg) (r : Option RPfx) (is : IPfx)
  /-- SLTI (page 0, op 23; R83): Writes 1 if A < a signed immediate. -/
  | slti (a b : Reg) (r : Option RPfx) (is : IPfx)
  /-- SEQI (page 0, op 24; R83): Writes 1 if A equals a signed immediate. -/
  | seqi (a b : Reg) (r : Option RPfx) (is : IPfx)
  /-- LDI (page 0, op 25; R84): Loads a sign-extended immediate into A. -/
  | ldi (a b : Reg) (is : IPfx)
  /-- LDIX (page 0, op 26; R84): Shifts A left by n and ORs in a zero-extended immediate. -/
  | ldix (a b : Reg) (is : IPfx)
  /-- LD8 (page 0, op 27; R85): Loads a zero-extended byte into A. -/
  | ld8 (a b : Reg) (r : Option RPfx) (is : IPfx) (m : Option MPfx)
  /-- LD16 (page 0, op 28; R85): Loads zero-extended 16 bits into A. -/
  | ld16 (a b : Reg) (r : Option RPfx) (is : IPfx) (m : Option MPfx)
  /-- LD32 (page 0, op 29; R85): Loads zero-extended 32 bits into A. -/
  | ld32 (a b : Reg) (r : Option RPfx) (is : IPfx) (m : Option MPfx)
  /-- LD64 (page 0, op 30; R85): Loads a 64-bit word into A, with its order and full/empty mode. -/
  | ld64 (a b : Reg) (r : Option RPfx) (is : IPfx) (m : Option MPfx)
  /-- LD8S (page 0, op 31; R85): Loads a sign-extended byte into A. -/
  | ld8s (a b : Reg) (r : Option RPfx) (is : IPfx) (m : Option MPfx)
  /-- LD16S (page 0, op 32; R85): Loads sign-extended 16 bits into A. -/
  | ld16s (a b : Reg) (r : Option RPfx) (is : IPfx) (m : Option MPfx)
  /-- LD32S (page 0, op 33; R85): Loads sign-extended 32 bits into A. -/
  | ld32s (a b : Reg) (r : Option RPfx) (is : IPfx) (m : Option MPfx)
  /-- ST8 (page 0, op 34; R85): Stores A[7:0] to memory. -/
  | st8 (a b : Reg) (r : Option RPfx) (is : IPfx) (m : Option MPfx)
  /-- ST16 (page 0, op 35; R85): Stores A[15:0] to memory. -/
  | st16 (a b : Reg) (r : Option RPfx) (is : IPfx) (m : Option MPfx)
  /-- ST32 (page 0, op 36; R85): Stores A[31:0] to memory. -/
  | st32 (a b : Reg) (r : Option RPfx) (is : IPfx) (m : Option MPfx)
  /-- ST64 (page 0, op 37; R85): Stores A to memory, with its order and full/empty mode. -/
  | st64 (a b : Reg) (r : Option RPfx) (is : IPfx) (m : Option MPfx)
  /-- LDV (page 0, op 38; R85): Loads 16 bytes into vector register A as one access. -/
  | ldv (a b : Reg) (r : Option RPfx) (is : IPfx) (m : Option MPfx)
  /-- STV (page 0, op 39; R85): Stores vector register A as one 16-byte access. -/
  | stv (a b : Reg) (r : Option RPfx) (is : IPfx) (m : Option MPfx)
  /-- BEQZ (page 0, op 40; R87): Branches when A is zero. -/
  | beqz (a b : Reg) (is : IPfx)
  /-- BNEZ (page 0, op 41; R87): Branches when A is nonzero. -/
  | bnez (a b : Reg) (is : IPfx)
  /-- BLTZ (page 0, op 42; R87): Branches when A is negative. -/
  | bltz (a b : Reg) (is : IPfx)
  /-- BGEZ (page 0, op 43; R87): Branches when A is not negative. -/
  | bgez (a b : Reg) (is : IPfx)
  /-- BEQ (page 0, op 44; R87): Branches when A equals B; the offset comes only from PFX.I. -/
  | beq (a b : Reg) (is : IPfx)
  /-- BNE (page 0, op 45; R87): Branches when A differs from B. -/
  | bne (a b : Reg) (is : IPfx)
  /-- BLT (page 0, op 46; R87): Branches when A < B signed. -/
  | blt (a b : Reg) (is : IPfx)
  /-- BLTU (page 0, op 47; R87): Branches when A < B unsigned. -/
  | bltu (a b : Reg) (is : IPfx)
  /-- J (page 0, op 48; R88): Jumps by a signed offset. -/
  | j (a b : Reg) (is : IPfx)
  /-- CALL (page 0, op 49; R88): Writes the return address to q7, pushes a frame and jumps. -/
  | call (a b : Reg) (is : IPfx)
  /-- CALLR (page 0, op 50; R89): Writes q7, pushes a frame and transfers to the value of B. -/
  | callr (a b : Reg)
  /-- JR (page 0, op 51; R89): Transfers to the value of B. -/
  | jr (a b : Reg)
  /-- RET (page 0, op 52; R90): Pops a frame and transfers to p7. -/
  | ret (a b : Reg)
  /-- ADDPC (page 0, op 53; R91): Sets A to the next-group address plus a byte offset. -/
  | addpc (a b : Reg) (is : IPfx)
  /-- RDS (page 0, op 54; R92): Reads a user special register into A. -/
  | rds (a b : Reg)
  /-- WRS (page 0, op 55; R92): Writes A to a user special register; a write to WSP first waits for spills and fills to finish. -/
  | wrs (a b : Reg)
  /-- BRK (page 0, op 56; R93): Raises cause 8 carrying a code. -/
  | brk (a b : Reg) (is : IPfx)
  /-- SVC (page 0, op 57; R93): Raises cause 9 to the supervisor, carrying a code. -/
  | svc (a b : Reg) (is : IPfx)
  /-- NOP (page 0, op 58; R94): Has no effect. -/
  | nop (a b : Reg)
  /-- TRET (page 0, op 59; R95): Pops a frame, clears TVEC.BUSY and returns to TEPC. -/
  | tret (a b : Reg)
  /-- VADD (page 1, op 1; R138): Lane-wise addition. -/
  | vadd (a b : Reg) (r : Option RPfx)
  /-- VSUB (page 1, op 2; R138): Lane-wise subtraction. -/
  | vsub (a b : Reg) (r : Option RPfx)
  /-- VMUL (page 1, op 3; R138): Lane-wise multiplication. -/
  | vmul (a b : Reg) (r : Option RPfx)
  /-- VMULH (page 1, op 4; R135): Lane-wise high half of the signed product. -/
  | vmulh (a b : Reg) (r : Option RPfx)
  /-- VMIN (page 1, op 5; R138): Lane-wise signed or floating-point minimum. -/
  | vmin (a b : Reg) (r : Option RPfx)
  /-- VMAX (page 1, op 6; R138): Lane-wise signed or floating-point maximum. -/
  | vmax (a b : Reg) (r : Option RPfx)
  /-- VMINU (page 1, op 7; R135): Lane-wise unsigned minimum. -/
  | vminu (a b : Reg) (r : Option RPfx)
  /-- VMAXU (page 1, op 8; R135): Lane-wise unsigned maximum. -/
  | vmaxu (a b : Reg) (r : Option RPfx)
  /-- VAND (page 1, op 9; R136): Bitwise AND of 128 bits. -/
  | vand (a b : Reg) (r : Option RPfx)
  /-- VOR (page 1, op 10; R136): Bitwise OR of 128 bits. -/
  | vor (a b : Reg) (r : Option RPfx)
  /-- VXOR (page 1, op 11; R136): Bitwise XOR of 128 bits. -/
  | vxor (a b : Reg) (r : Option RPfx)
  /-- VANDN (page 1, op 12; R136): Bitwise A AND NOT B. -/
  | vandn (a b : Reg) (r : Option RPfx)
  /-- VSHL (page 1, op 13; R137): Lane-wise left shift by lane amounts. -/
  | vshl (a b : Reg) (r : Option RPfx)
  /-- VSHR (page 1, op 14; R137): Lane-wise logical right shift by lane amounts. -/
  | vshr (a b : Reg) (r : Option RPfx)
  /-- VSAR (page 1, op 15; R137): Lane-wise arithmetic right shift by lane amounts. -/
  | vsar (a b : Reg) (r : Option RPfx)
  /-- VSHLI (page 1, op 16; R137): Lane-wise left shift by an immediate. -/
  | vshli (a b : Reg) (r : Option RPfx) (is : IPfx)
  /-- VSHRI (page 1, op 17; R137): Lane-wise logical right shift by an immediate. -/
  | vshri (a b : Reg) (r : Option RPfx) (is : IPfx)
  /-- VSARI (page 1, op 18; R137): Lane-wise arithmetic right shift by an immediate. -/
  | vsari (a b : Reg) (r : Option RPfx) (is : IPfx)
  /-- VFMA (page 1, op 19; R138): Lane-wise fused D ← A × B + D. -/
  | vfma (a b : Reg) (r : Option RPfx)
  /-- VFMS (page 1, op 20; R138): Lane-wise fused D ← D − A × B. -/
  | vfms (a b : Reg) (r : Option RPfx)
  /-- VDIV (page 1, op 21; R138): Lane-wise floating-point division. -/
  | vdiv (a b : Reg) (r : Option RPfx)
  /-- VSQRT (page 1, op 22; R138): Lane-wise square root. -/
  | vsqrt (a b : Reg) (r : Option RPfx)
  /-- VRCP (page 1, op 23; R138): Lane-wise reciprocal, rounded by R126. -/
  | vrcp (a b : Reg) (r : Option RPfx)
  /-- VRSQ (page 1, op 24; R138): Lane-wise reciprocal square root, rounded by R126. -/
  | vrsq (a b : Reg) (r : Option RPfx)
  /-- VEXP2 (page 1, op 25; R141): Lane-wise 2^y. -/
  | vexp2 (a b : Reg) (r : Option RPfx)
  /-- VLOG2 (page 1, op 26; R141): Lane-wise log2 y. -/
  | vlog2 (a b : Reg) (r : Option RPfx)
  /-- VSIN (page 1, op 27; R141): Lane-wise sine of y turns. -/
  | vsin (a b : Reg) (r : Option RPfx)
  /-- VCOS (page 1, op 28; R141): Lane-wise cosine of y turns. -/
  | vcos (a b : Reg) (r : Option RPfx)
  /-- VABS (page 1, op 29; R138): Lane-wise absolute value. -/
  | vabs (a b : Reg) (r : Option RPfx)
  /-- VNEG (page 1, op 30; R138): Lane-wise negation. -/
  | vneg (a b : Reg) (r : Option RPfx)
  /-- VCEQ (page 1, op 31; R136): Lane-wise equality mask. -/
  | vceq (a b : Reg) (r : Option RPfx)
  /-- VCLT (page 1, op 32; R136): Lane-wise signed less-than mask. -/
  | vclt (a b : Reg) (r : Option RPfx)
  /-- VCLTU (page 1, op 33; R136): Lane-wise unsigned less-than mask. -/
  | vcltu (a b : Reg) (r : Option RPfx)
  /-- VCLE (page 1, op 34; R136): Lane-wise less-or-equal mask. -/
  | vcle (a b : Reg) (r : Option RPfx)
  /-- VSEL (page 1, op 35; R136): Bitwise select of A or B by the mask held in D. -/
  | vsel (a b : Reg) (r : Option RPfx)
  /-- VSPLAT (page 1, op 36; R139): Copies the low bits of scalar B into every lane. -/
  | vsplat (a b : Reg) (r : Option RPfx)
  /-- VEXT (page 1, op 37; R139): Extracts lane k to scalar A. -/
  | vext (a b : Reg) (r : Option RPfx)
  /-- VINS (page 1, op 38; R139): Inserts scalar B into lane k. -/
  | vins (a b : Reg) (r : Option RPfx)
  /-- VSHUF (page 1, op 39; R140): Selects lanes of A by the indices in B. -/
  | vshuf (a b : Reg) (r : Option RPfx)
  /-- VZIP (page 1, op 40; R140): Interleaves A and B into D and A. -/
  | vzip (a b : Reg) (r : Option RPfx)
  /-- VUNZIP (page 1, op 41; R140): De-interleaves A and B into D and A. -/
  | vunzip (a b : Reg) (r : Option RPfx)
  /-- VCVT (page 1, op 42; R143): Converts lanes between types. -/
  | vcvt (a b : Reg) (r : Option RPfx)
  /-- VRED (page 1, op 43; R144): Reduces all lanes by a fixed pairwise tree into scalar A. -/
  | vred (a b : Reg) (r : Option RPfx)
  /-- VDOT (page 1, op 44; R145): Accumulates dot products of adjacent lanes into wide lanes of D. -/
  | vdot (a b : Reg) (r : Option RPfx)
  /-- VPOPC (page 1, op 45; R133): Lane-wise population count. -/
  | vpopc (a b : Reg) (r : Option RPfx)
  /-- VMULW (page 1, op 46; R146): Widening products of the low lanes. -/
  | vmulw (a b : Reg) (r : Option RPfx)
  /-- VMOV (page 1, op 47; R133): Copies vector register B to A. -/
  | vmov (a b : Reg)
  /-- TDEF (page 2, op 1; R251): Reads a tile descriptor and writes it into an EMPTY tile entry. -/
  | tdef (a b : Reg) (is : IPfx)
  /-- TSTAT (page 2, op 2; R253): Returns a tile's state, pins, latch and tag. -/
  | tstat (a b : Reg)
  /-- TREADY (page 2, op 3; R251): Releases at die scope and sets an EMPTY tile READY. -/
  | tready (a b : Reg)
  /-- TEMPTY (page 2, op 4; R252): Drains a tile to EMPTY once its pins fall to 0. -/
  | tempty (a b : Reg)
  /-- MMA (page 2, op 5; R263): Issues a matrix job and waits until it is DONE or FAILED. -/
  | mma (a b : Reg)
  /-- MMAQ (page 2, op 6; R263): Issues a matrix job and returns its job id without waiting. -/
  | mmaq (a b : Reg) (r : Option RPfx)
  /-- MMAG (page 2, op 7; R265): Issues a gathered-row matrix job and waits for it. -/
  | mmag (a b : Reg)
  /-- MMAGQ (page 2, op 8; R265): Issues a gathered-row matrix job without waiting. -/
  | mmagq (a b : Reg) (r : Option RPfx)
  /-- MZERO (page 2, op 9; R266): Issues a job that zeroes a tile, and waits for it. -/
  | mzero (a b : Reg)
  /-- MCVT (page 2, op 10; R270): Issues a scaled conversion job between tiles, and waits for it. -/
  | mcvt (a b : Reg)
  /-- JWAIT (page 2, op 11; R264): Waits for a matrix job to finish and returns its state and status. -/
  | jwait (a b : Reg)
  /-- JPOLL (page 2, op 12; R264): Returns a matrix job's state and status at once. -/
  | jpoll (a b : Reg)
  /-- WHINT (page 2, op 13; R271): Starts the switch-on of the octet's gated engine. -/
  | whint (a b : Reg)
  /-- AMAXR (page 2, op 14; R269): Reads an entry, the maximum, NEXT or COUNT of an amax ring. -/
  | amaxr (a b : Reg)
  /-- AMAXC (page 2, op 15; R269): Clears an amax ring and/or records a value in it. -/
  | amaxc (a b : Reg)
  /-- COPY (page 3, op 1; R290): Issues a copy job from a region record. -/
  | copy (a b : Reg) (is : IPfx)
  /-- COPYH (page 3, op 2; R290): Issues a copy job from a registered record handle. -/
  | copyh (a b : Reg)
  /-- HREG (page 3, op 3; R288): Registers a region record and returns a handle. -/
  | hreg (a b : Reg) (is : IPfx)
  /-- HFREE (page 3, op 4; R288): Frees a registered record handle. -/
  | hfree (a b : Reg)
  /-- HCHK (page 3, op 5; R288): Reports whether a handle is current, and its in-flight count. -/
  | hchk (a b : Reg)
  /-- STXR (page 3, op 6; R297): Issues a stencil restriction job. -/
  | stxr (a b : Reg) (is : IPfx)
  /-- STXP (page 3, op 7; R297): Issues a stencil prolongation job. -/
  | stxp (a b : Reg) (is : IPfx)
  /-- SGATH (page 3, op 8; R308): Issues an indexed row-gather job to the stack engine. -/
  | sgath (a b : Reg) (is : IPfx)
  /-- SREDI (page 3, op 9; R315): Initialises a reduction cell with EMAX. -/
  | sredi (a b : Reg) (is : IPfx) (m : Option MPfx)
  /-- SRED (page 3, op 10; R315): Posts a scalar contribution to a reduction cell. -/
  | sred (a b : Reg) (r : Option RPfx) (is : IPfx)
  /-- SREDV (page 3, op 11; R315): Posts each lane of a vector as a contribution to a reduction cell. -/
  | sredv (a b : Reg) (r : Option RPfx) (is : IPfx)
  /-- SREDF (page 3, op 12; R316): Reads a reduction cell's value as FP64. -/
  | sredf (a b : Reg) (is : IPfx) (m : Option MPfx)
  /-- SCVT (page 3, op 13; R311): Issues a format-conversion job to the stack engine. -/
  | scvt (a b : Reg) (is : IPfx)
  /-- CANCEL (page 3, op 14; R294): Marks a copy-unit job of the context for cancellation. -/
  | cancel (a b : Reg)
  /-- SPAWN (page 4, op 1; R164): Sends a start message to a core. -/
  | spawn (a b : Reg) (is : IPfx)
  /-- SEND (page 4, op 2; R161): Releases and sends a user message to a slot. -/
  | send (a b : Reg)
  /-- RECV (page 4, op 3; R162): Takes the oldest message for the slot, or parks until one arrives. -/
  | recv (a b : Reg)
  /-- PEEK (page 4, op 4; R163): Counts waiting messages, and optionally reads the oldest header. -/
  | peek (a b : Reg) (r : Option RPfx)
  /-- QUIT (page 4, op 5; R170): Retires the thread: waits for its jobs, releases, decrements counters and frees the slot. -/
  | quit (a b : Reg)
  /-- TASK (page 4, op 6; R166): Enqueues a task packet and returns a task handle. -/
  | task (a b : Reg) (r : Option RPfx) (is : IPfx)
  /-- LAUNCH (page 4, op 7; R171): Offers a launch block to the dies of its set. -/
  | launch (a b : Reg) (is : IPfx)
  /-- JOINI (page 4, op 8; R168): Initialises a join counter as one action. -/
  | joini (a b : Reg) (r : Option RPfx) (is : IPfx) (m : Option MPfx)
  /-- FINIT (page 4, op 9; R185): Empties a future cell and sets its owner. -/
  | finit (a b : Reg) (is : IPfx) (m : Option MPfx)
  /-- FWAIT (page 4, op 10; R187): Reads a future's value, or helps its owner and waits. -/
  | fwait (a b : Reg) (is : IPfx) (m : Option MPfx)
  /-- FPUT (page 4, op 11; R186): Stores a value into an empty future in fill mode. -/
  | fput (a b : Reg) (is : IPfx) (m : Option MPfx)
  /-- LOCK (page 4, op 12; R188): Takes a lock, or helps its holder and waits. -/
  | lock (a b : Reg) (is : IPfx) (m : Option MPfx)
  /-- UNLOCK (page 4, op 13; R189): Frees a held lock and serves its waiters. -/
  | unlock (a b : Reg) (is : IPfx) (m : Option MPfx)
  /-- QPUSH (page 4, op 14; R190): Pushes a value into a queue object. -/
  | qpush (a b : Reg) (is : IPfx) (m : Option MPfx)
  /-- QPOP (page 4, op 15; R191): Pops the head entry of a queue object, or helps its owner and waits. -/
  | qpop (a b : Reg) (is : IPfx) (m : Option MPfx)
  /-- AMOADD (page 4, op 16; R220): Atomic add by take and put. -/
  | amoadd (a b : Reg) (r : Option RPfx) (is : IPfx) (m : Option MPfx)
  /-- AMOAND (page 4, op 17; R220): Atomic AND. -/
  | amoand (a b : Reg) (r : Option RPfx) (is : IPfx) (m : Option MPfx)
  /-- AMOOR (page 4, op 18; R220): Atomic OR. -/
  | amoor (a b : Reg) (r : Option RPfx) (is : IPfx) (m : Option MPfx)
  /-- AMOXOR (page 4, op 19; R220): Atomic XOR. -/
  | amoxor (a b : Reg) (r : Option RPfx) (is : IPfx) (m : Option MPfx)
  /-- AMOMIN (page 4, op 20; R220): Atomic signed minimum. -/
  | amomin (a b : Reg) (r : Option RPfx) (is : IPfx) (m : Option MPfx)
  /-- AMOMAX (page 4, op 21; R220): Atomic signed maximum. -/
  | amomax (a b : Reg) (r : Option RPfx) (is : IPfx) (m : Option MPfx)
  /-- AMOMINU (page 4, op 22; R220): Atomic unsigned minimum. -/
  | amominu (a b : Reg) (r : Option RPfx) (is : IPfx) (m : Option MPfx)
  /-- AMOMAXU (page 4, op 23; R220): Atomic unsigned maximum. -/
  | amomaxu (a b : Reg) (r : Option RPfx) (is : IPfx) (m : Option MPfx)
  /-- AMOSWP (page 4, op 24; R220): Atomic swap. -/
  | amoswp (a b : Reg) (r : Option RPfx) (is : IPfx) (m : Option MPfx)
  /-- CAS (page 4, op 25; R220): Atomic compare-and-swap; a failed compare still takes and puts. -/
  | cas (a b : Reg) (r : Option RPfx) (is : IPfx) (m : Option MPfx)
  /-- VAMO (page 4, op 26; R221): Atomic lane-wise operation on an aligned 16-byte pair. -/
  | vamo (a b : Reg) (r : Option RPfx) (is : IPfx) (m : Option MPfx)
  /-- EMPTY (page 4, op 27; R157): Sets up to 512 consecutive words empty. -/
  | empty (a b : Reg) (is : IPfx) (m : Option MPfx)
  /-- BARI (page 4, op 28; R173): Initialises a barrier object and releases its waiters. -/
  | bari (a b : Reg) (r : Option RPfx) (is : IPfx) (m : Option MPfx)
  /-- BAR (page 4, op 29; R174): Arrives at a barrier and waits for its phase to advance. -/
  | bar (a b : Reg) (is : IPfx) (m : Option MPfx)
  /-- FENCE (page 4, op 30; R232): Performs a release and/or acquire of a scope. -/
  | fence (a b : Reg) (m : Option MPfx)
  /-- QBIND (page 4, op 31; R175): Binds g6 and g7 to hardware queues. -/
  | qbind (a b : Reg)
  /-- QRES (page 4, op 32; R190): Reserves a queue entry with an owner for a later FPUT. -/
  | qres (a b : Reg) (r : Option RPfx) (is : IPfx) (m : Option MPfx)
  /-- RSV (page 5, op 1; R354): Requests a reservation that is admitted at once or refused. -/
  | rsv (a b : Reg)
  /-- RSVW (page 5, op 2; R363): Queues a reservation request and waits until it is admitted. -/
  | rsvw (a b : Reg)
  /-- RSVQ (page 5, op 3; R363): Queues a reservation request and returns a ticket. -/
  | rsvq (a b : Reg)
  /-- RWAIT (page 5, op 4; R364): Waits on a reservation ticket. -/
  | rwait (a b : Reg)
  /-- LEAP (page 5, op 5; R365): Turns an admitted reservation into an active leap. -/
  | leap (a b : Reg)
  /-- LEND (page 5, op 6; R365): Ends the thread's leap, reservation or request. -/
  | lend (a b : Reg)
  /-- RQRY (page 5, op 7; R366): Reads a quantity of the thread's pond. -/
  | rqry (a b : Reg)
  /-- MTRQ (page 5, op 8; R413): Reads a region's counter or state from the meter unit. -/
  | mtrq (a b : Reg)
  /-- MTRS (page 5, op 9; R413): Submits a request for a signed meter record to the Ramov core. -/
  | mtrs (a b : Reg)
  /-- RDP (page 6, op 1; R334): Reads a privileged special register. -/
  | rdp (a b : Reg)
  /-- WRP (page 6, op 2; R334): Writes a privileged special register. -/
  | wrp (a b : Reg)
  /-- STRET (page 6, op 3; R335): Returns from the supervisor: pops a frame and restores the level. -/
  | stret (a b : Reg)
  /-- TLBI (page 6, op 4; R336): Invalidates cached translations over a scope. -/
  | tlbi (a b : Reg)
  /-- CTXS (page 6, op 5; R339): Saves a HELD or STOPPED slot into a context record. -/
  | ctxs (a b : Reg) (is : IPfx)
  /-- CTXL (page 6, op 6; R340): Loads a context record into a free slot of a core. -/
  | ctxl (a b : Reg) (is : IPfx)
  /-- PREEMPT (page 6, op 7; R338): Requests that a slot halt, and returns the result. -/
  | preempt (a b : Reg)
  /-- KILL (page 6, op 8; R342): Starts the teardown of a context. -/
  | kill (a b : Reg)
  /-- MIGR (page 6, op 9; R343): Marks a RUNNING thread to migrate to another die. -/
  | migr (a b : Reg)
  /-- SECM (page 6, op 10; R344): Passes a request block to the Ramov request queue. -/
  | secm (a b : Reg) (is : IPfx)
  /-- HALT (page 6, op 11; R345): Parks until a message waits for the slot. -/
  | halt (a b : Reg)
  /-- ICINV (page 6, op 12; R337): Drops a byte range from fetch buffers and instruction caches over a scope. -/
  | icinv (a b : Reg)
  /-- MULH (page 7, op 1; R96): High 64 bits of the signed product. -/
  | mulh (a b : Reg) (r : Option RPfx)
  /-- MULHU (page 7, op 2; R96): High 64 bits of the unsigned product. -/
  | mulhu (a b : Reg) (r : Option RPfx)
  /-- DIV (page 7, op 3; R97): Signed quotient, which never traps. -/
  | div (a b : Reg) (r : Option RPfx)
  /-- DIVU (page 7, op 4; R97): Unsigned quotient. -/
  | divu (a b : Reg) (r : Option RPfx)
  /-- REM (page 7, op 5; R97): Signed remainder. -/
  | rem (a b : Reg) (r : Option RPfx)
  /-- REMU (page 7, op 6; R97): Unsigned remainder. -/
  | remu (a b : Reg) (r : Option RPfx)
  /-- MINU (page 7, op 7; R96): Unsigned minimum. -/
  | minu (a b : Reg) (r : Option RPfx)
  /-- MAXU (page 7, op 8; R96): Unsigned maximum. -/
  | maxu (a b : Reg) (r : Option RPfx)
  /-- NEG (page 7, op 9; R96): Two's-complement negation of B. -/
  | neg (a b : Reg)
  /-- NOT (page 7, op 10; R96): Bitwise NOT of B. -/
  | not (a b : Reg)
  /-- CLZ (page 7, op 11; R96): Counts the leading zero bits of B. -/
  | clz (a b : Reg)
  /-- CTZ (page 7, op 12; R96): Counts the trailing zero bits of B. -/
  | ctz (a b : Reg)
  /-- POPC (page 7, op 13; R96): Counts the one bits of B. -/
  | popc (a b : Reg)
  /-- BREV (page 7, op 14; R96): Reverses the bits of B. -/
  | brev (a b : Reg)
  /-- BSWAP (page 7, op 15; R96): Reverses the bytes of B. -/
  | bswap (a b : Reg)
  /-- SEXTB (page 7, op 16; R96): Sign-extends B[7:0]. -/
  | sextb (a b : Reg)
  /-- SEXTH (page 7, op 17; R96): Sign-extends B[15:0]. -/
  | sexth (a b : Reg)
  /-- SEXTW (page 7, op 18; R96): Sign-extends B[31:0]. -/
  | sextw (a b : Reg)
  /-- ROL (page 7, op 19; R96): Rotates A left by B[5:0]. -/
  | rol (a b : Reg) (r : Option RPfx)
  /-- ROR (page 7, op 20; R96): Rotates A right by B[5:0]. -/
  | ror (a b : Reg) (r : Option RPfx)
  /-- BEXT (page 7, op 21; R98): Extracts a bit field of A. -/
  | bext (a b : Reg) (r : Option RPfx)
  /-- BINS (page 7, op 22; R98): Inserts a bit field into D. -/
  | bins (a b : Reg) (r : Option RPfx)
  /-- FADD (page 7, op 23; R118): Floating-point addition with one rounding. -/
  | fadd (a b : Reg) (r : Option RPfx)
  /-- FSUB (page 7, op 24; R118): Floating-point subtraction. -/
  | fsub (a b : Reg) (r : Option RPfx)
  /-- FMUL (page 7, op 25; R118): Floating-point multiplication. -/
  | fmul (a b : Reg) (r : Option RPfx)
  /-- FDIV (page 7, op 26; R118): Floating-point division. -/
  | fdiv (a b : Reg) (r : Option RPfx)
  /-- FSQRT (page 7, op 27; R119): Floating-point square root. -/
  | fsqrt (a b : Reg) (r : Option RPfx)
  /-- FMA (page 7, op 28; R119): Fused D ← A × B + D. -/
  | fma (a b : Reg) (r : Option RPfx)
  /-- FMIN (page 7, op 29; R120): Floating-point minimum. -/
  | fmin (a b : Reg) (r : Option RPfx)
  /-- FMAX (page 7, op 30; R120): Floating-point maximum. -/
  | fmax (a b : Reg) (r : Option RPfx)
  /-- FEQ (page 7, op 31; R121): Floating-point equality compare. -/
  | feq (a b : Reg) (r : Option RPfx)
  /-- FLT (page 7, op 32; R121): Floating-point less-than compare. -/
  | flt (a b : Reg) (r : Option RPfx)
  /-- FLE (page 7, op 33; R121): Floating-point less-or-equal compare. -/
  | fle (a b : Reg) (r : Option RPfx)
  /-- FCVTI (page 7, op 34; R123): Converts a floating-point value to a 64-bit integer. -/
  | fcvti (a b : Reg) (r : Option RPfx)
  /-- FCVTF (page 7, op 35; R124): Converts a 64-bit integer to floating point. -/
  | fcvtf (a b : Reg) (r : Option RPfx)
  /-- FCVT (page 7, op 36; R122): Converts between floating-point types. -/
  | fcvt (a b : Reg) (r : Option RPfx)
  /-- FCLASS (page 7, op 37; R125): Writes a one-hot class mask of a value. -/
  | fclass (a b : Reg) (r : Option RPfx)
  /-- RCP (page 7, op 38; R126): Reciprocal at fixed precision, rounded RNE. -/
  | rcp (a b : Reg) (r : Option RPfx)
  /-- RSQ (page 7, op 39; R126): Reciprocal square root at fixed precision. -/
  | rsq (a b : Reg) (r : Option RPfx)
  /-- FABS (page 7, op 40; R127): Clears the sign bit. -/
  | fabs (a b : Reg) (r : Option RPfx)
  /-- FNEG (page 7, op 41; R127): Inverts the sign bit. -/
  | fneg (a b : Reg) (r : Option RPfx)
  /-- QD (R224): The head of a core's store queue moves into the cluster write buffer. -/
  | qd (core : Nat)
  /-- BD (R224): A write-buffer entry leaves for its home or for the channel to the home's die. -/
  | bd (cluster : Nat) (index : Nat)
  /-- ND (R384): The head of a die-to-die channel is performed at its home. -/
  | nd (src : Nat) (dst : Nat)
  /-- CF (R224): The cluster fills a read-cache line of an RC page from its home. -/
  | cf (cluster : Nat) (line : Nat)
  /-- CE (R211): The cluster drops a read-cache line. -/
  | ce (cluster : Nat) (line : Nat)
  /-- EW (R234): An engine performs one write at a home and serves the word's wait list. -/
  | ew (unit : Nat) (n : Nat)
  /-- ER (R234): An engine performs one read at a home. -/
  | er (unit : Nat) (n : Nat)
  /-- PT (R215): On the reply to a granted take, the core computes the new value and sends the put. -/
  | pt (tid : Nat)
  /-- MS (R158): A target core accepts a message into its mailbox and wakes the receiving slot. -/
  | ms (n : Nat)
  /-- WINDOW_SPILL (R66): In an idle cycle the core spills a slot's oldest resident frame to the spill area. -/
  | windowSpill (tid : Nat)
  /-- WINDOW_FILL (R67): A demanded fill of a spilled frame completes and the popping thread proceeds. -/
  | windowFill (tid : Nat)
  /-- USER_TRAP_DELIVERY (R76): A trap is delivered to TVEC: a frame is pushed, the trap registers are set and BUSY is set. -/
  | userTrapDelivery (tid : Nat)
  /-- SUPERVISOR_TRAP_DELIVERY (R319): A trap is delivered to STVEC at supervisor level. -/
  | supervisorTrapDelivery (tid : Nat)
  /-- START_MESSAGE_ACCEPT (R164): A target core puts a start message in its start queue or a slot. -/
  | startMessageAccept (tid : Nat)
  /-- SLOT_START (R165): A free slot starts the oldest start message or the highest-ranked task packet. -/
  | slotStart (core : Nat)
  /-- LAUNCH_ACCEPT (R389): A die accepts a launch block into a free launch record and computes its units. -/
  | launchAccept (tid : Nat)
  /-- SCHEDULER_PLACE (R392): The die scheduler places one unit or packet into the least-loaded eligible core's task queue. -/
  | schedulerPlace (die : Nat)
  /-- JOIN_DECREMENT (R169): A join counter is decremented by take and put at its home, and a continuation may be enqueued. -/
  | joinDecrement (n : Nat)
  /-- MATRIX_JOB_RUN (R258): The matrix engine starts a queued job and accumulates it into the latched D. -/
  | matrixJobRun (cluster : Nat) (octet : Nat)
  /-- CHAIN_WRITEBACK (R262): At the end of a chain the engine writes D back, sets it READY and marks the chain's jobs DONE. -/
  | chainWriteback (cluster : Nat) (octet : Nat)
  /-- MZERO_JOB (R266): The engine writes zeros over a tile's footprint and sets it READY. -/
  | mzeroJob (cluster : Nat) (octet : Nat)
  /-- MCVT_JOB (R270): The engine converts a tile with a ring-derived scale and writes the destination and SPTR. -/
  | mcvtJob (cluster : Nat) (octet : Nat)
  /-- RUN_AHEAD (R267): The engine prefetches operands of up to 3 queued jobs. -/
  | runAhead (cluster : Nat) (octet : Nat)
  /-- ENGINE_IDLE_GATE (R271): An engine gates itself after the programmed idle count. -/
  | engineIdleGate (cluster : Nat) (octet : Nat)
  /-- ENGINE_SWITCH_ON (R271): A gated engine finishes switching on and waiting jobs proceed. -/
  | engineSwitchOn (cluster : Nat) (octet : Nat)
  /-- COPY_CHUNK (R277): A copy or stencil job checks its handle and cancellation, then processes its next 4,096-byte chunk. -/
  | copyChunk (cluster : Nat) (octet : Nat)
  /-- COPY_JOB_END (R292): A copy job ends, credits its last chunk and sends its completion if asked. -/
  | copyJobEnd (cluster : Nat) (octet : Nat)
  /-- STACK_JOB_CHUNK (R310): A stack engine processes the next chunk of a gather or conversion job. -/
  | stackJobChunk (die : Nat)
  /-- STACK_JOB_END (R307): A stack-engine job ends and sends a kind-3 completion. -/
  | stackJobEnd (die : Nat)
  /-- TABLE_WALK (R330): The die walker completes a translation walk and fills the TLBs. -/
  | tableWalk (tid : Nat) (va : Nat)
  /-- TLBI_ACK (R336): A cluster drops the covered translations and acknowledges; the last acknowledgement completes the TLBI. -/
  | tlbiAck (n : Nat) (cluster : Nat)
  /-- PREEMPT_HALT (R325): The target thread halts at a group boundary and becomes HELD; the issuer gets its result. -/
  | preemptHalt (tid : Nat)
  /-- KILL_COMPLETE (R326): Context teardown finishes and a STATUS 7 message is sent. -/
  | killComplete (context : Nat)
  /-- MIGRATION_PACK (R400): A thread marked by MIGR begins packing at its next group boundary. -/
  | migrationPack (tid : Nat)
  /-- TADPOLE_SHIP (R395): The arrival queue of the destination die accepts a tadpole and the old slot is freed. -/
  | tadpoleShip (tid : Nat)
  /-- TADPOLE_PLACE (R397): The head tadpole is restored in a slot on its new die and re-executes. -/
  | tadpolePlace (die : Nat)
  /-- LEAPCUT (R360): A displaced active leap's thread takes cause 10 at its next boundary. -/
  | leapcut (tid : Nat)
  /-- LEAPTRIP (R361): At a section trip a thread whose leap ended takes cause 11. -/
  | leaptrip (tid : Nat)
  /-- PCAP_WRITE (R349): Sets a pond's capacity; 0 removes the pond's leaps and requests. -/
  | pcapWrite (die : Nat) (pond : Nat) (value : BitVec 64)
  /-- PDRAIN_WRITE (R351): Credits drain to a pond's fill and runs its admission pass. -/
  | pdrainWrite (die : Nat) (pond : Nat) (value : BitVec 64)
  /-- RTRIP_WRITE (R361): Sets the trip level; 0 clears a trip at once. -/
  | rtripWrite (die : Nat) (value : BitVec 64)
  /-- RSENSE_WRITE (R361): Writes the section's sensed state, which may trip or clear the section. -/
  | rsenseWrite (die : Nat) (value : BitVec 64)
  /-- CPQREQ_WRITE (R373): Sets or clears the cluster quiesce request. -/
  | cpqreqWrite (cluster : Nat) (value : BitVec 64)
  /-- CLUSTER_QUIET (R373): A quiesced cluster with no live slots drains its buffers and QUIET becomes 1. -/
  | clusterQuiet (cluster : Nat)
  /-- SAVE (R375): CPRSAVE SAVE starts copying cluster retention state. -/
  | save (cluster : Nat)
  /-- RESTORE (R375): CPRSAVE RESTORE starts putting back retained state. -/
  | restore (cluster : Nat)
  /-- SAVE_COMPLETE (R375): A save ends: STATE becomes SAVED and CPEVT.SAVED is set. -/
  | saveComplete (cluster : Nat)
  /-- RESTORE_COMPLETE (R375): A restore ends: STATE becomes NONE and CPEVT.RESTORED is set. -/
  | restoreComplete (cluster : Nat)
  /-- CPCGATE_WRITE (R374): Gates or ungates the cluster's clocks, subject to the checks. -/
  | cpcgateWrite (cluster : Nat) (value : BitVec 64)
  /-- CPRAIL_WRITE (R376): Starts a sequenced rail transition of rows, array rail and engine switches. -/
  | cprailWrite (cluster : Nat) (value : BitVec 64)
  /-- RAIL_STEP (R376): One 64-cycle lowering or raising step of a rail field completes. -/
  | railStep (cluster : Nat)
  /-- STEP_WAIT_EXPIRY (R376): A raising step that waited 4,096 cycles for a neighbour proceeds with full assist. -/
  | stepWaitExpiry (cluster : Nat)
  /-- CPCORE_WRITE (R376): Switches cores on or off, one step per core switched on. -/
  | cpcoreWrite (cluster : Nat) (value : BitVec 64)
  /-- CPDIV_WRITE (R369): Sets core clock dividers, effective at each core's next group boundary. -/
  | cpdivWrite (cluster : Nat) (row : Nat) (value : BitVec 64)
  /-- WAKEREQ (R370): Sets CPWAKE.SUP of a cluster. -/
  | wakereq (die : Nat) (cluster : Nat) (value : BitVec 64)
  /-- VEXCL_WINDOW (R380): At each 256-cycle boundary the cluster decides which layer is halved. -/
  | vexclWindow (cluster : Nat)
  /-- PHASE_FAILURE (R378): A regulator phase of a row fails. -/
  | phaseFailure (cluster : Nat) (row : Nat)
  /-- DARK_ROW_EXPIRY (R379): After 2^24 cycles, contexts still holding the dark row are killed and the row reads OFF. -/
  | darkRowExpiry (cluster : Nat) (row : Nat)
  /-- PWRIN_UPDATE (R369): Module input power is updated every 2^20 cycles. -/
  | pwrinUpdate (value : BitVec 64)
  /-- LINKCTL_WRITE (R386): Requests a link width or rate change, subject to the checks. -/
  | linkctlWrite (die : Nat) (link : Nat) (value : BitVec 64)
  /-- LINK_WIDTH_CHANGE (R386): A link width change completes and sets WDONE. -/
  | linkWidthChange (die : Nat) (link : Nat)
  /-- LINK_RATE_CHANGE (R386): A link rate change completes and sets RDONE. -/
  | linkRateChange (die : Nat) (link : Nat)
  /-- LANE_FAILURE (R387): A link lane fails and is mapped out, or the link drops its width. -/
  | laneFailure (die : Nat) (link : Nat)
  /-- METER_APPLY (R406): A posted counting event is applied to its region's counter. -/
  | meterApply (n : Nat)
  /-- POWER_LOSS (R410): Power is lost; OPEN regions become BROKEN at their last checkpoint. -/
  | powerLoss
  /-- REGISTER (R408): Ramov registers a weight region, measures it and opens it. -/
  | register
  /-- CLOSE (R411): Ramov closes a region with a final checkpoint and closing record. -/
  | close
  /-- ATTACH (R410): Ramov re-measures a BROKEN region and reopens it. -/
  | attach
  /-- MEASURE (R407): Ramov measures a code-object manifest into the code table. -/
  | measure
  /-- UNREGISTER (R414): Ramov removes a code-table entry and lifts its protection. -/
  | unregister
  /-- GETLOG (R416): Ramov writes the start-up measurement log to a buffer. -/
  | getlog
  /-- GETCKPT (R411): Ramov writes a region's latest signed record to a buffer. -/
  | getckpt
  /-- GETKEY (R414): Ramov writes the public key and certificate to a buffer. -/
  | getkey
  /-- SIGNED_RECORD_REQUEST (R413): Ramov serves an MTRS request with a checkpoint and a KIND-1 signed record. -/
  | signedRecordRequest
  /-- UNSEAL (R341): A WRP of PRIVST with UNSEAL removes the context's seal at a home. -/
  | unseal (tid : Nat)
  /-- BAR2_READ (R418): A host read through BAR2 reads device memory at the home. -/
  | bar2Read (fn : Nat) (offset : Nat) (count : Nat)
  /-- BAR2_WRITE (R418): A host write through BAR2 writes device memory at the home. -/
  | bar2Write (fn : Nat) (offset : Nat) (bytes : List (BitVec 8))
  /-- QTAIL_WRITE (R421): A host notify advances a queue's TAIL once earlier BAR2 writes are performed. -/
  | qtailWrite (fn : Nat) (queue : Nat) (value : BitVec 64)
  /-- QCTL_WRITE (R419): Enables or configures a host queue, checking for a bad configuration. -/
  | qctlWrite (fn : Nat) (queue : Nat) (value : BitVec 64) (sup : Bool)
  /-- HOST_QUEUE_TAKE (R420): The queue engine takes entry HEAD and issues its launch block. -/
  | hostQueueTake (fn : Nat) (queue : Nat)
  /-- HOST_COMPLETION (R421): A completed entry's record is written to the host, then its MSI-X is sent. -/
  | hostCompletion (fn : Nat) (queue : Nat)
  /-- BOOTCMD_WRITE (R427): In stage 6 the supervisor record is measured and loaded into TID 0. -/
  | bootcmdWrite (fn : Nat) (value : BitVec 64)
  /-- MODULE_RESET (R426): Module reset restores reset values and starts the start sequence. -/
  | moduleReset
  /-- RAMOV_BOOT (R426): Stage 1: the Ramov boot ROM runs. -/
  | ramovBoot
  /-- FIRMWARE_VERIFY (R416): Stage 2: firmware images are measured, verified and logged. -/
  | firmwareVerify
  /-- CONTROL_CORE_RELEASE (R429): Stage 3: the die control cores are released at 0x4_0000. -/
  | controlCoreRelease
  /-- LINK_TRAINING (R387): Stage 4: HBM4E and package links train. -/
  | linkTraining
  /-- PCIE_ENUMERATE (R426): Stage 5: the PCIe endpoint enumerates. -/
  | pcieEnumerate
  /-- REMOTE_WRITE_FRAME (R424): A received remote write is performed at its home and acknowledged. -/
  | remoteWriteFrame (frame : Frame)
  /-- REMOTE_MESSAGE_FRAME (R425): A received remote message is accepted into the target mailbox. -/
  | remoteMessageFrame (frame : Frame)
  /-- ACKNOWLEDGEMENT_FRAME (R423): A cumulative acknowledgement retires unacknowledged frames at the sender. -/
  | acknowledgementFrame (pkg : Nat) (cls : Nat) (upTo : Nat)
  /-- RETRANSMIT (R423): After 2^17 cycles unacknowledged frames are resent from the oldest. -/
  | retransmit (pkg : Nat) (cls : Nat)
  /-- REGISTER_WRITE (R347): A write to a device register that has no behaviour of its own sets its fields. -/
  | registerWrite (pa : Nat) (value : BitVec 64)
  /-- SOFT_ERROR (R207): A soft error strikes a stored word or its full/empty bit, leaving it correctable or making it uncorrectable until a whole-word write repairs it. -/
  | softError (pa : Nat) (correctable : Bool)
  /-- SHUNT_USE_CHANGE (R376): A row's or engine switch's measured shunt use changes, which can let a raising step that waits on a neighbour above 90% proceed. -/
  | shuntUseChange (cluster : Nat) (sensor : Nat) (value : BitVec 64)
  /-- ICINV_COMPLETE (R337): Every core and cluster in scope has dropped the ICINV range from its fetch buffers and instruction caches, and the parked issuer completes. -/
  | icinvComplete (n : Nat)
  /-- BADCODE_REQUEST (R414): The Ramov core takes a SECM request block with an unknown CODE and refuses it with a BADCODE reply. -/
  | badcodeRequest
  deriving DecidableEq, Repr

end Sys2Proof
end

