-- ==== Sys2Proof/Machine/State.lean ====
section
/-!
DEFINITION. Sys2Proof/Machine/State.lean: the state of one DLT-8816 module as plain data, and its reset value.
Numbers that name a party: a slot is its TID (Table 1.7); the control core of die d is slot 2^17 + d (R370); a core is
its TID without the SLOT field, and the control core of die d is core 8192 + d; a cluster is die * 16 + cluster, as in a
TID. A home address is a physical address of
Table 1.9, or one the model gives to storage that has none (TCMs and control-core memories, log 14).
-/
namespace Sys2Proof.Machine

/-! ### Threads -/

/-- Slot states (Table 13.2). -/
inductive SlotState where
  | free | running | held | stopped
  deriving DecidableEq, Repr

/-- The context of a thread: identity, translation root and tables (Table 13.4, Table 13.5 w0-w15). -/
structure Ctx where
  id       : BitVec 12
  tenant   : BitVec 16
  pondmap  : Word
  ptbase   : Word
  stvec    : Word
  rankset  : BitVec 3
  ttbase   : Word
  ttsize   : Word
  rtbase   : Word
  rtsize   : Word
  tiles    : Word
  ringmask : Word
  spbase   : Word
  spstride : Word
  deriving DecidableEq, Repr

/-- The system context before any record is loaded. -/
def Ctx.zero : Ctx := ⟨0, 0, 0, 0, 0, 0, 0, 0, 0, 0, 0, 0, 0, 0⟩

/-- TSR (Table 3.3). -/
structure Tsr where
  priv     : Bool
  migrated : Bool
  adopted  : Bool
  lost     : Bool
  cut      : Bool
  leap     : Bool
  deriving DecidableEq, Repr

/-- The states of a request or reservation (Table 14.2). -/
inductive RsvState where
  | none | waiting | admitted | active | displaced
  deriving DecidableEq, Repr

/-- LEAPH (Table 14.2). -/
structure LeapH where
  state : RsvState
  rank  : Nat
  pond  : Nat
  units : Nat
  spent : Nat
  seq   : Nat
  deriving DecidableEq, Repr

/-- No request. -/
def LeapH.zero : LeapH := ⟨.none, 0, 0, 0, 0, 0⟩

/-- A trap on its way to delivery: cause, return point, address and information (R76, R319). -/
structure Trap where
  cause : Nat
  ret   : Word
  addr  : Word
  info  : Word
  deriving DecidableEq, Repr

/-- An address bound to the storage of a core, in a context (R430): a counter, a packet or a barrier; with the level and code
identity of the thread that named it. -/
structure Bound where
  addr   : Word
  tid    : Nat
  ctx    : Ctx
  priv   : Bool
  codeid : BitVec 16
  deriving DecidableEq, Repr

/-- What a direct access, or a load that found bytes missing, does at its home (R86, R157, R168 to R174, R185 to R191,
R215, R315, R316). Registers named are those of the issuing thread. -/
inductive HomeOp where
  | load (signed : Bool) (rd : Reg)
  | loadV (vd : Reg)
  | store (value : Nat)
  | amo (op : Nat) (operand : Word) (rd : Reg)
  | cas (expected new : Word) (rd : Reg)
  | vamo (sel : Nat) (width : Nat) (operand : VWord) (vd : Reg)
  | finit (owner : Word)
  | fwait (rd : Reg)
  | fput (value : Word)
  | lock (rd : Reg)
  | unlock (value : Word)
  | qpush (value : Word)
  | qpop (rd : Reg)
  | qres (owner : Option Word) (rd : Reg)
  | joini (count packet : Word)
  | bari (arrivals bytes : Word)
  | bar (rd : Reg)
  | empty (words : Nat)
  | sredi (emax : Word)
  | sredf (rd : Reg)
  | device (write : Bool) (value : Word) (rd : Reg)
  deriving DecidableEq, Repr

/-- One access of a thread that acts at a home (Table 9.2). `pa` is the home address of its lowest byte, `got` the
bytes of a forwarding load already found in Q, W or L (offset, byte), `acq` the scope it acquires afterwards, `region`
the METERED region it counts in. -/
structure Access where
  tid    : Nat
  va     : Word
  pa     : Nat
  size   : Nat
  fe     : BitVec 2
  op     : HomeOp
  got    : Table Byte
  acq    : Option Nat
  strong : Bool
  region : Option Nat
  ctx    : BitVec 12
  deriving DecidableEq, Repr

/-- Which instruction waits for a pond (R358). -/
inductive PondWait where
  | rsvw | rsvq | rwait
  deriving DecidableEq, Repr

/-- The three returns: RET, TRET and STRET differ in the registers that they change (R90, R95, R335). -/
inductive RetKind where
  | ret | tret | stret
  deriving DecidableEq, Repr

/-- Why a thread is parked (Table 6.1), with what its group still needs: `framePlace` the target of a call, or none for a
trap delivery; `frameFill` the target and kind of a return; `jobsEnd` the counter operand of a QUIT. A hardware-queue wait
names the places its pushes need, 0 for a pop. -/
inductive Park where
  | reply (a : Access)                      -- memory reply: completes
  | word (a : Access)                       -- full/empty wait: completes
  | granted (a : Access) (old : Nat)        -- a granted take whose put PT sends
  | barWait (a : Access) (phase : Word)     -- second half of a BAR: completes
  | queueWord                               -- queue header or entry: re-executes
  | release (scope : Nat)                   -- a release that waits for other parties
  | mailbox                                 -- RECV
  | halt                                    -- HALT
  | backPressure                            -- SPAWN, TASK, SEND
  | launch (block : List Word) (s : Word) (rest : List Nat) (recs : List (Nat × Nat)) (rd : Reg)
  | hwQueue (q places : Nat)
  | framePlace (target : Option Word)       -- completes
  | frameFill (target : Word) (how : RetKind) -- completes
  | job (cluster octet id : Nat) (tid : Nat)  -- MMA, MMAG, MZERO, MCVT on an accepted job
  | jobId (cluster octet id : Nat) (rd : Reg) -- JWAIT
  | jobsEnd (ctr : Option Word)             -- QUIT with jobs outstanding: completes
  | tile (cluster t : Nat)
  | drain (cluster t : Nat)                 -- TEMPTY waiting for PINS = 0
  | pond (k : PondWait) (rd : Reg) (answer : Option Word)
  | migration (die : Nat) (pref : Nat) (packed : Bool)
  | preempt (target : Nat) (rd : Reg)
  | unseal
  | icinv
  | tlbi
  | ctxLoad
  deriving DecidableEq, Repr

/-- A parked thread: the cause, the address of the group and of the next one, the drops the group costs, and whether
the thread's leap was active at the issue (R357). -/
structure Parked where
  why   : Park
  next  : Word
  drops : Nat
  leapt : Bool
  deriving DecidableEq, Repr

/-- A pending sync job (Table 13.5, w136-w137) of the group at `pc` and window depth `depth`: the thread waits for it
when it next comes to that group (R274). -/
structure PendJob where
  pc      : Word
  depth   : Nat
  done    : Bool
  status  : Nat
  id      : Nat
  cluster : Nat
  octet   : Nat
  deriving DecidableEq, Repr

/-- What the device keeps of an adopting helper beside its frame (R193, R195, R198, R201): its waiting group, its TASKH,
parent counter, launch record, suspended reservation, whether that reservation was an active leap and has been lost, a held
leap trap, and its level and MIGRATED mark, which Table 7.7 does not hold (log 68). -/
structure Level where
  pc      : Word
  taskh   : Word
  parent  : Option Bound
  unit    : Option (Nat × Nat)
  leap    : LeapH
  wasLeap : Bool
  lost    : Bool
  held    : Option (Nat × Nat)
  priv    : Bool
  migrated : Bool
  deriving DecidableEq, Repr

/-- A window frame: p0-p7 then l0-l7 (R63). -/
abbrev WFrame := Vector Word 16

/-- One thread slot, or a control core's slot. -/
structure Thread where
  state    : SlotState
  pc       : Word
  regs     : Vector Word 32
  vregs    : Vector VWord 32
  frames   : List WFrame
  depth    : Nat
  reserve  : Option Nat
  spillBad : Bool
  wsp      : Word
  tsr      : Tsr
  fctl     : Word
  vtype    : Word
  fmt      : Word
  scp      : Word
  taskh    : Word
  mhdr     : Word
  rank     : BitVec 3
  leaph    : LeapH
  qbnd     : BitVec 8
  tvec     : Word
  tcause   : Word
  taddr    : Word
  tepc     : Word
  tinfo    : Word
  adepth   : Nat
  pondid   : BitVec 8
  scause   : Word
  saddr    : Word
  sepc     : Word
  sinfo    : Word
  privst   : Word
  codeid   : BitVec 16
  ctx      : Ctx
  park     : Option Parked
  pendTrap : Option (Nat × Nat)
  delivery : Option Trap
  barWait  : Option (Word × Word)
  pendJob  : Option PendJob
  migr     : Option (Nat × Option Nat)
  preempts : List Nat
  parent   : Option Bound
  unit     : Option (Nat × Nat)
  levels   : List Level
  g6       : Option Word
  issuedAt : Nat
  wokenAt  : Nat
  deriving DecidableEq, Repr

/-- A free slot: no thread (Table 13.2, R71; values before a first start by log 1). -/
def Thread.free : Thread where
  state := .free
  pc := 0
  regs := Vector.replicate 32 0
  vregs := Vector.replicate 32 0
  frames := []
  depth := 0
  reserve := none
  spillBad := false
  wsp := 0
  tsr := ⟨false, false, false, false, false, false⟩
  fctl := 0
  vtype := 0
  fmt := 0
  scp := 0
  taskh := 0
  mhdr := 0
  rank := 0
  leaph := LeapH.zero
  qbnd := 0
  tvec := 0
  tcause := 0
  taddr := 0
  tepc := 0
  tinfo := 0
  adepth := 0
  pondid := 0
  scause := 0
  saddr := 0
  sepc := 0
  sinfo := 0
  privst := 0
  codeid := 0
  ctx := Ctx.zero
  park := none
  pendTrap := none
  delivery := none
  barWait := none
  pendJob := none
  migr := none
  preempts := []
  parent := none
  unit := none
  levels := []
  g6 := none
  issuedAt := 0
  wokenAt := 0

/-! ### Stores, channels and waits of the ordering machine -/

/-- A buffered store (R223): virtual and home address, bytes from the lowest, context, the cluster whose buffers it
passes, the slots that stored, and the context records whose NDRAIN counts it (R325). A pair of words written by STV
leaves as one (R204). -/
structure Store where
  va      : Word
  pa      : Nat
  bytes   : List (Option Byte)
  ctx     : BitVec 12
  cluster : Nat
  owners  : List Nat
  saved   : List Nat
  deriving DecidableEq, Repr

/-- The put of a granted take (R215): one or two whole words at a home. -/
structure Put where
  va    : Word
  pa    : Nat
  words : List Word
  ctx   : BitVec 12
  owner : Nat
  saved : Option Nat
  deriving DecidableEq, Repr

/-- A posted update of SRED or SREDV (R317): contributions as binary64-or-narrower values of a format code. -/
structure Update where
  va    : Word
  pa    : Nat
  fmt   : Nat
  xs    : List Nat
  ctx   : BitVec 12
  owner : Nat
  saved : Option Nat
  deriving DecidableEq, Repr

/-- One read of a job at one home: part `part` of its read `key`, as a virtual address and a number of bytes. -/
structure JobRead where
  key  : Nat
  part : Nat
  va   : Nat
  n    : Nat
  deriving DecidableEq, Repr

/-- One write of a job at one home: virtual and home address and bytes; a pair is one write (R234). Where an element is no whole
byte, `part` gives the bits of a byte, by its place, that the write changes (R284). -/
structure JobWrite where
  va    : Word
  pa    : Nat
  bytes : List (Option Byte)
  part  : List (Nat × Byte)
  deriving DecidableEq, Repr

/-- An entry of a channel N(d,e) (Table 9.1, R383): a request of a thread, of job `id` of a unit (numbered by log 72), or of the
host, whose requests are numbered. -/
inductive ChanItem where
  | store (e : Store)
  | access (a : Access)
  | put (p : Put)
  | update (u : Update)
  | jobRead (unit id pa : Nat) (ctx : BitVec 12) (r : JobRead)
  | jobWrite (unit id : Nat) (ctx : BitVec 12) (w : JobWrite)
  | jobCredit (unit id pa : Nat) (ctx : BitVec 12) (va : Word) (n : Nat)
  | hostRead (id pa n : Nat)
  | hostWrite (fn id pa : Nat) (bytes : List Byte)
  deriving DecidableEq, Repr

/-- What a waiting access needs of the bit of each of its words (R156). -/
inductive Want where
  | full | empty | woken
  deriving DecidableEq, Repr

/-- An entry of the wait lists: the words it waits on, what it needs, and the access, or a thread that re-executes, or
a decrement of a join counter (R169). -/
inductive WaitAct where
  | perform (a : Access)
  | again (tid : Nat)
  | decrement (n : Nat)
  deriving DecidableEq, Repr

/-- A waiting access (R156). The one list of the state is in order of arrival. -/
structure Waiter where
  words : List Nat
  want  : Want
  act   : WaitAct
  deriving DecidableEq, Repr

/-- A seal (R239): the first lost address and the writes lost and discarded. -/
structure Seal where
  addr  : Word
  count : Nat
  deriving DecidableEq, Repr

/-! ### Messages, tasks and launches -/

/-- A mailbox message (R158): the slot addressed, header and payload. -/
structure Msg where
  dest    : Nat
  header  : Word
  payload : Vector Word 4
  scope   : Nat
  deriving DecidableEq, Repr

/-- A start message (R164): payload q0-q3, handler entry, sender's context and formats, and the release's scope. -/
structure StartMsg where
  sender  : Nat
  index   : Nat
  entry   : Option Word
  regs    : Vector Word 4
  ctx     : Ctx
  fmt     : Word
  scp     : Word
  pondid  : BitVec 8
  rank    : BitVec 3
  scope   : Nat
  deriving DecidableEq, Repr

/-- A task packet in a queue (R166): its words, the task handle, the context it was enqueued from, its rank after
clamping, and where its w7 counter is bound (R430). -/
structure Packet where
  words  : Vector Word 8
  handle : Word
  issuer : Nat
  ctx    : Ctx
  pondid : BitVec 8
  rank   : BitVec 3
  parent : Option Bound
  scope  : Nat
  deriving DecidableEq, Repr

/-- A launch record of a die (R389, R390): the block, its address, the units still to place and still to retire, and the counter of
its w7 as bound (R430). -/
structure LaunchRec where
  block   : Vector Word 8
  addr    : Word
  ctx     : Ctx
  tid     : Nat
  rank    : BitVec 3
  ready   : Bool
  toPlace : List Nat
  alive   : Nat
  queue   : Option (Nat × Nat × Nat)
  pondid  : BitVec 8
  ctr     : Option Bound
  deriving DecidableEq, Repr

/-- An item of a die scheduler's FIFOs (R392): a packet, or a launch record by number. -/
inductive SchedItem where
  | packet (p : Packet)
  | launch (record : Nat)
  deriving DecidableEq, Repr

/-- A placed unit of a launch waiting in a core's task queue (R392), or a packet. -/
inductive TaskItem where
  | packet (p : Packet)
  | unit (die record i : Nat)
  deriving DecidableEq, Repr

/-- One word of a hardware queue; a place taken by a group that has not completed holds no value yet (R176). -/
structure HwWord where
  owner : Nat
  value : Option Word
  deriving DecidableEq, Repr

/-- A slot that waits on a hardware queue, with the places its pushes need, 0 for a pop (R176). -/
structure HwWait where
  tid    : Nat
  q      : Nat
  places : Nat
  deriving DecidableEq, Repr

/-- A hardware queue (R175). -/
structure HwQueue where
  owner : Option (BitVec 12)
  words : List HwWord
  deriving DecidableEq, Repr

/-- How far a join-counter decrement has come (R169): not yet at the home, in the wait list, its take granted with the
count it read and the home of the counter, or its put performed and a continuation packet still to enqueue. -/
inductive JoinStage where
  | pending | waiting | granted (count : Word) (pa : Nat) | enqueue (packet : Word)
  deriving DecidableEq, Repr

/-- A join-counter decrement in progress (R169): its own number, the counter, the party's die, and its stage. -/
structure Join where
  id    : Nat
  ctr   : Bound
  die   : Nat
  stage : JoinStage
  deriving DecidableEq, Repr

/-- What the device keeps of a saved thread beside its context record: the parent counter of its packet (R169), its
launch unit, the helpers below it (R202), where a pending sync job's group stands, the state of its request as the pond
has it (Table 14.8), the virtual address that CTXS named, the frames that could not be spilled with the reserve place (log 36),
and the homes of the record's words: the first `cut` of them from the record's key on, the rest from `hi`. -/
structure Saved where
  cut    : Nat
  hi     : Nat
  parent : Option Bound
  unit   : Option (Nat × Nat)
  levels : List Level
  job    : Option PendJob
  rsv    : RsvState
  va     : Word
  frames : List WFrame
  spare  : Option Nat
  deriving DecidableEq, Repr

/-- Nothing beside the record. -/
def Saved.none : Saved := ⟨256, 0, .none, .none, [], .none, .none, 0, [], .none⟩

/-! ### Engines -/

/-- A tile-table entry (Table 10.2). -/
structure Tile where
  w0    : Word
  w1    : Word
  tagv  : Bool
  tag   : BitVec 12
  pins  : Nat
  latch : Bool
  state : BitVec 2
  deriving DecidableEq, Repr

/-- An entry after module reset (R245). -/
def Tile.zero : Tile := ⟨0, 0, false, 0, 0, false, 0⟩

/-- An amax ring (R268): 16 FP32 entries, NEXT and COUNT. -/
structure Ring where
  entries : Vector (BitVec 32) 16
  next    : Nat
  count   : Nat
  deriving DecidableEq, Repr

/-- A ring after module reset (R268). -/
def Ring.zero : Ring := ⟨Vector.replicate 16 0, 0, 0⟩

/-- The party a job belongs to: the slot that has the thread, its adoption depth, context, code identity and level at issue
(R27, R198), the record that holds its thread after CTXS (R324), and the slot that issued the job. -/
structure JobOwner where
  tid    : Nat
  adepth : Nat
  ctx    : Ctx
  codeid : BitVec 16
  priv   : Bool
  saved  : Option Nat
  gone   : Bool
  slot   : Nat
  deriving DecidableEq, Repr

/-- The kinds of matrix job (R243). -/
inductive MatKind where
  | mma | mmag (index : VWord) | mzero | mcvt
  deriving DecidableEq, Repr

/-- A matrix job in an engine's queue. Tile fields are physical numbers; `tag` is SEQ of the leap it was accepted under. `run` is set once it has started; `ended`
holds its status once it has failed but its chain has not ended. -/
structure MatJob where
  id     : Nat
  owner  : JobOwner
  kind   : MatKind
  td     : Nat
  ta     : Nat
  tb     : Nat
  fmt    : Word
  scp    : Word
  notify : Bool
  tag    : Option Nat
  run    : Bool
  ended  : Option Nat
  deriving DecidableEq, Repr

/-- The kept outcome of a finished job (R264). -/
structure Outcome64 where
  id     : Nat
  ctx    : BitVec 12
  status : Nat
  deriving DecidableEq, Repr

/-- The phases of an engine's work on a job or a chain: operands read, results written, MCVT's scale stored, over with a status. -/
inductive MatPhase where
  | reading | writing | scale | done (status : Nat)
  deriving DecidableEq, Repr

/-- What an engine is doing for job `id`, or for the chain that it heads (R234): the words still to read, what the reads gave, the
writes still to perform, how many are in a channel, whether one was lost, the phase, MCVT's exponent, and whether the leap of its tag
was active when it started (R380). -/
structure MatWork where
  id     : Nat
  phase  : MatPhase
  reads  : List Nat
  got    : Table Word
  writes : List JobWrite
  flying : Nat
  lost   : Bool
  exp    : Int
  leap   : Bool
  deriving DecidableEq, Repr

/-- A matrix engine (R243): queue, next id, outcomes, the latched D elements of the running chain, its present work, gate,
switch-on under way (R271) and run-ahead. -/
structure Engine where
  queue    : List MatJob
  nextId   : Nat
  outcomes : List Outcome64
  latched  : Option (Nat × List Word)
  work     : Option MatWork
  gated    : Bool
  waking   : Bool
  ahead    : List Nat
  idle     : Nat
  deriving DecidableEq, Repr

/-- An engine after module reset. -/
def Engine.zero : Engine := ⟨[], 0, [], none, none, false, false, [], 0⟩

/-- The kinds of copy-unit and stack-engine job (R276, R306). -/
inductive CopyKind where
  | copy | handle (h : Word) | restrict | prolong | gather | convert
  deriving DecidableEq, Repr

/-- A cached translation (R331), or one that a job holds (R332): context, virtual page base, and the leaf with the bytes it
maps. -/
structure TlbEntry where
  ctx  : BitVec 12
  va   : Nat
  span : Nat
  leaf : Word
  deriving DecidableEq, Repr

/-- A piece of a chunk's destination: `len` bytes from home address `lo`, or from an address of another package, and the units of the
stream that write them, in order. -/
structure Piece where
  lo    : Nat
  len   : Nat
  units : List Nat
  deriving DecidableEq, Repr

/-- A copy-unit or stack-engine job. `record` is its record or gather record, `table` a stencil table, `addr` the record's
address or handle, `chunk` the chunks completed, `begun` says that the present chunk has started; `reads` are the reads of
that chunk still to perform, `away` those in a channel, `got` what its reads gave, `pieces` its writes not yet performed, `flying`
the number of those in a channel, `remote` the frames not yet acknowledged; `ended` is its status once it has ended but its completion is not sent, `settled` that its tiles are settled;
`doneB` the bytes done, `counted` the source bytes a stencil has counted, `tagged` the region its tile takes, `held` the
translations it holds, `stop` that a TLBI covers one of them (R336). -/
structure CopyJob where
  id      : Nat
  owner   : JobOwner
  kind    : CopyKind
  record  : List Word
  table   : List Word
  addr    : Word
  cancel  : Bool
  stop    : Bool
  chunk   : Nat
  begun   : Bool
  reads   : List JobRead
  away    : List JobRead
  got     : Table (List Byte)
  pieces  : List Piece
  flying  : Nat
  remote  : List Nat
  ended   : Option Nat
  settled : Bool
  doneB   : Nat
  counted : List Nat
  tagged  : Option Nat
  held    : List TlbEntry
  deriving DecidableEq, Repr

/-- A copy unit or a lead stack engine. -/
structure CopyUnit where
  queue  : List CopyJob
  nextId : Nat
  deriving DecidableEq, Repr

/-! ### Translations, caches -/

/-- A read-cache line (R210): home address of its 128 bytes, the copy, and the context that filled it. -/
structure RcLine where
  pa    : Nat
  bytes : List Byte
  ctx   : BitVec 12
  va    : Nat
  deriving DecidableEq, Repr

/-- A fetched instruction word kept by a fetch buffer or instruction cache (R209). -/
structure FetchWord where
  pa   : Nat
  va   : Nat
  word : IWord
  deriving DecidableEq, Repr

/-! ### Cores, clusters, dies -/

/-- The state of one core that its slots share. `hwWait` is in order of arrival; `cyc0` is where its count of cycles
starts; `lastIssue` is the cycle of its last issue. -/
structure CoreSt where
  q       : List Store
  mailbox : List Msg
  sysq    : List Msg
  startq  : List StartMsg
  taskq   : List TaskItem
  hwq     : Vector HwQueue 8
  hwWait  : List HwWait
  fetch   : List FetchWord
  utlb    : List TlbEntry
  cyc0    : Nat
  lastIssue : Option Nat
  deriving DecidableEq, Repr

/-- A core at power-on. -/
def CoreSt.init : CoreSt :=
  ⟨[], [], [], [], [], Vector.replicate 8 ⟨none, []⟩, [], [], [], 0, none⟩

/-- A field of CPRAIL (Table 15.3): the engine bits, the rows, the array rail. -/
inductive RailField where
  | eng (k : Nat) | row (r : Nat) | spad
  deriving DecidableEq, Repr

/-- A field step still to come in a rail transition (R376): the field, the value it reaches, 64-cycle steps left, and
the cycle since which its present step waits for a neighbour. -/
structure RailMove where
  field : RailField
  goal  : Nat
  steps : Nat
  wait  : Option Nat
  deriving DecidableEq, Repr

/-- The states of retention (Table 15.3, CPRSTAT). -/
inductive RetState where
  | none | saving | saved | restoring
  deriving DecidableEq, Repr

/-- The retention store (R375): tile entries, rings, each core's CYC and CPDIV, and CPCORE. -/
structure Retained where
  tiles  : Table Tile
  rings  : Table Ring
  cycs   : Table Nat
  divs   : Vector Word 3
  coreOn : BitVec 48
  deriving DecidableEq, Repr

/-- One row of a cluster (R378, R379): failed phases, dark, and the cycle at which it went dark. -/
structure RowSt where
  failed : Nat
  dark   : Bool
  since  : Nat
  gone   : Bool
  deriving DecidableEq, Repr

/-- The state of one cluster. `askCore` to `leapBase` are the demand seen in window `askAt` of 256 cycles, `halved` the layers
halved in window `window` (R380). -/
structure ClusterSt where
  w        : List Store
  lines    : List RcLine
  icache   : List FetchWord
  tlb      : List TlbEntry
  tiles    : Table Tile
  rings    : Table Ring
  engines  : Vector Engine 6
  copies   : Vector CopyUnit 6
  qreq     : Bool
  quiet    : Bool
  refused  : Bool
  ret      : RetState
  saved    : Option Retained
  gate     : Bool
  railEng  : BitVec 6
  railSpad : BitVec 2
  railRow  : Vector (BitVec 2) 3
  moves    : List RailMove
  wake     : BitVec 5
  evt      : BitVec 9
  coreOn   : BitVec 48
  coreMove : List (Nat × Option Nat)
  divs     : Vector Word 3
  shunt    : Vector Nat 3
  eshunt   : Vector Nat 6
  rows     : Vector RowSt 3
  askCore  : Bool
  askBase  : Bool
  leapCore : Bool
  leapBase : Bool
  halved   : BitVec 2
  askAt    : Nat
  window   : Nat
  deriving DecidableEq, Repr

/-- A cluster after module reset (Tables 10.2, 15.3). -/
def ClusterSt.init : ClusterSt where
  w := []
  lines := []
  icache := []
  tlb := []
  tiles := []
  rings := []
  engines := Vector.replicate 6 Engine.zero
  copies := Vector.replicate 6 ⟨[], 0⟩
  qreq := false
  quiet := false
  refused := false
  ret := .none
  saved := none
  gate := false
  railEng := 0x3F
  railSpad := 2
  railRow := Vector.replicate 3 2
  moves := []
  wake := 0
  evt := 0
  coreOn := BitVec.allOnes 48
  coreMove := []
  divs := Vector.replicate 3 0
  shunt := Vector.replicate 3 0
  eshunt := Vector.replicate 6 0
  rows := Vector.replicate 3 ⟨0, false, 0, false⟩
  askCore := false
  askBase := false
  leapCore := false
  leapBase := false
  halved := 0
  askAt := 0
  window := 0

/-- A request or reservation at a pond (R349, R352): the holder, its adoption depth, rank, units, sequence number,
the drops spent, and whether its leap is active. `saved` is the record of a holder that CTXS saved (Table 14.8); `awaits`
are the slots whose leaps it cut and that have not yet reached their boundary (R355). -/
structure Resv where
  tid    : Nat
  saved  : Option Nat
  level  : Nat
  rank   : Nat
  units  : Nat
  seq    : Nat
  spent  : Nat
  active : Bool
  awaits : List Nat
  deriving DecidableEq, Repr

/-- A pond (R349). `admitted` stands in order of admission, the latest last; `waiting` in the order of R353. -/
structure Pond where
  cap      : Nat
  fill     : Nat
  admitted : List Resv
  waiting  : List Resv
  seq      : Nat
  deriving DecidableEq, Repr

/-- An absent pond. -/
def Pond.zero : Pond := ⟨0, 0, [], [], 0⟩

/-- A package link at one end die (Table 16.2). `wpend` and `rpend` say which changes of an accepted request are to come (R386). -/
structure Link where
  reqWidth : BitVec 2
  reqRate  : BitVec 2
  width    : BitVec 2
  rate     : BitVec 2
  good     : Nat
  busy     : Bool
  ignored  : Bool
  wdone    : Bool
  rdone    : Bool
  wpend    : Bool
  rpend    : Bool
  deriving DecidableEq, Repr

/-- A link before training (log 4). -/
def Link.init : Link := ⟨0, 0, 0, 0, 64, false, false, false, false, false, false⟩

/-- A tadpole (Table 16.4): the thread packed, the slot it left, its waiting messages, those that engines and units still
hold for it, the preference by home (Table 16.5: 0 low stack, 1 high stack, 2 shared SRAM, 3 + k explicit MIGR from cluster
k), and MIGR's issuer. -/
structure Tadpole where
  thread : Thread
  oldTid : Nat
  msgs   : List Msg
  late   : List Msg
  pref   : Nat
  issuer : Option Nat
  deriving DecidableEq, Repr

/-- The state of one die. -/
structure DieSt where
  suptid  : Word
  cecnt   : Vector Word 4
  uelast  : Word
  drops   : Word
  hdrops  : Word
  rdrops  : Word
  ponds   : Table Pond
  rtrip   : Nat
  rsense  : Nat
  rhyst   : Nat
  tripped : Bool
  engidle : BitVec 32
  pwrin   : BitVec 16
  links   : Vector Link 3
  fifos   : Vector (List SchedItem) 8
  launches : Table (Option LaunchRec)
  arrivals : List Tadpole
  stack   : CopyUnit
  deriving DecidableEq, Repr

/-- A die after module reset (Tables 13.12, 14.1, 15.5, 16.2). -/
def DieSt.init : DieSt where
  suptid := 0
  cecnt := Vector.replicate 4 0
  uelast := 0
  drops := 0
  hdrops := 0
  rdrops := 0
  ponds := []
  rtrip := 0
  rsense := 0
  rhyst := 0
  tripped := false
  engidle := 0
  pwrin := 0
  links := Vector.replicate 3 Link.init
  fifos := Vector.replicate 8 []
  launches := []
  arrivals := []
  stack := ⟨[], 0⟩

/-! ### Module-wide units -/

/-- A TLBI in progress (R336): issuer, its control word and start, clusters and control cores still to acknowledge. -/
structure TlbiReq where
  issuer : Nat
  ctxAll : Bool
  ctx    : BitVec 12
  start  : Nat
  pages  : Nat
  tag    : BitVec 16
  left   : List Nat
  deriving DecidableEq, Repr

/-- An ICINV in progress (R337). -/
structure IcinvReq where
  issuer : Nat
  cores  : List Nat
  clusters : List Nat
  start  : Nat
  count  : Nat
  deriving DecidableEq, Repr

/-- A KILL in progress (R326, R342). -/
structure KillReq where
  ctx    : BitVec 12
  issuer : Option Nat
  die    : Nat
  deriving DecidableEq, Repr

/-- Region states (Table 17.1). -/
inductive RegionState where
  | none | opened | closing | closed | broken
  deriving DecidableEq, Repr

/-- A weight region (R401 to R412): policy, ranges, counters, digests, links, the last completed checkpoint, the last
signed record. -/
structure Region where
  state    : RegionState
  serial   : Word
  attested : Bool
  metMacs  : Bool
  metBytes : Bool
  ranges   : List (Nat × Nat)
  allow    : List (List Word)
  meas     : List Word
  linkKind : Nat
  link     : List Word
  bytes    : Nat
  macs     : Nat
  satBytes : Bool
  satMacs  : Bool
  seq      : Word
  ckBytes  : Nat
  ckMacs   : Nat
  broke    : Bool
  record   : List Byte
  deriving DecidableEq, Repr

/-- A region never registered. -/
def Region.zero : Region :=
  ⟨.none, 0, false, false, false, [], [], [], 0, [], 0, 0, false, false, 0, 0, 0, false, []⟩

/-- A posted counting event (R406). -/
structure MeterEvent where
  region : Nat
  macs   : Bool
  amount : Nat
  owner  : Nat
  deriving DecidableEq, Repr

/-- An entry of the module code table (R407): digest, context, the `dev` range, and the physical ranges protected. -/
structure CodeEntry where
  digest : List Word
  ctx    : BitVec 12
  base   : Word
  len    : Word
  ranges : List (Nat × Nat)
  deriving DecidableEq, Repr

/-- A request taken by the Ramov core (R344, R413): issuer, its context and level, and the block's words; MTRS or SECM. -/
structure RamovReq where
  issuer : Nat
  ctx    : Ctx
  priv   : Bool
  mtrs   : Bool
  block  : List Word
  addr   : Word
  deriving DecidableEq, Repr

/-- An entry taken from a host queue (R420): its number, the words that its completion needs, its status, and the dies whose units
still run. -/
structure HostEntry where
  n      : Nat
  w1     : Word
  w2     : Word
  w3     : Word
  status : Nat
  dies   : List Nat
  deriving DecidableEq, Repr

/-- A launch that the dies of its set accept one after another (R420, R389): the block, its address, the context, the dies still to
accept, the records held, and the entry. -/
structure HostOffer where
  block : List Word
  addr  : Word
  ctx   : Ctx
  left  : List Nat
  recs  : List (Nat × Nat)
  entry : HostEntry
  deriving DecidableEq, Repr

/-- A host queue (Table 18.2), with the launch that it is offering and the entries issued and not completed, oldest first. -/
structure HostQueue where
  base    : Word
  en      : Bool
  ctx     : BitVec 12
  log2n   : BitVec 5
  tail    : BitVec 32
  head    : BitVec 32
  badcfg  : Bool
  ovr     : Bool
  offer   : Option HostOffer
  entries : List HostEntry
  deriving DecidableEq, Repr

/-- A host queue after reset. -/
def HostQueue.zero : HostQueue := ⟨0, false, 0, 0, 0, 0, false, false, none, []⟩

/-- What the module has sent to the host: a completion record, an MSI-X, an answer to a BAR2 read, Request Retry Status (R426). -/
inductive HostOut where
  | record (bus w0 w1 : Word)
  | msix (fn vector : Nat)
  | data (bytes : List Byte)
  | abort
  | unsupported
  | retry
  deriving DecidableEq, Repr

/-- A BAR2 read under way: its number, the bytes that have come, by offset, and how many are still to come. -/
structure HostRead where
  id   : Nat
  got  : Table (List Byte)
  left : Nat
  deriving DecidableEq, Repr

/-- A write of QTAIL that waits for earlier BAR2 writes of its function (R421), named by number. -/
structure Notify where
  queue : Nat
  tail  : Word
  left  : List Nat
  deriving DecidableEq, Repr

/-- A peer table entry (Table 18.3). -/
structure Peer where
  a   : Word
  mac : Word
  deriving DecidableEq, Repr

/-- A frame not acknowledged, with the cycle in which it was last sent and how often it has been sent again (R423). -/
structure SentFrame where
  frame  : Frame
  sentAt : Nat
  tries  : Nat
  deriving DecidableEq, Repr

/-- The stream of one class toward one package (R423): next number, frames not acknowledged, unreachable; and the next number
expected from it. -/
structure Stream where
  nextSeq : Nat
  unacked : List SentFrame
  dead    : Bool
  expect  : Nat
  deriving DecidableEq, Repr

/-- A stream never used. -/
def Stream.zero : Stream := ⟨0, [], false, 0⟩

/-- A write frame of another package that has come in order (R424): its package, number and context, the writes still to
perform, and how many are in a channel. -/
structure Incoming where
  pkg    : Nat
  seq    : Nat
  ctx    : BitVec 12
  writes : List (Nat × List Byte)
  flying : Nat
  deriving DecidableEq, Repr

/-- A turn of the schedule: an issue of a slot, or another agent's step (R224, R225). `dt` cycles elapse before it. -/
inductive Turn where
  | issue (dt tid : Nat)
  | event (dt : Nat) (i : Instr)
  deriving DecidableEq, Repr

/-- Why the model's step stops. -/
inductive Fault where
  /-- The schedule names an issue of a slot that no TID names (R20) and that is no control core: there is no such
  slot. Raised by `step`. Safe: the hardware has no such step. -/
  | noSuchSlot (tid : Nat)
  deriving DecidableEq, Repr

/-- Why the model gives an instruction no meaning. -/
inductive Refusal where
  /-- The instruction has no meaning in the model yet. Raised by an arm of `exec`. Safe: nothing is claimed of it. -/
  | notModelled (mnemonic : String)
  deriving DecidableEq, Repr

/-- The state of the module. -/
structure State where
  threads  : Table Thread
  cores    : Table CoreSt
  clusters : Table ClusterSt
  dies     : Table DieSt
  mem      : List Host.Cell
  empties  : Table Bool
  bad      : Table Bool
  holds    : Table Bool
  waits    : List Waiter
  seals    : Table (Option Seal)
  chans    : Table (List ChanItem)
  outbox   : List Msg
  joins    : List Join
  tlbis    : List TlbiReq
  icinvs   : List IcinvReq
  kills    : List KillReq
  ctxs     : Table (Option Ctx)
  saves    : Table Saved
  regions  : Table Region
  serial   : Word
  meter    : List MeterEvent
  codes    : Table (Option CodeEntry)
  ramov    : List RamovReq
  fwlog    : List Word
  bar2base : Table Word
  queues   : Table HostQueue
  hostOut  : List HostOut
  hostSeq  : Nat
  hostReads : List HostRead
  notifies : List Notify
  incoming : List Incoming
  pkgid    : BitVec 15
  lostmsg  : Word
  peers    : Table Peer
  streams  : Table Stream
  sent     : List Frame
  stage    : BitVec 8
  err      : BitVec 8
  turns    : List Turn
  now      : Nat
  cur      : Nat
  ir       : List IWord
  fresh    : Nat
  deriving DecidableEq, Repr

/-- What an unlisted byte of memory reads as (log 6: DESIGN CHOICE, the spec gives memory no reset contents). -/
def unlisted : Byte := 0

/-- The canonical form of memory: addresses strictly rising, no byte listed that an unlisted address reads as. -/
abbrev Memory.wf (m : List Host.Cell) : Bool := Table.wf unlisted m

/-- The module right after module reset (R154, R245, R268, R426; logs 1 to 9): no thread, every word full, the start
sequence at stage 1. -/
def State.reset : State where
  threads := []
  cores := []
  clusters := []
  dies := []
  mem := []
  empties := []
  bad := []
  holds := []
  waits := []
  seals := []
  chans := []
  outbox := []
  joins := []
  tlbis := []
  icinvs := []
  kills := []
  ctxs := []
  saves := []
  regions := []
  serial := 1
  meter := []
  codes := []
  ramov := []
  fwlog := []
  bar2base := []
  queues := []
  hostOut := []
  hostSeq := 0
  hostReads := []
  notifies := []
  incoming := []
  pkgid := 0x7FFF
  lostmsg := 0
  peers := []
  streams := []
  sent := []
  stage := 1
  err := 0
  turns := []
  now := 0
  cur := 0
  ir := []
  fresh := 0

end Sys2Proof.Machine
end

