-- ==== Sys2Proof/Machine/Ops.lean ====
section
/-!
DEFINITION. Sys2Proof/Machine/Ops.lean: the named operations over slots, registers, windows and messages, and taking
an exception and returning from one (R60 to R68, R76, R77, R319 to R321, R346).
-/
namespace Sys2Proof.Machine

/-- What a meaning answers. -/
abbrev Out := Host.Outcome State Fault Refusal

/-! ### Parties by number (R19, R20, R21) -/

/-- The first number of the control cores' slots. -/
def ctlBase : Nat := 131072

/-- Whether a slot is a die control core's (R370). -/
def isCtl (tid : Nat) : Bool := decide (ctlBase ≤ tid)

/-- The die of a slot. -/
def dieOf (tid : Nat) : Nat := if ctlBase ≤ tid then tid - ctlBase else tid / 16384

/-- The cluster of a slot, die * 16 + cluster. The control cores belong to none: each has a number above those. -/
def clusterOf (tid : Nat) : Nat := if ctlBase ≤ tid then 128 + (tid - ctlBase) else tid / 1024

/-- The first number of the control cores as cores. -/
def ctlCore : Nat := 8192

/-- The core of a slot; each die's control core is a core of its own (R370). -/
def coreOf (tid : Nat) : Nat := if ctlBase ≤ tid then ctlCore + (tid - ctlBase) else tid / 16

/-- The core's number within its cluster, 0-47. -/
def coreIn (tid : Nat) : Nat := tid / 16 % 64

/-- The octet of a slot's core (R21). -/
def octetOf (tid : Nat) : Nat := coreIn tid / 8

/-- The row of a slot's core (R21). -/
def rowOf (tid : Nat) : Nat := coreIn tid / 16

/-- A TID that names a slot (R20). -/
def goodTid (tid : Nat) : Bool :=
  decide (tid < ctlBase) && decide (tid / 1024 % 16 < 12) && decide (tid / 16 % 64 < 48)

/-- A cluster number that exists. -/
def goodCluster (k : Nat) : Bool := decide (k < 128) && decide (k % 16 < 12)

/-- The slots of a core; a control core has one. -/
def slotsOf (core : Nat) : List Nat :=
  if ctlCore ≤ core then [ctlBase + (core - ctlCore)] else (List.range 16).map fun i => core * 16 + i

/-- The cores of a cluster. -/
def coresOf (cluster : Nat) : List Nat := (List.range 48).map fun i => cluster * 64 + i

/-- The clusters of a die. -/
def clustersOf (die : Nat) : List Nat := (List.range 12).map fun i => die * 16 + i

/-- The level codes of Table 1.6 that hold two slots: the smallest scope with both (R161). -/
def scopeOf (a b : Nat) : Nat :=
  if coreOf a = coreOf b then 0
  else if clusterOf a = clusterOf b then 1
  else if dieOf a = dieOf b then 2
  else 3

/-! ### Components of the state -/

/-- A slot. -/
def State.thread (s : State) (tid : Nat) : Thread := Table.get Thread.free s.threads tid

/-- Replace a slot. -/
def State.setThread (s : State) (tid : Nat) (t : Thread) : State :=
  { s with threads := Table.set Thread.free tid t s.threads }

/-- Change a slot. -/
def State.upd (s : State) (tid : Nat) (f : Thread → Thread) : State := s.setThread tid (f (s.thread tid))

/-- A core's shared state. -/
def State.core (s : State) (core : Nat) : CoreSt := Table.get CoreSt.init s.cores core

/-- Change a core's shared state. -/
def State.updCore (s : State) (core : Nat) (f : CoreSt → CoreSt) : State :=
  { s with cores := Table.set CoreSt.init core (f (s.core core)) s.cores }

/-- A cluster's state. -/
def State.cluster (s : State) (k : Nat) : ClusterSt := Table.get ClusterSt.init s.clusters k

/-- Change a cluster's state. -/
def State.updCluster (s : State) (k : Nat) (f : ClusterSt → ClusterSt) : State :=
  { s with clusters := Table.set ClusterSt.init k (f (s.cluster k)) s.clusters }

/-- A die's state. -/
def State.die (s : State) (d : Nat) : DieSt := Table.get DieSt.init s.dies d

/-- Change a die's state. -/
def State.updDie (s : State) (d : Nat) (f : DieSt → DieSt) : State :=
  { s with dies := Table.set DieSt.init d (f (s.die d)) s.dies }

/-- The issuing slot. -/
def State.me (s : State) : Thread := s.thread s.cur

/-- Change the issuing slot. -/
def State.updMe (s : State) (f : Thread → Thread) : State := s.upd s.cur f

/-- The slots that hold a thread. -/
def State.liveTids (s : State) : List Nat :=
  (s.threads.filter fun e => decide (e.2.state ≠ .free)).map (·.1)

/-! ### Registers (R60, R61, R176) -/

/-- G6EN of QBND (Table 6.8). -/
def Thread.g6en (t : Thread) : Bool := t.qbnd.getLsbD 3

/-- G7EN of QBND. -/
def Thread.g7en (t : Thread) : Bool := t.qbnd.getLsbD 7

/-- The queue bound to g6. -/
def Thread.g6q (t : Thread) : Nat := (t.qbnd.extractLsb' 0 3).toNat

/-- The queue bound to g7. -/
def Thread.g7q (t : Thread) : Nat := (t.qbnd.extractLsb' 4 3).toNat

/-- A register number as an index. -/
def regIx (r : Reg) : Fin 32 := ⟨r.toNat, r.isLt⟩

/-- Reading a scalar register: g0 is zero; a bound g6 is the word its group popped; a bound g7 is 0. -/
def Thread.reg (t : Thread) (r : Reg) : Word :=
  if r = 0 then 0
  else if r = 6 ∧ t.g6en then t.g6.getD 0
  else if r = 7 ∧ t.g7en then 0
  else t.regs.get (regIx r)

/-- Reading a vector register. -/
def Thread.vreg (t : Thread) (r : Reg) : VWord := t.vregs.get (regIx r)

/-- Fill the place that a slot's group holds in a queue, or take one (R176). -/
def pushWord (tid : Nat) (v : Word) : List HwWord → List HwWord
  | [] => [⟨tid, some v⟩]
  | w :: ws => if w.owner = tid ∧ w.value = none then ⟨tid, some v⟩ :: ws else w :: pushWord tid v ws

/-- Change one hardware queue of a core. -/
def State.updHwq (s : State) (core q : Nat) (f : HwQueue → HwQueue) : State :=
  s.updCore core fun c =>
    if h : q < 8 then { c with hwq := c.hwq.set q (f (c.hwq.get ⟨q, h⟩)) } else c

/-- A hardware queue of a core. -/
def State.hwq (s : State) (core q : Nat) : HwQueue := ((s.core core).hwq[q]?).getD ⟨none, []⟩

/-- A waiter whose turn is still to come: its slot runs, parked on the queue or woken and about to re-execute. -/
def State.honoured (s : State) (w : HwWait) : Bool :=
  let t := s.thread w.tid
  t.state == .running && t.park.all fun p => p.why == .hwQueue w.q w.places

/-- Words of a queue that can be popped now. -/
def HwQueue.poppable (q : HwQueue) : Nat := (q.words.takeWhile fun w => w.value.isSome).length

/-- A parked group that re-executes: the slot leaves its park, its pc at the group. -/
def State.wake (s : State) (tid : Nat) : State :=
  match (s.thread tid).park with
  | none => s
  | some _ => s.upd tid fun t => { t with park := none, wokenAt := s.now }

/-- Wake the oldest waiters of a queue, as many as its words and places serve (R176). -/
def wakeHw (q : Nat) (s : State) (words places : Nat) : List HwWait → State
  | [] => s
  | w :: rest =>
    if w.q ≠ q ∨ !s.honoured w then wakeHw q s words places rest
    else if w.places = 0 then
      (if words = 0 then wakeHw q s 0 places rest else wakeHw q (s.wake w.tid) (words - 1) places rest)
    else if w.places ≤ places then wakeHw q (s.wake w.tid) words (places - w.places) rest
    else wakeHw q s words 0 rest

/-- After a push or a pop of a queue, the threads parked on it re-execute, oldest first. -/
def State.relieveHw (s : State) (core q : Nat) : State :=
  let x := s.hwq core q
  wakeHw q s x.poppable (16 - x.words.length) (s.core core).hwWait

/-- A slot leaves the waits of its core's queues, and those behind it may go on. -/
def State.leaveHw (s : State) (tid : Nat) : State :=
  let core := coreOf tid
  let mine := (s.core core).hwWait.filter (·.tid == tid)
  if mine = [] then s
  else
    mine.foldl (fun s w => s.relieveHw core w.q)
      (s.updCore core fun c => { c with hwWait := c.hwWait.filter (·.tid != tid) })

/-- Writing a scalar register: g0 and a bound g6 discard, a bound g7 pushes. -/
def State.wr (s : State) (tid : Nat) (r : Reg) (v : Word) : State :=
  let t := s.thread tid
  if r = 0 then s
  else if r = 6 ∧ t.g6en then s
  else if r = 7 ∧ t.g7en then
    (s.updHwq (coreOf tid) t.g7q fun q => { q with words := pushWord tid v q.words }).relieveHw (coreOf tid) t.g7q
  else s.upd tid fun t => { t with regs := t.regs.set r.toNat v r.isLt }

/-- Writing a vector register. -/
def State.wrV (s : State) (tid : Nat) (r : Reg) (v : VWord) : State :=
  s.upd tid fun t => { t with vregs := t.vregs.set r.toNat v r.isLt }

/-- The value of a scalar register of the issuing slot. -/
def State.r (s : State) (r : Reg) : Word := s.me.reg r

/-- The value of a vector register of the issuing slot. -/
def State.v (s : State) (r : Reg) : VWord := s.me.vreg r

/-! ### Program counter -/

/-- The next-group address of the present group (R30). -/
def State.nextPc (s : State) : Word := s.me.pc + BitVec.ofNat 64 (2 * s.ir.length)

/-- A group that has been performed whole gives up the word it popped (R176). -/
def Thread.spentG6 (t : Thread) : Thread := { t with g6 := none }

/-- Put back what an abandoned group took from and claimed in the hardware queues (R33, R176). -/
def State.unclaim (s : State) (tid : Nat) : State :=
  let t := s.thread tid
  let s := if t.g7en then
      (s.updHwq (coreOf tid) t.g7q fun q =>
        { q with words := q.words.filter fun w => !(w.owner == tid && w.value == none) }).relieveHw (coreOf tid) t.g7q
    else s
  match t.g6 with
  | none => s
  | some v =>
    let s := if t.g6en then
        (s.updHwq (coreOf tid) t.g6q fun q => { q with words := ⟨tid, some v⟩ :: q.words }).relieveHw (coreOf tid) t.g6q
      else s
    s.upd tid Thread.spentG6

/-- The issuing slot goes on at an address. -/
def State.goto (s : State) (pc : Word) : State := s.updMe fun t => { t with pc := pc, g6 := none }

/-! ### Messages (R158, R160, R346) -/

/-- A message header (Table 6.2). -/
def header (src kind tag status : Nat) : Word :=
  BitVec.ofNat 64 (src % 131072 * 2 ^ 47 + kind % 8 * 2 ^ 44 + tag % 65536 * 2 ^ 16 + status % 65536)

/-- Four payload words. -/
def payload (a b c d : Word) : Vector Word 4 := #v[a, b, c, d]

/-- Send a message toward a slot's core. -/
def State.post (s : State) (m : Msg) : State := { s with outbox := s.outbox ++ [m] }

/-- Add one to a saturating counter. -/
def sat64 (w : Word) : Word := if w = BitVec.allOnes 64 then w else w + 1

/-- A kind-4 message to a die's supervisor slot, or a count in DROPS (R346). -/
def State.tellSup (s : State) (die status : Nat) (a b c d : Word) : State :=
  let sup := (s.die die).suptid
  let tid := (sup.extractLsb' 0 17).toNat
  if sup.getLsbD 63 && goodTid tid then s.post ⟨tid, header 0 4 0 status, payload a b c d, 3⟩
  else s.updDie die fun x => { x with drops := if x.drops = BitVec.allOnes 64 then x.drops else x.drops + 1 }

/-! ### Windows (R63 to R68) -/

/-- The registers p0-p7 and l0-l7 as a frame. -/
def Thread.frame (t : Thread) : WFrame := Vector.ofFn fun i => t.regs.get ⟨i.val + 8, by omega⟩

/-- The window after a push: p is the old q; l and q are zero. -/
def slideIn (r : Vector Word 32) : Vector Word 32 :=
  Vector.ofFn fun i =>
    if h : i.val < 8 then r.get i
    else if h : i.val < 16 then r.get ⟨i.val + 16, by omega⟩
    else 0

/-- The window after a pop: q is the old p; p and l come from the frame. -/
def slideOut (r : Vector Word 32) (f : WFrame) : Vector Word 32 :=
  Vector.ofFn fun i =>
    if h : i.val < 8 then r.get i
    else if h : i.val < 24 then f.get ⟨i.val - 8, by omega⟩
    else r.get ⟨i.val - 16, by omega⟩

/-- Resident frames that stand in the seven ordinary places (R64). -/
def Thread.placesUsed (t : Thread) : Nat := t.frames.length - (if t.reserve.isSome then 1 else 0)

/-- A free ordinary place (R64). -/
def Thread.placeFree (t : Thread) : Bool := decide (t.placesUsed < 7)

/-- WDEPTH.RES (Table 3.4); with the reserve place in use it stays at most 7 (log 2). -/
def Thread.res (t : Thread) : Nat := min t.frames.length 7

/-- Push a frame into a place, the reserve place when `useReserve` (R63, R319). -/
def Thread.pushed (useReserve : Bool) (t : Thread) : Thread :=
  { t with
    frames := t.frame :: t.frames
    regs := slideIn t.regs
    reserve := if useReserve then some t.depth else t.reserve
    depth := t.depth + 1 }

/-- Pop the resident top frame (R63). -/
def Thread.popped (t : Thread) : Thread :=
  match t.frames with
  | [] => t
  | f :: rest =>
    { t with
      frames := rest
      regs := slideOut t.regs f
      reserve := if t.reserve = some (t.depth - 1) then none else t.reserve
      depth := t.depth - 1 }

/-- What a push finds (R63, R66, Table 3.1). -/
inductive PushPlace where
  | free
  | wait
  | fault (addr : Word) (info : Nat)
  deriving DecidableEq, Repr

/-- The place for an ordinary push: CALL, CALLR and delivery to the user handler. -/
def Thread.pushPlace (t : Thread) : PushPlace :=
  if 2 ^ 32 - 1 ≤ t.depth then .fault 0 3
  else if t.placeFree then .free
  else if t.wsp = 0 ∨ t.frames = [] then .fault t.wsp 1
  else .wait

/-! ### Taking an exception (R76, R318 to R321) -/

/-- The causes that go to TVEC (Table 13.1). -/
def userCause (c : Nat) : Bool := [3, 4, 5, 6, 8, 10, 11, 12, 15, 16, 19].contains c

/-- TVEC.ADDR * 2 (Table 3.5). -/
def Thread.tvecAddr (t : Thread) : Word := t.tvec &&& 0x0000FFFFFFFFFFFE#64

/-- TVEC.BUSY. -/
def Thread.busy (t : Thread) : Bool := t.tvec.getLsbD 0

/-- PRIVST.SBUSY (Table 13.4). -/
def Thread.sbusy (t : Thread) : Bool := t.privst.getLsbD 1

/-- The layout of TINFO (Table 3.5): ADOPTED and HTID mark adopted work (R200). -/
def Thread.tinfoOf (t : Thread) (tid : Nat) (detail : Word) : Word :=
  (if t.tsr.adopted then BitVec.ofNat 64 (2 ^ 63 + tid % 131072 * 2 ^ 40) else 0) ||| (detail &&& 0xFFFFFFFFFF#64)

/-- SINFO by cause (R320). -/
def Thread.sinfoOf (t : Thread) (tid cause : Nat) (info : Word) : Word :=
  if cause = 1 ∨ cause = 2 ∨ cause = 13 ∨ cause = 18 then info else t.tinfoOf tid info

/-- A slot stops (R321): it keeps every register, and the die's supervisor is told; a control core reports 2^17 - 1
(R370). -/
def State.stopSlot (s : State) (tid cause : Nat) : State :=
  let s := s.upd tid fun t => { t with state := .stopped, park := none }
  s.tellSup (dieOf tid) 1 (BitVec.ofNat 64 (if isCtl tid then 131071 else tid)) (BitVec.ofNat 64 cause) 0 0

/-- The trap that a delivery to the supervisor takes: at DEPTH 2^32 - 1 its push finds the window fault of Table 3.1, which is
taken in its place (R68). -/
def Thread.orDepth (t : Thread) (tr : Trap) : Trap := if 2 ^ 32 - 1 ≤ t.depth then ⟨18, tr.ret, 0, 3⟩ else tr

/-- Delivery to the supervisor (R68, R319). The entry for a window fault takes the reserve place, another entry takes it when
no other place is free; with the reserve place in use the slot stops. At DEPTH 2^32 - 1 the entry for the window fault is
made all the same (log 65). -/
def State.deliverSup (s : State) (tid : Nat) (tr : Trap) : State :=
  let t := s.thread tid
  let tr := t.orDepth tr
  let reserve := decide (tr.cause = 18) || !t.placeFree
  if t.sbusy then s.stopSlot tid tr.cause
  else if reserve && t.reserve.isSome then s.stopSlot tid tr.cause
  else
    s.upd tid fun t =>
      let info := t.sinfoOf tid tr.cause tr.info
      let u := t.pushed reserve
      { u with
        sepc := tr.ret
        scause := BitVec.ofNat 64 tr.cause
        saddr := tr.addr
        sinfo := info
        privst := (if t.tsr.adopted then BitVec.ofNat 64 (tid % 131072 * 2 ^ 40 + 8) else 0)
          ||| 2#64 ||| (if t.tsr.priv then 1 else 0)
        tsr := { t.tsr with priv := true }
        pc := t.ctx.stvec &&& 0x0000FFFFFFFFFFFE#64
        park := none
        delivery := none }

/-- Delivery to the user handler (R76). A delivery whose push finds no free place waits for one; one whose push fails
takes the window fault in its place (R68). -/
def State.deliverUser (s : State) (tid : Nat) (tr : Trap) : State :=
  let t := s.thread tid
  match t.pushPlace with
  | .fault a i => s.deliverSup tid ⟨18, tr.ret, a, BitVec.ofNat 64 i⟩
  | .wait => s.upd tid fun t => { t with delivery := some tr, park := some ⟨.framePlace none, tr.ret, 0, false⟩ }
  | .free =>
    s.upd tid fun t =>
      let info := t.tinfoOf tid tr.info
      let u := t.pushed false
      { u with
        tepc := tr.ret
        tcause := BitVec.ofNat 64 tr.cause
        taddr := tr.addr
        tinfo := info
        tvec := t.tvec ||| 1
        pc := t.tvecAddr
        park := none
        delivery := none }

/-- Whether a trap goes to the user handler (R76). -/
def Thread.toUser (t : Thread) (cause : Nat) : Bool :=
  userCause cause && !t.tsr.priv && decide (t.tvecAddr ≠ 0) && !t.busy

/-- TAKING AN EXCEPTION: a trap other than causes 10 and 11 is delivered to the user handler or the supervisor; what the group
took from a hardware queue goes back, since nothing of the group is performed (R33). -/
def State.deliver (s : State) (tid : Nat) (tr : Trap) : State :=
  let s := (s.unclaim tid).leaveHw tid
  let t := s.thread tid
  if t.toUser tr.cause then s.deliverUser tid tr else s.deliverSup tid tr

/-- A trap of the present group that returns to the group (R77). -/
def State.trap (s : State) (cause : Nat) (addr : Word) (info : Nat) : State :=
  s.deliver s.cur ⟨cause, s.me.pc, addr, BitVec.ofNat 64 info⟩

/-- A trap of another slot's group. -/
def State.trapOf (s : State) (tid cause : Nat) (addr : Word) (info : Nat) : State :=
  s.deliver tid ⟨cause, (s.thread tid).pc, addr, BitVec.ofNat 64 info⟩

/-- SINFO of causes 1 and 2 (R41): the word the check names and its position. -/
def decodeInfo (w : IWord) (pos : Nat) : Nat := w.toNat + pos * 65536

/-- A cause-1 or cause-2 trap that names the base word of the present group (R40). -/
def State.illegal (s : State) (cause : Nat) : State :=
  let pos := s.ir.length - 1
  s.trap cause s.me.pc (decodeInfo ((s.ir[pos]?).getD 0) pos)

/-- A slot in the second half of a BAR, or with such a wait recorded and still to be completed (R174). -/
def Thread.inBar (t : Thread) : Bool :=
  t.barWait.isSome || t.park.any fun p => match p.why with | .barWait _ _ => true | _ => false

/-- Causes 10 and 11 at a group boundary (R76, R174, R318, R319, R360, R361): held while the slot runs at supervisor level
or waits in the second half of a BAR, and, for cause 10, while BUSY is 1; with no user handler a cause 10 sets TSR.CUT
and a cause 11 goes to the supervisor. -/
def State.leapTrap (s : State) (tid cause units : Nat) : State :=
  let t := s.thread tid
  let hold := s.upd tid fun t => { t with pendTrap := some (cause, units) }
  if t.tsr.priv ∨ t.inBar ∨ t.state ≠ .running then hold
  else if cause = 10 ∧ t.tvecAddr = 0 then
    s.upd tid fun t => { t with pendTrap := none, tsr := { t.tsr with cut := true } }
  else if cause = 10 ∧ t.busy then hold
  else
    let s := s.upd tid fun t => { t with pendTrap := none }
    s.deliver tid ⟨cause, t.pc, 0, BitVec.ofNat 64 units⟩

/-! ### Debits and retiring (R357) -/

/-- Add drops to a slot's reservation at its pond; one that a saved thread left is not the slot's. -/
def spend (tid level drops : Nat) : List Resv → List Resv
  | [] => []
  | r :: rs => if r.saved = none ∧ r.tid = tid ∧ r.level = level then { r with spent := r.spent + drops } :: rs else r :: spend tid level drops rs

/-- A group that a slot performs is debited once, if its leap was active at the issue and the cost fits (R357). -/
def State.debit (s : State) (tid drops : Nat) (leapt : Bool) : State :=
  let t := s.thread tid
  if leapt && t.tsr.leap && decide (0 < drops) && decide (t.leaph.spent + drops ≤ t.leaph.units * 256) then
    let s := s.upd tid fun t => { t with leaph := { t.leaph with spent := t.leaph.spent + drops } }
    s.updDie (dieOf tid) fun d =>
      let p := Table.get Pond.zero d.ponds t.leaph.pond
      { d with ponds := Table.set Pond.zero t.leaph.pond { p with admitted := spend tid t.adepth drops p.admitted } d.ponds }
  else s

/-- A group performed whole: it is debited, and the slot goes on at the next group. -/
def State.retire (s : State) (drops : Nat) : State :=
  let next := s.nextPc
  (s.debit s.cur drops s.me.tsr.leap).goto next

/-- A parked group performed whole: the slot leaves its park and goes on at the next group. -/
def State.complete (s : State) (tid : Nat) : State :=
  match (s.thread tid).park with
  | none => s
  | some p =>
    let s := s.debit tid p.drops p.leapt
    s.upd tid fun t => { t with park := none, pc := p.next, g6 := none, wokenAt := s.now }

/-! ### Returning (R89, R90, R95, R335) -/

/-- The target check of R89: an odd target or one with bits 63-48 set. -/
def badTarget (a : Word) : Bool := a.getLsbD 0 || decide (a.extractLsb' 48 16 ≠ 0)

/-- What a pop finds (R63, R67, R68). -/
inductive PopPlace where
  | top
  | wait
  | fault
  deriving DecidableEq, Repr

/-- The frame for a pop. -/
def Thread.popPlace (t : Thread) : PopPlace :=
  if t.depth = 0 then .fault
  else if t.frames = [] then .wait
  else .top

/-- Park the issuing slot. -/
def State.parkMe (s : State) (why : Park) (drops : Nat) : State :=
  let s' := s.updMe fun t => { t with park := some ⟨why, s.nextPc, drops, t.tsr.leap⟩ }
  s'

/-- A group that re-executes on wake parks and gives back what it took (R152). -/
def State.parkAgain (s : State) (why : Park) : State := (s.unclaim s.cur).parkMe why 0

/-- What TRET and STRET change beside the window: TRET clears TVEC.BUSY; STRET takes the level from PPRIV and clears SBUSY,
and a control core stays at supervisor level (R95, R335, R370). -/
def RetKind.leave (k : RetKind) (ctl : Bool) (t : Thread) : Thread :=
  match k with
  | .ret => t
  | .tret => { t with tvec := t.tvec &&& ~~~1#64 }
  | .stret => { t with tsr := { t.tsr with priv := ctl || t.privst.getLsbD 0 }, privst := t.privst &&& ~~~2#64 }

/-- A return whose top frame is resident: it pops the frame and goes on at the target. -/
def State.finishRet (s : State) (tid : Nat) (target : Word) (how : RetKind) : State :=
  s.upd tid fun t => { how.leave (isCtl tid) t.popped with pc := target, g6 := none }

/-- RETURNING: RET, TRET and STRET check the target, pop a frame and go on at the target. A pop whose frame is spilled waits
for its fill and then completes (R67, R152). -/
def State.ret (s : State) (target : Word) (how : RetKind) : State :=
  if badTarget target then s.trap 3 target 0
  else
    match s.me.popPlace with
    | .fault => s.trap 18 0 3
    | .wait => s.parkMe (.frameFill target how) 0
    | .top => s.finishRet s.cur target how

/-- A call whose frame has a place: q7 takes the next-group address, a frame is pushed, and control goes to the target. -/
def State.finishCall (s : State) (tid : Nat) (next target : Word) : State :=
  s.upd tid fun t => { ({ t with regs := t.regs.set 31 next }).pushed false with pc := target, g6 := none }

/-- A call: the target is known good (R88, R89). One that finds no free place waits for it and then completes (R66, R152). -/
def State.call (s : State) (target : Word) : State :=
  match s.me.pushPlace with
  | .fault a i => s.trap 18 a i
  | .wait => s.parkMe (.framePlace (some target)) 0
  | .free => s.finishCall s.cur s.nextPc target

end Sys2Proof.Machine
end

