-- ==== Sys2Proof/Machine/Memory.lean ====
section
/-!
DEFINITION. Sys2Proof/Machine/Memory.lean: bytes, words and full/empty bits at homes (R2, R154, R204), which home a
word has (Tables 1.9, 8.1), protected ranges (R402), uncorrectable words (R207) and seals (R239, R240).
-/
namespace Sys2Proof.Machine

/-! ### Home addresses -/

/-- The home address of byte `off` of a core's TCM (log 14). -/
def tcmPa (core off : Nat) : Nat := 2 ^ 52 + core * 2 ^ 17 + off

/-- The home address of a byte of a control core's data or instruction memory (Table 15.2, log 14). -/
def ctlPa (die off : Nat) : Nat := 2 ^ 53 + die * 2 ^ 20 + off

/-- The home address of a control-space register of a die (R372, log 14). -/
def ctlRegPa (die off : Nat) : Nat := 2 ^ 54 + die * 2 ^ 32 + off

/-- The physical address of a die's shared SRAM (Table 1.9). -/
def sramPa (die off : Nat) : Nat := 0x8000000000000 + die * 2 ^ 40 + off

/-- The physical address of a cluster's scratchpad (Table 1.9). -/
def spadPa (cluster off : Nat) : Nat := 0x9000000000000 + cluster / 16 * 2 ^ 40 + cluster % 16 * 2 ^ 32 + off

/-- The first device-register address (Table 1.9). -/
def devBase : Nat := 0xA000000000000

/-- The kinds of storage a home address lies in (Table 8.1). -/
inductive Storage where
  | device | sram | spad | regs | tcm | ctlMem | ctlRegs | nothing
  deriving DecidableEq, Repr

/-- Bytes of device memory populated in each die's window: 96 GB (R4, R28). -/
def populated : Nat := 96000000000

/-- What stands at a home address (Table 1.9, R28). -/
def storageOf (pa : Nat) : Storage :=
  if pa < 2 ^ 47 then (if pa % 2 ^ 44 < populated then .device else .nothing)
  else if pa < 0x8000000000000 then .nothing
  else if pa < 0x9000000000000 then
    (if pa / 2 ^ 40 % 256 < 8 ∧ pa % 2 ^ 40 < 2 ^ 27 then .sram else .nothing)
  else if pa < 0xA000000000000 then
    (if pa / 2 ^ 40 % 256 < 8 ∧ pa / 2 ^ 32 % 256 < 12 ∧ pa % 2 ^ 32 < 2 ^ 24 then .spad else .nothing)
  else if pa < 0xB000000000000 then .regs
  else if pa < 2 ^ 52 then .nothing
  else if pa < 2 ^ 53 then .tcm
  else if pa < 2 ^ 54 then .ctlMem
  else .ctlRegs

/-- The die of a home address (R17, Table 1.9). -/
def homeDie (pa : Nat) : Nat :=
  match storageOf pa with
  | .device => pa / 2 ^ 44 % 8
  | .sram => pa / 2 ^ 40 % 256
  | .spad => pa / 2 ^ 40 % 256
  | .tcm => (pa - 2 ^ 52) / 2 ^ 27
  | .ctlMem => (pa - 2 ^ 53) / 2 ^ 20
  | .ctlRegs => (pa - 2 ^ 54) / 2 ^ 32
  | .regs => pa / 2 ^ 32 % 2 ^ 16
  | .nothing => 0

/-- HKIND and HOME of Table 9.7 as one number, HKIND * 65536 + HOME: the home that a seal names. Control-core memory,
which Table 9.7 does not list, counts as HKIND 4. -/
def sealKey (pa : Nat) : Nat :=
  match storageOf pa with
  | .tcm =>
    let c := (pa - 2 ^ 52) / 2 ^ 17
    c / 1024 * 576 + c / 64 % 16 * 48 + c % 64
  | .spad => 65536 + pa / 2 ^ 40 % 256 * 12 + pa / 2 ^ 32 % 256
  | .sram => 2 * 65536 + pa / 2 ^ 40 % 256
  | .device => 3 * 65536 + pa / 2 ^ 44 % 8 * 2 + pa / 256 % 2
  | _ => 4 * 65536 + homeDie pa

/-! ### Bytes, words, bits -/

/-- One byte of memory. -/
def State.byte (s : State) (a : Nat) : Byte := Table.get unlisted s.mem a

/-- Write one byte, keeping the canonical form. -/
def State.setByte (s : State) (a : Nat) (b : Byte) : State := { s with mem := Table.set unlisted a b s.mem }

/-- `n` bytes from an address as a little-endian number (R2). -/
def State.readNat (s : State) (a : Nat) : Nat → Nat
  | 0 => 0
  | n + 1 => (s.byte a).toNat + 256 * s.readNat (a + 1) n

/-- `n` bytes from an address. -/
def State.bytesAt (s : State) (a : Nat) : Nat → List Byte
  | 0 => []
  | n + 1 => s.byte a :: s.bytesAt (a + 1) n

/-- Write some of the bytes from an address; `none` leaves a byte. -/
def State.putBytes (s : State) (a : Nat) : List (Option Byte) → State
  | [] => s
  | none :: bs => s.putBytes (a + 1) bs
  | some b :: bs => (s.setByte a b).putBytes (a + 1) bs

/-- The `n` bytes of a number, the least significant first (R2). -/
def bytesOf (v : Nat) : Nat → List Byte
  | 0 => []
  | n + 1 => BitVec.ofNat 8 v :: bytesOf (v / 256) n

/-- A number from bytes, the least significant first. -/
def natOfBytes : List Byte → Nat
  | [] => 0
  | b :: bs => b.toNat + 256 * natOfBytes bs

/-- A word of memory (R3). -/
def State.word (s : State) (a : Nat) : Word := BitVec.ofNat 64 (s.readNat a 8)

/-- Words as bytes. -/
def bytesOfWords (ws : List Word) : List Byte := ws.flatMap fun w => bytesOf w.toNat 8

/-- A word of a list. -/
def nth (ws : List Word) (i : Nat) : Word := (ws[i]?).getD 0

/-- `n` words from an address. -/
def State.wordsAt (s : State) (a : Nat) : Nat → List Word
  | 0 => []
  | n + 1 => s.word a :: s.wordsAt (a + 8) n

/-- Write a whole word at a home. -/
def State.setWord (s : State) (a : Nat) (v : Word) : State := s.putBytes a ((bytesOf v.toNat 8).map some)

/-- The word that holds an address. -/
def wordOf (a : Nat) : Nat := a / 8 * 8

/-- The full/empty bit of the word at an address; 1 means full (R154). -/
def State.full (s : State) (a : Nat) : Bool := !Table.get false s.empties (wordOf a)

/-- Set a word's full/empty bit. -/
def State.setFull (s : State) (a : Nat) (f : Bool) : State :=
  { s with empties := Table.set false (wordOf a) (!f) s.empties }

/-- A word between the grant of a take and its put (R216). -/
def State.held (s : State) (a : Nat) : Bool := Table.get false s.holds (wordOf a)

/-- Begin or end a hold. -/
def State.setHeld (s : State) (a : Nat) (h : Bool) : State :=
  { s with holds := Table.set false (wordOf a) h s.holds }

/-- A word that cannot be corrected (R207). -/
def State.uncorrectable (s : State) (a : Nat) : Bool := Table.get false s.bad (wordOf a)

/-- The words that `n` bytes from an address touch. -/
def wordsTouched (a n : Nat) : List Nat :=
  if n = 0 then [] else (List.range ((a + n - 1) / 8 - a / 8 + 1)).map fun i => (a / 8 + i) * 8

/-- Some word of the bytes cannot be corrected. -/
def State.anyBad (s : State) (a n : Nat) : Bool := (wordsTouched a n).any s.uncorrectable

/-- Record an uncorrectable word found on a die (Table 13.12, UELAST); storage without a physical address has none to
record. -/
def State.noteBad (s : State) (a n : Nat) : State :=
  match (wordsTouched a n).find? s.uncorrectable with
  | some w => if 2 ^ 52 ≤ w then s else s.updDie (homeDie w) fun d => { d with uelast := BitVec.ofNat 64 w }
  | none => s

/-! ### Protection of ranges (R402) -/

/-- Two ranges of bytes meet. -/
def overlaps (a n b m : Nat) : Bool := decide (a < b + m) && decide (b < a + n) && decide (0 < n) && decide (0 < m)

/-- A region that protects its ranges (R402). -/
def Region.guards (r : Region) : Bool := r.state == .opened || r.state == .closing || r.state == .broken

/-- Whether bytes meet a protected range of a region or of a registered code object. -/
def State.guarded (s : State) (a n : Nat) : Bool :=
  (s.regions.any fun e => e.2.guards && e.2.ranges.any fun x => overlaps a n x.1 x.2) ||
  (s.codes.any fun e => match e.2 with
    | some c => c.ranges.any fun x => overlaps a n x.1 x.2
    | none => false)

/-! ### Seals (R239, R240) -/

/-- The key of a seal: home and context. -/
def sealAt (pa : Nat) (ctx : BitVec 12) : Nat := sealKey pa * 4096 + ctx.toNat

/-- The seal of a context at a home. -/
def State.seal? (s : State) (pa : Nat) (ctx : BitVec 12) : Option Seal := Table.get none s.seals (sealAt pa ctx)

/-- A write of the context is lost: the home is sealed, or its count goes up, saturating (Table 9.7). -/
def State.addLoss (s : State) (pa : Nat) (ctx : BitVec 12) (va : Word) : State :=
  let x : Seal := match s.seal? pa ctx with
    | some x => { x with count := min (x.count + 1) (2 ^ 32 - 1) }
    | none => ⟨va, 1⟩
  { s with seals := Table.set none (sealAt pa ctx) (some x) s.seals }

/-- The bytes of a write that fall in one word, as given from the write's start. -/
def bytesIn (a w : Nat) (bs : List (Option Byte)) : List (Option Byte) :=
  (List.range 8).map fun i => if a ≤ w + i then (bs[w + i - a]?).join else none

/-- A write covers a word whole. -/
def coversWord (a w : Nat) (bs : List (Option Byte)) : Bool := (bytesIn a w bs).all (·.isSome)

/-- The words of which a write has some byte. -/
def wordsWritten (a : Nat) (bs : List (Option Byte)) : List Nat :=
  (wordsTouched a bs.length).filter fun w => (bytesIn a w bs).any (·.isSome)

/-- Whether a write can be performed: not in a protected range, and no uncorrectable word of which it has only some of
the bytes (R207, R239, R402). -/
def State.writable (s : State) (a : Nat) (bs : List (Option Byte)) : Bool :=
  !s.guarded a bs.length && (wordsWritten a bs).all fun w => !s.uncorrectable w || coversWord a w bs

/-- The bits after a write: an engine write sets every written word full (R155); a repaired word is full (R207). -/
def State.settleBits (s : State) (engine : Bool) (a : Nat) (bs : List (Option Byte)) : List Nat → State
  | [] => s
  | w :: ws =>
    let fixed := s.uncorrectable w && coversWord a w bs
    let s := if fixed then { s with bad := Table.set false w false s.bad } else s
    let s := if engine || fixed then s.setFull w true else s
    s.settleBits engine a bs ws

/-- A write at its home without any test of the bit (R204, R207, R239, R240): performed, or lost or discarded. -/
def State.writeHome (s : State) (engine : Bool) (ctx : BitVec 12) (va : Word) (pa : Nat) (bs : List (Option Byte)) :
    State × Bool :=
  if (s.seal? pa ctx).isSome then (s.addLoss pa ctx va, false)
  else if s.writable pa bs then ((s.putBytes pa bs).settleBits engine pa bs (wordsWritten pa bs), true)
  else ((s.noteBad pa bs.length).addLoss pa ctx va, false)

/-- A whole word that the device itself writes for a context (a record, a table entry): performed and, where it repairs the
word, full (R207); in a protected range it is lost (R402). -/
def State.devWord (s : State) (ctx : BitVec 12) (va : Word) (a : Nat) (v : Word) : State :=
  if s.guarded a 8 then s.addLoss a ctx va
  else (s.settleBits false a (List.replicate 8 (some 0)) [a]).setWord a v

end Sys2Proof.Machine
end

