-- ==== Sys2Proof/Machine/Keccak.lean ====
section
/-!
DEFINITION. Sys2Proof/Machine/Keccak.lean: SHAKE256 with an output of 64 bytes, the digest of chapter 17. The spec names it and
does not define it; this is the function of FIPS 202 (log 16, PRESUMED).
-/
namespace Sys2Proof.Machine

/-- A lane of the 25 of the state, lane x + 5y. -/
def laneAt (a : List Word) (i : Nat) : Word := (a[i]?).getD 0

/-- The walk over the 24 lanes besides lane 0: from column 1 of plane 0, each step to column y and plane 2x + 3y; the lane reached
after `t` steps is rotated by the triangular number of t + 1. -/
def rhoWalk (x y t : Nat) : Nat → List (Nat × Nat)
  | 0 => []
  | n + 1 => (x + 5 * y, (t + 1) * (t + 2) / 2 % 64) :: rhoWalk y ((2 * x + 3 * y) % 5) (t + 1) n

/-- The rotation of a lane; lane 0 has none. -/
def rhoBy (i : Nat) : Nat := (((rhoWalk 1 0 0 24).find? fun e => e.1 == i).map (·.2)).getD 0

/-- One step of the register of 8 bits that makes the round constants: x^8 + x^6 + x^5 + x^4 + 1. -/
def lfsr (r : Nat) : Nat := if r < 128 then 2 * r else (2 * (r - 128)) ^^^ 0x71

/-- Seven steps of the register: bit 1 after step j is bit 2^j - 1 of a round's constant. -/
def lfsrRound (r c j : Nat) : Nat → Nat × Nat
  | 0 => (r, c)
  | n + 1 => let r := lfsr r; lfsrRound r (c + r / 2 % 2 * 2 ^ (2 ^ j - 1)) (j + 1) n

/-- The constants of the rounds from a register on. -/
def iotas (r : Nat) : Nat → List Word
  | 0 => []
  | n + 1 => let x := lfsrRound r 0 0 7; BitVec.ofNat 64 x.2 :: iotas x.1 n

/-- The parity of a column. -/
def column (a : List Word) (x : Nat) : Word :=
  laneAt a x ^^^ laneAt a (x + 5) ^^^ laneAt a (x + 10) ^^^ laneAt a (x + 15) ^^^ laneAt a (x + 20)

/-- Theta: each lane takes the parities of two neighbouring columns. -/
def theta (a : List Word) : List Word :=
  let c := (List.range 5).map (column a)
  (List.range 25).map fun i => laneAt a i ^^^ laneAt c ((i + 4) % 5) ^^^ (laneAt c ((i + 1) % 5)).rotateLeft 1

/-- Rho and pi: lane X + 5Y comes from column (X + 3Y) mod 5 of plane X, rotated. -/
def rhoPi (a : List Word) : List Word :=
  (List.range 25).map fun i =>
    let j := (i % 5 + 3 * (i / 5)) % 5 + 5 * (i % 5)
    (laneAt a j).rotateLeft (rhoBy j)

/-- Chi. -/
def chi (a : List Word) : List Word :=
  (List.range 25).map fun i =>
    let y := i / 5 * 5
    laneAt a i ^^^ (~~~(laneAt a (y + (i + 1) % 5)) &&& laneAt a (y + (i + 2) % 5))

/-- One round: chi of rho and pi of theta, then the round constant into lane 0. -/
def keccakRound (a : List Word) (rc : Word) : List Word :=
  match chi (rhoPi (theta a)) with
  | [] => []
  | x :: xs => (x ^^^ rc) :: xs

/-- Keccak-f[1600]. -/
def keccakF (a : List Word) : List Word := (iotas 1 24).foldl keccakRound a

/-- Absorb blocks of 136 bytes. -/
def absorb (a : List Word) (bs : List Byte) : Nat → List Word
  | 0 => a
  | n + 1 =>
    let block := bs.take 136
    let words := (List.range 17).map fun i => BitVec.ofNat 64 (natOfBytes ((block.drop (8 * i)).take 8))
    absorb (keccakF ((List.range 25).map fun i => laneAt a i ^^^ laneAt words i)) (bs.drop 136) n

/-- The padding of SHAKE after `n` bytes. -/
def shakePad (n : Nat) : List Byte :=
  let k := 136 - n % 136
  if k = 1 then [0x9F] else 0x1F :: List.replicate (k - 2) 0 ++ [0x80]

/-- SHAKE256 of some bytes: 64 bytes as eight words. -/
def shake256 (bs : List Byte) : List Word :=
  (absorb (List.replicate 25 0) (bs ++ shakePad bs.length) (bs.length / 136 + 1)).take 8

end Sys2Proof.Machine
end

