-- ==== Sys2Proof/Machine/Flags.lean ====
section
/-!
DEFINITION. Sys2Proof/Machine/Flags.lean: FCTL (Table 4.5): its mode and flush fields, and its sticky flags (R107,
R109).
-/
namespace Sys2Proof.Machine

/-- The four rounding modes, as FCTL.RM and the RM fields of FMT and of records code them (Tables 4.5, 10.6, 11.1). -/
inductive Rm where
  | rne | rtz | rup | rdn
  deriving DecidableEq, Repr

/-- A rounding mode from its two bits. -/
def rmOf (n : Nat) : Rm :=
  match n % 4 with
  | 0 => .rne
  | 1 => .rtz
  | 2 => .rup
  | _ => .rdn

/-- The five sticky flags of FCTL (R109). -/
structure FFlags where
  nv : Bool
  dz : Bool
  of : Bool
  uf : Bool
  nx : Bool
  deriving DecidableEq, Repr

/-- No flag. -/
def FFlags.none : FFlags := ⟨false, false, false, false, false⟩

/-- The flags that either raises; a vector instruction ORs those of its lanes (R109). -/
def FFlags.or (a b : FFlags) : FFlags := ⟨a.nv || b.nv, a.dz || b.dz, a.of || b.of, a.uf || b.uf, a.nx || b.nx⟩

/-- The flags as bits 8-4 of FCTL. -/
def FFlags.toWord (f : FFlags) : Word :=
  BitVec.ofNat 64 ((if f.nv then 256 else 0) + (if f.dz then 128 else 0) + (if f.of then 64 else 0)
    + (if f.uf then 32 else 0) + (if f.nx then 16 else 0))

/-- FCTL.RM. -/
def fctlRm (w : Word) : Rm := rmOf (w.toNat % 4)

/-- FCTL.FLUSH. -/
def fctlFlush (w : Word) : Bool := w.getLsbD 2

/-- FCTL after an instruction raises flags: they are sticky (R109). -/
def raiseFlags (w : Word) (f : FFlags) : Word := w ||| f.toWord

/-- The bits of FCTL that a WRS writes; reserved fields are written as zero (R72, Table 4.5). -/
def fctlMask : Word := 0x1F7#64

end Sys2Proof.Machine
end

