-- ==== Sys2Proof/Machine/Fields.lean ====
section
/-!
DEFINITION. Sys2Proof/Machine/Fields.lean: the fields of a group, the prefixes and field rules of each cell of
Table 2.7, and how a field value breaks a rule (R35 to R40, and the forms of each instruction's own chapter).
-/
namespace Sys2Proof

/-- The fields of one instruction group (R30, R31). -/
structure Group where
  page : Nat
  op   : Nat
  a    : Reg
  b    : Reg
  r    : Option RPfx
  is   : IPfx
  m    : Option MPfx
  deriving DecidableEq, Repr

/-- The word of a group that holds a field (R40). -/
inductive Holder where
  | rWord | mWord | base
  deriving DecidableEq, Repr

/-- The element types an instruction of page 1 allows (Table 5.4). -/
inductive TypeSet where
  | ints | floats | both | dot | widen
  deriving DecidableEq, Repr

/-- A field rule of an instruction: a value that breaks it raises cause 1 (R40). -/
inductive FieldRule where
  | aZero | bZero | dZero | eZero       -- a field that must be 0
  | needR                               -- PFX.R required
  | needImm                             -- at least one PFX.I (R87)
  | immMax (n : Nat)                    -- the zero-extended immediate is at most n
  | bMax (n : Nat) | dMax (n : Nat)     -- a selector
  | readOrder | writeOrder | barOrder   -- the orders of R38, R174
  | feLoad | feStore | feNone | ntNone  -- the full/empty modes of R85
  | sreg | sregWrite | preg | pregWrite -- register numbers of R72, R322
  | aQuad | bQuad                       -- a group of four registers (R161)
  | fType | fTypeD                      -- scalar floating-point types (R116, R122)
  | vType (t : TypeSet) | vTypeD        -- element types (R132, R143)
  | laneImm | laneD | dNeA | redSel     -- R137, R139, R140, R144
  deriving DecidableEq, Repr

/-- One cell of Table 2.7: the prefixes it accepts besides PFX.P, its field rules, and its instruction. -/
structure Form where
  accR  : Bool
  accI  : Bool
  accM  : Bool
  rules : List FieldRule
  build : Group → Instr

/-- The concatenated immediate (R35): the PFX.I fields, first most significant, above `low`, of `width` bits. -/
def immNat (is : IPfx) (width low : Nat) : Nat :=
  is.foldl (fun acc x => acc * 1024 + x.toNat) 0 * 2 ^ width + low

/-- The immediate read as signed over its full width (R35). -/
def immInt (is : IPfx) (width low : Nat) : Int :=
  let w := 10 * is.length + width
  let v := immNat is width low
  if w = 0 then 0 else if v < 2 ^ (w - 1) then (v : Int) else (v : Int) - (2 ^ w : Nat)

/-- The integer element-type codes i8 to i64 (Table 5.1). -/
def isIntType (t : Reg) : Bool := 1 ≤ t.toNat && t.toNat ≤ 4

/-- The floating-point element-type codes f16 to f64 (Table 5.1). -/
def isFloatType (t : Reg) : Bool := 8 ≤ t.toNat && t.toNat ≤ 11

/-- Whether a code lies in an instruction's allowed set (Table 5.4). -/
def TypeSet.has : TypeSet → Reg → Bool
  | .ints, t => isIntType t
  | .floats, t => isFloatType t
  | .both, t => isIntType t || isFloatType t
  | .dot, t => t.toNat == 1 || t.toNat == 2 || t.toNat == 8 || t.toNat == 9
  | .widen, t => t.toNat == 1 || t.toNat == 2 || t.toNat == 3 || t.toNat == 8 || t.toNat == 9 || t.toNat == 10

/-- The width in bits of an element of a type code (Table 5.1); 0 for a reserved code. -/
def laneWidth (t : Reg) : Nat :=
  match t.toNat with
  | 1 => 8 | 2 => 16 | 3 => 32 | 4 => 64
  | 8 => 16 | 9 => 16 | 10 => 32 | 11 => 64
  | _ => 0

/-- The field D, zero where no PFX.R stands. -/
def Group.d (g : Group) : Reg := match g.r with | some r => r.d | none => 0

/-- The field E, zero where no PFX.R stands. -/
def Group.e (g : Group) : Reg := match g.r with | some r => r.e | none => 0

/-- The word that holds a check which reads VTYPE (R40): the PFX.R word when the group has one. -/
def Group.typeHolder (g : Group) : Holder := if g.r.isSome then .rWord else .base

/-- The element type of a page-1 group (R132): E, or VTYPE.TYPE where E is 0; `none` where VTYPE is not known. -/
def Group.elemType (vt : Option Reg) (g : Group) : Option Reg := if g.e = 0 then vt else some g.e

/-- VRED's selector admits the type (Table 5.8). -/
def redAdmits (sel t : Reg) : Bool :=
  sel.toNat ≤ 2 || (sel.toNat ≤ 7 && isIntType t)

/-- Whether the field rule is broken, and by which word's field (R40); `vt` is VTYPE.TYPE where it is known. -/
def FieldRule.broken (vt : Option Reg) (g : Group) : FieldRule → Option Holder
  | .aZero => if g.a = 0 then none else some .base
  | .bZero => if g.b = 0 then none else some .base
  | .dZero => if g.d = 0 then none else some .rWord
  | .eZero => if g.e = 0 then none else some .rWord
  | .needR => if g.r.isSome then none else some .base
  | .needImm => if g.is = [] then some .base else none
  | .immMax n => if immNat g.is 5 g.b.toNat ≤ n then none else some .base
  | .bMax n => if g.b.toNat ≤ n then none else some .base
  | .dMax n => if g.d.toNat ≤ n then none else some .rWord
  | .readOrder => match g.m with | some m => if m.order = 3 then some .mWord else none | none => none
  | .writeOrder => match g.m with | some m => if m.order = 2 then some .mWord else none | none => none
  | .barOrder => match g.m with | some m => if m.order = 0 ∨ m.order = 3 then none else some .mWord | none => none
  | .feLoad => match g.m with | some m => if m.fe = 3 then some .mWord else none | none => none
  | .feStore => match g.m with | some m => if m.fe = 2 then some .mWord else none | none => none
  | .feNone => match g.m with | some m => if m.fe = 0 then none else some .mWord | none => none
  | .ntNone => match g.m with | some m => if m.nt = 0 then none else some .mWord | none => none
  | .sreg => if g.b.toNat ≤ 19 then none else some .base
  | .sregWrite => if g.b.toNat ∈ [2, 3, 4, 5, 11, 14, 17] then none else some .base
  | .preg => if g.b.toNat ≤ 11 then none else some .base
  | .pregWrite => if g.b.toNat ∈ [2, 3, 4, 7, 9, 10] then none else some .base
  | .aQuad => if g.a.toNat % 4 = 0 ∧ 8 ≤ g.a.toNat then none else some .base
  | .bQuad => if g.b.toNat % 4 = 0 ∧ 8 ≤ g.b.toNat then none else some .base
  | .fType => if g.e = 0 ∨ isFloatType g.e then none else some .rWord
  | .fTypeD => if g.d = 0 ∨ isFloatType g.d then none else some .rWord
  | .vType ts =>
    match g.elemType vt with
    | some t => if ts.has t then none else some g.typeHolder
    | none => none
  | .vTypeD =>
    match (if g.d = 0 then vt else some g.d) with
    | some t => if TypeSet.both.has t then none else some g.typeHolder
    | none => none
  | .laneImm =>
    match g.elemType vt with
    | some t =>
      if immNat g.is 5 g.b.toNat < laneWidth t ∨ laneWidth t = 0 then none
      else some (if g.e = 0 then g.typeHolder else .base)
    | none => none
  | .laneD =>
    match g.elemType vt with
    | some t => if g.d.toNat * laneWidth t < 128 then none else some .rWord
    | none => none
  | .dNeA => if g.d = g.a then some .base else none
  | .redSel =>
    match g.elemType vt with
    | some t => if redAdmits g.d t then none else some g.typeHolder
    | none => if g.d.toNat ≤ 7 then none else some .rWord

/-- The rule of R38 that every group with a PFX.M obeys: order 00 needs scope 000. -/
def scopeBroken (g : Group) : Option Holder :=
  match g.m with
  | some m => if m.order = 0 ∧ m.scope ≠ 0 then some .mWord else none
  | none => none

/-- A reserved type code in E raises cause 1 on the type forms; here every broken rule of a form, in no order. -/
def Form.broken (f : Form) (vt : Option Reg) (g : Group) : List Holder :=
  (scopeBroken g).toList ++ f.rules.filterMap (FieldRule.broken vt g)

/-- Page 0 of Table 2.7, op6 from 0. -/
def page0Ops0 : List (Option Form) := [
  /- 0 -/ none,
  /- 1 ADD -/ some ⟨true, false, false, [.eZero], fun g => .add g.a g.b g.r⟩,
  /- 2 SUB -/ some ⟨true, false, false, [.eZero], fun g => .sub g.a g.b g.r⟩,
  /- 3 AND -/ some ⟨true, false, false, [.eZero], fun g => .and g.a g.b g.r⟩,
  /- 4 OR -/ some ⟨true, false, false, [.eZero], fun g => .or g.a g.b g.r⟩,
  /- 5 XOR -/ some ⟨true, false, false, [.eZero], fun g => .xor g.a g.b g.r⟩,
  /- 6 SHL -/ some ⟨true, false, false, [.eZero], fun g => .shl g.a g.b g.r⟩,
  /- 7 SHR -/ some ⟨true, false, false, [.eZero], fun g => .shr g.a g.b g.r⟩,
  /- 8 SAR -/ some ⟨true, false, false, [.eZero], fun g => .sar g.a g.b g.r⟩,
  /- 9 MUL -/ some ⟨true, false, false, [.eZero], fun g => .mul g.a g.b g.r⟩,
  /- 10 MOV -/ some ⟨false, false, false, [], fun g => .mov g.a g.b⟩,
  /- 11 SLT -/ some ⟨true, false, false, [.eZero], fun g => .slt g.a g.b g.r⟩,
  /- 12 SLTU -/ some ⟨true, false, false, [.eZero], fun g => .sltu g.a g.b g.r⟩,
  /- 13 SEQ -/ some ⟨true, false, false, [.eZero], fun g => .seq g.a g.b g.r⟩,
  /- 14 MIN -/ some ⟨true, false, false, [.eZero], fun g => .min g.a g.b g.r⟩,
  /- 15 MAX -/ some ⟨true, false, false, [.eZero], fun g => .max g.a g.b g.r⟩]

/-- Page 0 of Table 2.7, op6 from 16. -/
def page0Ops16 : List (Option Form) := [
  /- 16 ADDI -/ some ⟨true, true, false, [.eZero], fun g => .addi g.a g.b g.r g.is⟩,
  /- 17 ANDI -/ some ⟨true, true, false, [.eZero], fun g => .andi g.a g.b g.r g.is⟩,
  /- 18 ORI -/ some ⟨true, true, false, [.eZero], fun g => .ori g.a g.b g.r g.is⟩,
  /- 19 XORI -/ some ⟨true, true, false, [.eZero], fun g => .xori g.a g.b g.r g.is⟩,
  /- 20 SHLI -/ some ⟨true, true, false, [.eZero, .immMax 63], fun g => .shli g.a g.b g.r g.is⟩,
  /- 21 SHRI -/ some ⟨true, true, false, [.eZero, .immMax 63], fun g => .shri g.a g.b g.r g.is⟩,
  /- 22 SARI -/ some ⟨true, true, false, [.eZero, .immMax 63], fun g => .sari g.a g.b g.r g.is⟩,
  /- 23 SLTI -/ some ⟨true, true, false, [.eZero], fun g => .slti g.a g.b g.r g.is⟩,
  /- 24 SEQI -/ some ⟨true, true, false, [.eZero], fun g => .seqi g.a g.b g.r g.is⟩,
  /- 25 LDI -/ some ⟨false, true, false, [], fun g => .ldi g.a g.b g.is⟩,
  /- 26 LDIX -/ some ⟨false, true, false, [], fun g => .ldix g.a g.b g.is⟩,
  /- 27 LD8 -/ some ⟨true, true, true, [.dZero, .readOrder, .feLoad], fun g => .ld8 g.a g.b g.r g.is g.m⟩,
  /- 28 LD16 -/ some ⟨true, true, true, [.dZero, .readOrder, .feLoad], fun g => .ld16 g.a g.b g.r g.is g.m⟩,
  /- 29 LD32 -/ some ⟨true, true, true, [.dZero, .readOrder, .feLoad], fun g => .ld32 g.a g.b g.r g.is g.m⟩,
  /- 30 LD64 -/ some ⟨true, true, true, [.dZero, .readOrder, .feLoad], fun g => .ld64 g.a g.b g.r g.is g.m⟩,
  /- 31 LD8S -/ some ⟨true, true, true, [.dZero, .readOrder, .feLoad], fun g => .ld8s g.a g.b g.r g.is g.m⟩]

/-- Page 0 of Table 2.7, op6 from 32. -/
def page0Ops32 : List (Option Form) := [
  /- 32 LD16S -/ some ⟨true, true, true, [.dZero, .readOrder, .feLoad], fun g => .ld16s g.a g.b g.r g.is g.m⟩,
  /- 33 LD32S -/ some ⟨true, true, true, [.dZero, .readOrder, .feLoad], fun g => .ld32s g.a g.b g.r g.is g.m⟩,
  /- 34 ST8 -/ some ⟨true, true, true, [.dZero, .writeOrder, .feStore], fun g => .st8 g.a g.b g.r g.is g.m⟩,
  /- 35 ST16 -/ some ⟨true, true, true, [.dZero, .writeOrder, .feStore], fun g => .st16 g.a g.b g.r g.is g.m⟩,
  /- 36 ST32 -/ some ⟨true, true, true, [.dZero, .writeOrder, .feStore], fun g => .st32 g.a g.b g.r g.is g.m⟩,
  /- 37 ST64 -/ some ⟨true, true, true, [.dZero, .writeOrder, .feStore], fun g => .st64 g.a g.b g.r g.is g.m⟩,
  /- 38 LDV -/ some ⟨true, true, true, [.dZero, .readOrder, .feLoad], fun g => .ldv g.a g.b g.r g.is g.m⟩,
  /- 39 STV -/ some ⟨true, true, true, [.dZero, .writeOrder, .feStore], fun g => .stv g.a g.b g.r g.is g.m⟩,
  /- 40 BEQZ -/ some ⟨false, true, false, [], fun g => .beqz g.a g.b g.is⟩,
  /- 41 BNEZ -/ some ⟨false, true, false, [], fun g => .bnez g.a g.b g.is⟩,
  /- 42 BLTZ -/ some ⟨false, true, false, [], fun g => .bltz g.a g.b g.is⟩,
  /- 43 BGEZ -/ some ⟨false, true, false, [], fun g => .bgez g.a g.b g.is⟩,
  /- 44 BEQ -/ some ⟨false, true, false, [.needImm], fun g => .beq g.a g.b g.is⟩,
  /- 45 BNE -/ some ⟨false, true, false, [.needImm], fun g => .bne g.a g.b g.is⟩,
  /- 46 BLT -/ some ⟨false, true, false, [.needImm], fun g => .blt g.a g.b g.is⟩,
  /- 47 BLTU -/ some ⟨false, true, false, [.needImm], fun g => .bltu g.a g.b g.is⟩]

/-- Page 0 of Table 2.7, op6 from 48. -/
def page0Ops48 : List (Option Form) := [
  /- 48 J -/ some ⟨false, true, false, [], fun g => .j g.a g.b g.is⟩,
  /- 49 CALL -/ some ⟨false, true, false, [], fun g => .call g.a g.b g.is⟩,
  /- 50 CALLR -/ some ⟨false, false, false, [.aZero], fun g => .callr g.a g.b⟩,
  /- 51 JR -/ some ⟨false, false, false, [.aZero], fun g => .jr g.a g.b⟩,
  /- 52 RET -/ some ⟨false, false, false, [.aZero, .bZero], fun g => .ret g.a g.b⟩,
  /- 53 ADDPC -/ some ⟨false, true, false, [], fun g => .addpc g.a g.b g.is⟩,
  /- 54 RDS -/ some ⟨false, false, false, [.sreg], fun g => .rds g.a g.b⟩,
  /- 55 WRS -/ some ⟨false, false, false, [.sregWrite], fun g => .wrs g.a g.b⟩,
  /- 56 BRK -/ some ⟨false, true, false, [], fun g => .brk g.a g.b g.is⟩,
  /- 57 SVC -/ some ⟨false, true, false, [], fun g => .svc g.a g.b g.is⟩,
  /- 58 NOP -/ some ⟨false, false, false, [.aZero, .bZero], fun g => .nop g.a g.b⟩,
  /- 59 TRET -/ some ⟨false, false, false, [.aZero, .bZero], fun g => .tret g.a g.b⟩]

/-- The cells of page 0 (Table 2.7); a reserved cell and ILL are `none`. -/
def page0Cells : List (Option Form) := page0Ops0 ++ page0Ops16 ++ page0Ops32 ++ page0Ops48

/-- Page 1 of Table 2.7, op6 from 0. -/
def page1Ops0 : List (Option Form) := [
  /- 0 -/ none,
  /- 1 VADD -/ some ⟨true, false, false, [.vType .both], fun g => .vadd g.a g.b g.r⟩,
  /- 2 VSUB -/ some ⟨true, false, false, [.vType .both], fun g => .vsub g.a g.b g.r⟩,
  /- 3 VMUL -/ some ⟨true, false, false, [.vType .both], fun g => .vmul g.a g.b g.r⟩,
  /- 4 VMULH -/ some ⟨true, false, false, [.vType .ints], fun g => .vmulh g.a g.b g.r⟩,
  /- 5 VMIN -/ some ⟨true, false, false, [.vType .both], fun g => .vmin g.a g.b g.r⟩,
  /- 6 VMAX -/ some ⟨true, false, false, [.vType .both], fun g => .vmax g.a g.b g.r⟩,
  /- 7 VMINU -/ some ⟨true, false, false, [.vType .ints], fun g => .vminu g.a g.b g.r⟩,
  /- 8 VMAXU -/ some ⟨true, false, false, [.vType .ints], fun g => .vmaxu g.a g.b g.r⟩,
  /- 9 VAND -/ some ⟨true, false, false, [.eZero], fun g => .vand g.a g.b g.r⟩,
  /- 10 VOR -/ some ⟨true, false, false, [.eZero], fun g => .vor g.a g.b g.r⟩,
  /- 11 VXOR -/ some ⟨true, false, false, [.eZero], fun g => .vxor g.a g.b g.r⟩,
  /- 12 VANDN -/ some ⟨true, false, false, [.eZero], fun g => .vandn g.a g.b g.r⟩,
  /- 13 VSHL -/ some ⟨true, false, false, [.vType .ints], fun g => .vshl g.a g.b g.r⟩,
  /- 14 VSHR -/ some ⟨true, false, false, [.vType .ints], fun g => .vshr g.a g.b g.r⟩,
  /- 15 VSAR -/ some ⟨true, false, false, [.vType .ints], fun g => .vsar g.a g.b g.r⟩]

/-- Page 1 of Table 2.7, op6 from 16. -/
def page1Ops16 : List (Option Form) := [
  /- 16 VSHLI -/ some ⟨true, true, false, [.vType .ints, .laneImm], fun g => .vshli g.a g.b g.r g.is⟩,
  /- 17 VSHRI -/ some ⟨true, true, false, [.vType .ints, .laneImm], fun g => .vshri g.a g.b g.r g.is⟩,
  /- 18 VSARI -/ some ⟨true, true, false, [.vType .ints, .laneImm], fun g => .vsari g.a g.b g.r g.is⟩,
  /- 19 VFMA -/ some ⟨true, false, false, [.needR, .vType .floats], fun g => .vfma g.a g.b g.r⟩,
  /- 20 VFMS -/ some ⟨true, false, false, [.needR, .vType .floats], fun g => .vfms g.a g.b g.r⟩,
  /- 21 VDIV -/ some ⟨true, false, false, [.vType .floats], fun g => .vdiv g.a g.b g.r⟩,
  /- 22 VSQRT -/ some ⟨true, false, false, [.dZero, .vType .floats], fun g => .vsqrt g.a g.b g.r⟩,
  /- 23 VRCP -/ some ⟨true, false, false, [.dZero, .vType .floats], fun g => .vrcp g.a g.b g.r⟩,
  /- 24 VRSQ -/ some ⟨true, false, false, [.dZero, .vType .floats], fun g => .vrsq g.a g.b g.r⟩,
  /- 25 VEXP2 -/ some ⟨true, false, false, [.dZero, .vType .floats], fun g => .vexp2 g.a g.b g.r⟩,
  /- 26 VLOG2 -/ some ⟨true, false, false, [.dZero, .vType .floats], fun g => .vlog2 g.a g.b g.r⟩,
  /- 27 VSIN -/ some ⟨true, false, false, [.dZero, .vType .floats], fun g => .vsin g.a g.b g.r⟩,
  /- 28 VCOS -/ some ⟨true, false, false, [.dZero, .vType .floats], fun g => .vcos g.a g.b g.r⟩,
  /- 29 VABS -/ some ⟨true, false, false, [.dZero, .vType .both], fun g => .vabs g.a g.b g.r⟩,
  /- 30 VNEG -/ some ⟨true, false, false, [.dZero, .vType .both], fun g => .vneg g.a g.b g.r⟩,
  /- 31 VCEQ -/ some ⟨true, false, false, [.vType .both], fun g => .vceq g.a g.b g.r⟩]

/-- Page 1 of Table 2.7, op6 from 32. -/
def page1Ops32 : List (Option Form) := [
  /- 32 VCLT -/ some ⟨true, false, false, [.vType .both], fun g => .vclt g.a g.b g.r⟩,
  /- 33 VCLTU -/ some ⟨true, false, false, [.vType .ints], fun g => .vcltu g.a g.b g.r⟩,
  /- 34 VCLE -/ some ⟨true, false, false, [.vType .both], fun g => .vcle g.a g.b g.r⟩,
  /- 35 VSEL -/ some ⟨true, false, false, [.needR, .eZero], fun g => .vsel g.a g.b g.r⟩,
  /- 36 VSPLAT -/ some ⟨true, false, false, [.dZero, .vType .both], fun g => .vsplat g.a g.b g.r⟩,
  /- 37 VEXT -/ some ⟨true, false, false, [.vType .both, .laneD], fun g => .vext g.a g.b g.r⟩,
  /- 38 VINS -/ some ⟨true, false, false, [.vType .both, .laneD], fun g => .vins g.a g.b g.r⟩,
  /- 39 VSHUF -/ some ⟨true, false, false, [.vType .both], fun g => .vshuf g.a g.b g.r⟩,
  /- 40 VZIP -/ some ⟨true, false, false, [.needR, .vType .both, .dNeA], fun g => .vzip g.a g.b g.r⟩,
  /- 41 VUNZIP -/ some ⟨true, false, false, [.needR, .vType .both, .dNeA], fun g => .vunzip g.a g.b g.r⟩,
  /- 42 VCVT -/ some ⟨true, false, false, [.needR, .vTypeD, .vType .both], fun g => .vcvt g.a g.b g.r⟩,
  /- 43 VRED -/ some ⟨true, false, false, [.vType .both, .redSel], fun g => .vred g.a g.b g.r⟩,
  /- 44 VDOT -/ some ⟨true, false, false, [.needR, .vType .dot], fun g => .vdot g.a g.b g.r⟩,
  /- 45 VPOPC -/ some ⟨true, false, false, [.dZero, .vType .ints], fun g => .vpopc g.a g.b g.r⟩,
  /- 46 VMULW -/ some ⟨true, false, false, [.vType .widen], fun g => .vmulw g.a g.b g.r⟩,
  /- 47 VMOV -/ some ⟨false, false, false, [], fun g => .vmov g.a g.b⟩]

/-- The cells of page 1 (Table 2.7); a reserved cell and ILL are `none`. -/
def page1Cells : List (Option Form) := page1Ops0 ++ page1Ops16 ++ page1Ops32

/-- Page 2 of Table 2.7, op6 from 0. -/
def page2Ops0 : List (Option Form) := [
  /- 0 -/ none,
  /- 1 TDEF -/ some ⟨false, true, false, [], fun g => .tdef g.a g.b g.is⟩,
  /- 2 TSTAT -/ some ⟨false, false, false, [], fun g => .tstat g.a g.b⟩,
  /- 3 TREADY -/ some ⟨false, false, false, [.bZero], fun g => .tready g.a g.b⟩,
  /- 4 TEMPTY -/ some ⟨false, false, false, [.bZero], fun g => .tempty g.a g.b⟩,
  /- 5 MMA -/ some ⟨false, false, false, [.bZero], fun g => .mma g.a g.b⟩,
  /- 6 MMAQ -/ some ⟨true, false, false, [.bZero, .eZero], fun g => .mmaq g.a g.b g.r⟩,
  /- 7 MMAG -/ some ⟨false, false, false, [], fun g => .mmag g.a g.b⟩,
  /- 8 MMAGQ -/ some ⟨true, false, false, [.eZero], fun g => .mmagq g.a g.b g.r⟩,
  /- 9 MZERO -/ some ⟨false, false, false, [.bZero], fun g => .mzero g.a g.b⟩,
  /- 10 MCVT -/ some ⟨false, false, false, [.bZero], fun g => .mcvt g.a g.b⟩,
  /- 11 JWAIT -/ some ⟨false, false, false, [], fun g => .jwait g.a g.b⟩,
  /- 12 JPOLL -/ some ⟨false, false, false, [], fun g => .jpoll g.a g.b⟩,
  /- 13 WHINT -/ some ⟨false, false, false, [.aZero, .bZero], fun g => .whint g.a g.b⟩,
  /- 14 AMAXR -/ some ⟨false, false, false, [], fun g => .amaxr g.a g.b⟩,
  /- 15 AMAXC -/ some ⟨false, false, false, [], fun g => .amaxc g.a g.b⟩]

/-- The cells of page 2 (Table 2.7); a reserved cell and ILL are `none`. -/
def page2Cells : List (Option Form) := page2Ops0

/-- Page 3 of Table 2.7, op6 from 0. -/
def page3Ops0 : List (Option Form) := [
  /- 0 -/ none,
  /- 1 COPY -/ some ⟨false, true, false, [], fun g => .copy g.a g.b g.is⟩,
  /- 2 COPYH -/ some ⟨false, false, false, [], fun g => .copyh g.a g.b⟩,
  /- 3 HREG -/ some ⟨false, true, false, [], fun g => .hreg g.a g.b g.is⟩,
  /- 4 HFREE -/ some ⟨false, false, false, [], fun g => .hfree g.a g.b⟩,
  /- 5 HCHK -/ some ⟨false, false, false, [], fun g => .hchk g.a g.b⟩,
  /- 6 STXR -/ some ⟨false, true, false, [], fun g => .stxr g.a g.b g.is⟩,
  /- 7 STXP -/ some ⟨false, true, false, [], fun g => .stxp g.a g.b g.is⟩,
  /- 8 SGATH -/ some ⟨false, true, false, [], fun g => .sgath g.a g.b g.is⟩,
  /- 9 SREDI -/ some ⟨false, true, true, [.writeOrder, .feNone], fun g => .sredi g.a g.b g.is g.m⟩,
  /- 10 SRED -/ some ⟨true, true, false, [.dZero, .fType], fun g => .sred g.a g.b g.r g.is⟩,
  /- 11 SREDV -/ some ⟨true, true, false, [.dZero, .vType .floats], fun g => .sredv g.a g.b g.r g.is⟩,
  /- 12 SREDF -/ some ⟨false, true, true, [.readOrder, .feNone], fun g => .sredf g.a g.b g.is g.m⟩,
  /- 13 SCVT -/ some ⟨false, true, false, [], fun g => .scvt g.a g.b g.is⟩,
  /- 14 CANCEL -/ some ⟨false, false, false, [], fun g => .cancel g.a g.b⟩]

/-- The cells of page 3 (Table 2.7); a reserved cell and ILL are `none`. -/
def page3Cells : List (Option Form) := page3Ops0

/-- Page 4 of Table 2.7, op6 from 0. -/
def page4Ops0 : List (Option Form) := [
  /- 0 -/ none,
  /- 1 SPAWN -/ some ⟨false, true, false, [.immMax 255], fun g => .spawn g.a g.b g.is⟩,
  /- 2 SEND -/ some ⟨false, false, false, [.bQuad], fun g => .send g.a g.b⟩,
  /- 3 RECV -/ some ⟨false, false, false, [.aQuad, .bZero], fun g => .recv g.a g.b⟩,
  /- 4 PEEK -/ some ⟨true, false, false, [.eZero, .bZero], fun g => .peek g.a g.b g.r⟩,
  /- 5 QUIT -/ some ⟨false, false, false, [.bZero], fun g => .quit g.a g.b⟩,
  /- 6 TASK -/ some ⟨true, true, false, [.dZero], fun g => .task g.a g.b g.r g.is⟩,
  /- 7 LAUNCH -/ some ⟨false, true, false, [], fun g => .launch g.a g.b g.is⟩,
  /- 8 JOINI -/ some ⟨true, true, true, [.dZero, .writeOrder, .feNone], fun g => .joini g.a g.b g.r g.is g.m⟩,
  /- 9 FINIT -/ some ⟨false, true, true, [.writeOrder, .feNone], fun g => .finit g.a g.b g.is g.m⟩,
  /- 10 FWAIT -/ some ⟨false, true, true, [.readOrder, .feNone], fun g => .fwait g.a g.b g.is g.m⟩,
  /- 11 FPUT -/ some ⟨false, true, true, [.writeOrder, .feNone], fun g => .fput g.a g.b g.is g.m⟩,
  /- 12 LOCK -/ some ⟨false, true, true, [.feNone], fun g => .lock g.a g.b g.is g.m⟩,
  /- 13 UNLOCK -/ some ⟨false, true, true, [.feNone], fun g => .unlock g.a g.b g.is g.m⟩,
  /- 14 QPUSH -/ some ⟨false, true, true, [.feNone], fun g => .qpush g.a g.b g.is g.m⟩,
  /- 15 QPOP -/ some ⟨false, true, true, [.feNone], fun g => .qpop g.a g.b g.is g.m⟩]

/-- Page 4 of Table 2.7, op6 from 16. -/
def page4Ops16 : List (Option Form) := [
  /- 16 AMOADD -/ some ⟨true, true, true, [.eZero, .feNone], fun g => .amoadd g.a g.b g.r g.is g.m⟩,
  /- 17 AMOAND -/ some ⟨true, true, true, [.eZero, .feNone], fun g => .amoand g.a g.b g.r g.is g.m⟩,
  /- 18 AMOOR -/ some ⟨true, true, true, [.eZero, .feNone], fun g => .amoor g.a g.b g.r g.is g.m⟩,
  /- 19 AMOXOR -/ some ⟨true, true, true, [.eZero, .feNone], fun g => .amoxor g.a g.b g.r g.is g.m⟩,
  /- 20 AMOMIN -/ some ⟨true, true, true, [.eZero, .feNone], fun g => .amomin g.a g.b g.r g.is g.m⟩,
  /- 21 AMOMAX -/ some ⟨true, true, true, [.eZero, .feNone], fun g => .amomax g.a g.b g.r g.is g.m⟩,
  /- 22 AMOMINU -/ some ⟨true, true, true, [.eZero, .feNone], fun g => .amominu g.a g.b g.r g.is g.m⟩,
  /- 23 AMOMAXU -/ some ⟨true, true, true, [.eZero, .feNone], fun g => .amomaxu g.a g.b g.r g.is g.m⟩,
  /- 24 AMOSWP -/ some ⟨true, true, true, [.eZero, .feNone], fun g => .amoswp g.a g.b g.r g.is g.m⟩,
  /- 25 CAS -/ some ⟨true, true, true, [.dZero, .feNone], fun g => .cas g.a g.b g.r g.is g.m⟩,
  /- 26 VAMO -/ some ⟨true, true, true, [.dMax 3, .vType .ints, .feNone], fun g => .vamo g.a g.b g.r g.is g.m⟩,
  /- 27 EMPTY -/ some ⟨false, true, true, [.writeOrder, .feNone, .ntNone], fun g => .empty g.a g.b g.is g.m⟩,
  /- 28 BARI -/ some ⟨true, true, true, [.dZero, .writeOrder, .feNone], fun g => .bari g.a g.b g.r g.is g.m⟩,
  /- 29 BAR -/ some ⟨false, true, true, [.barOrder, .feNone, .ntNone], fun g => .bar g.a g.b g.is g.m⟩,
  /- 30 FENCE -/ some ⟨false, false, true, [.aZero, .bZero, .feNone, .ntNone], fun g => .fence g.a g.b g.m⟩,
  /- 31 QBIND -/ some ⟨false, false, false, [.bZero], fun g => .qbind g.a g.b⟩]

/-- Page 4 of Table 2.7, op6 from 32. -/
def page4Ops32 : List (Option Form) := [
  /- 32 QRES -/ some ⟨true, true, true, [.dZero, .feNone], fun g => .qres g.a g.b g.r g.is g.m⟩]

/-- The cells of page 4 (Table 2.7); a reserved cell and ILL are `none`. -/
def page4Cells : List (Option Form) := page4Ops0 ++ page4Ops16 ++ page4Ops32

/-- Page 5 of Table 2.7, op6 from 0. -/
def page5Ops0 : List (Option Form) := [
  /- 0 -/ none,
  /- 1 RSV -/ some ⟨false, false, false, [], fun g => .rsv g.a g.b⟩,
  /- 2 RSVW -/ some ⟨false, false, false, [], fun g => .rsvw g.a g.b⟩,
  /- 3 RSVQ -/ some ⟨false, false, false, [], fun g => .rsvq g.a g.b⟩,
  /- 4 RWAIT -/ some ⟨false, false, false, [], fun g => .rwait g.a g.b⟩,
  /- 5 LEAP -/ some ⟨false, false, false, [.bZero], fun g => .leap g.a g.b⟩,
  /- 6 LEND -/ some ⟨false, false, false, [.bZero], fun g => .lend g.a g.b⟩,
  /- 7 RQRY -/ some ⟨false, false, false, [.bMax 5], fun g => .rqry g.a g.b⟩,
  /- 8 MTRQ -/ some ⟨false, false, false, [], fun g => .mtrq g.a g.b⟩,
  /- 9 MTRS -/ some ⟨false, false, false, [], fun g => .mtrs g.a g.b⟩]

/-- The cells of page 5 (Table 2.7); a reserved cell and ILL are `none`. -/
def page5Cells : List (Option Form) := page5Ops0

/-- Page 6 of Table 2.7, op6 from 0. -/
def page6Ops0 : List (Option Form) := [
  /- 0 -/ none,
  /- 1 RDP -/ some ⟨false, false, false, [.preg], fun g => .rdp g.a g.b⟩,
  /- 2 WRP -/ some ⟨false, false, false, [.pregWrite], fun g => .wrp g.a g.b⟩,
  /- 3 STRET -/ some ⟨false, false, false, [.aZero, .bZero], fun g => .stret g.a g.b⟩,
  /- 4 TLBI -/ some ⟨false, false, false, [], fun g => .tlbi g.a g.b⟩,
  /- 5 CTXS -/ some ⟨false, true, false, [], fun g => .ctxs g.a g.b g.is⟩,
  /- 6 CTXL -/ some ⟨false, true, false, [], fun g => .ctxl g.a g.b g.is⟩,
  /- 7 PREEMPT -/ some ⟨false, false, false, [.bZero], fun g => .preempt g.a g.b⟩,
  /- 8 KILL -/ some ⟨false, false, false, [.bZero], fun g => .kill g.a g.b⟩,
  /- 9 MIGR -/ some ⟨false, false, false, [], fun g => .migr g.a g.b⟩,
  /- 10 SECM -/ some ⟨false, true, false, [], fun g => .secm g.a g.b g.is⟩,
  /- 11 HALT -/ some ⟨false, false, false, [.aZero, .bZero], fun g => .halt g.a g.b⟩,
  /- 12 ICINV -/ some ⟨false, false, false, [], fun g => .icinv g.a g.b⟩]

/-- The cells of page 6 (Table 2.7); a reserved cell and ILL are `none`. -/
def page6Cells : List (Option Form) := page6Ops0

/-- Page 7 of Table 2.7, op6 from 0. -/
def page7Ops0 : List (Option Form) := [
  /- 0 -/ none,
  /- 1 MULH -/ some ⟨true, false, false, [.eZero], fun g => .mulh g.a g.b g.r⟩,
  /- 2 MULHU -/ some ⟨true, false, false, [.eZero], fun g => .mulhu g.a g.b g.r⟩,
  /- 3 DIV -/ some ⟨true, false, false, [.eZero], fun g => .div g.a g.b g.r⟩,
  /- 4 DIVU -/ some ⟨true, false, false, [.eZero], fun g => .divu g.a g.b g.r⟩,
  /- 5 REM -/ some ⟨true, false, false, [.eZero], fun g => .rem g.a g.b g.r⟩,
  /- 6 REMU -/ some ⟨true, false, false, [.eZero], fun g => .remu g.a g.b g.r⟩,
  /- 7 MINU -/ some ⟨true, false, false, [.eZero], fun g => .minu g.a g.b g.r⟩,
  /- 8 MAXU -/ some ⟨true, false, false, [.eZero], fun g => .maxu g.a g.b g.r⟩,
  /- 9 NEG -/ some ⟨false, false, false, [], fun g => .neg g.a g.b⟩,
  /- 10 NOT -/ some ⟨false, false, false, [], fun g => .not g.a g.b⟩,
  /- 11 CLZ -/ some ⟨false, false, false, [], fun g => .clz g.a g.b⟩,
  /- 12 CTZ -/ some ⟨false, false, false, [], fun g => .ctz g.a g.b⟩,
  /- 13 POPC -/ some ⟨false, false, false, [], fun g => .popc g.a g.b⟩,
  /- 14 BREV -/ some ⟨false, false, false, [], fun g => .brev g.a g.b⟩,
  /- 15 BSWAP -/ some ⟨false, false, false, [], fun g => .bswap g.a g.b⟩]

/-- Page 7 of Table 2.7, op6 from 16. -/
def page7Ops16 : List (Option Form) := [
  /- 16 SEXTB -/ some ⟨false, false, false, [], fun g => .sextb g.a g.b⟩,
  /- 17 SEXTH -/ some ⟨false, false, false, [], fun g => .sexth g.a g.b⟩,
  /- 18 SEXTW -/ some ⟨false, false, false, [], fun g => .sextw g.a g.b⟩,
  /- 19 ROL -/ some ⟨true, false, false, [.eZero], fun g => .rol g.a g.b g.r⟩,
  /- 20 ROR -/ some ⟨true, false, false, [.eZero], fun g => .ror g.a g.b g.r⟩,
  /- 21 BEXT -/ some ⟨true, false, false, [.eZero], fun g => .bext g.a g.b g.r⟩,
  /- 22 BINS -/ some ⟨true, false, false, [.needR, .eZero], fun g => .bins g.a g.b g.r⟩,
  /- 23 FADD -/ some ⟨true, false, false, [.fType], fun g => .fadd g.a g.b g.r⟩,
  /- 24 FSUB -/ some ⟨true, false, false, [.fType], fun g => .fsub g.a g.b g.r⟩,
  /- 25 FMUL -/ some ⟨true, false, false, [.fType], fun g => .fmul g.a g.b g.r⟩,
  /- 26 FDIV -/ some ⟨true, false, false, [.fType], fun g => .fdiv g.a g.b g.r⟩,
  /- 27 FSQRT -/ some ⟨true, false, false, [.dZero, .fType], fun g => .fsqrt g.a g.b g.r⟩,
  /- 28 FMA -/ some ⟨true, false, false, [.needR, .fType], fun g => .fma g.a g.b g.r⟩,
  /- 29 FMIN -/ some ⟨true, false, false, [.fType], fun g => .fmin g.a g.b g.r⟩,
  /- 30 FMAX -/ some ⟨true, false, false, [.fType], fun g => .fmax g.a g.b g.r⟩,
  /- 31 FEQ -/ some ⟨true, false, false, [.fType], fun g => .feq g.a g.b g.r⟩]

/-- Page 7 of Table 2.7, op6 from 32. -/
def page7Ops32 : List (Option Form) := [
  /- 32 FLT -/ some ⟨true, false, false, [.fType], fun g => .flt g.a g.b g.r⟩,
  /- 33 FLE -/ some ⟨true, false, false, [.fType], fun g => .fle g.a g.b g.r⟩,
  /- 34 FCVTI -/ some ⟨true, false, false, [.dMax 3, .fType], fun g => .fcvti g.a g.b g.r⟩,
  /- 35 FCVTF -/ some ⟨true, false, false, [.dMax 1, .fType], fun g => .fcvtf g.a g.b g.r⟩,
  /- 36 FCVT -/ some ⟨true, false, false, [.fTypeD, .fType], fun g => .fcvt g.a g.b g.r⟩,
  /- 37 FCLASS -/ some ⟨true, false, false, [.dZero, .fType], fun g => .fclass g.a g.b g.r⟩,
  /- 38 RCP -/ some ⟨true, false, false, [.dZero, .fType], fun g => .rcp g.a g.b g.r⟩,
  /- 39 RSQ -/ some ⟨true, false, false, [.dZero, .fType], fun g => .rsq g.a g.b g.r⟩,
  /- 40 FABS -/ some ⟨true, false, false, [.dZero, .fType], fun g => .fabs g.a g.b g.r⟩,
  /- 41 FNEG -/ some ⟨true, false, false, [.dZero, .fType], fun g => .fneg g.a g.b g.r⟩]

/-- The cells of page 7 (Table 2.7); a reserved cell and ILL are `none`. -/
def page7Cells : List (Option Form) := page7Ops0 ++ page7Ops16 ++ page7Ops32

/-- The cell of Table 2.7 at a page and op6; `none` for reserved cells and for ILL. -/
def cell (page op : Nat) : Option Form :=
  match page with
  | 0 => (page0Cells[op]?).join
  | 1 => (page1Cells[op]?).join
  | 2 => (page2Cells[op]?).join
  | 3 => (page3Cells[op]?).join
  | 4 => (page4Cells[op]?).join
  | 5 => (page5Cells[op]?).join
  | 6 => (page6Cells[op]?).join
  | 7 => (page7Cells[op]?).join
  | _ => none

/-- The fields of an instruction's group; `none` for the steps that have no encoding. -/
def Instr.group : Instr → Option Group
  | .ill a b => some ⟨0, 0, a, b, none, [], none⟩
  | .add a b r => some ⟨0, 1, a, b, r, [], none⟩
  | .sub a b r => some ⟨0, 2, a, b, r, [], none⟩
  | .and a b r => some ⟨0, 3, a, b, r, [], none⟩
  | .or a b r => some ⟨0, 4, a, b, r, [], none⟩
  | .xor a b r => some ⟨0, 5, a, b, r, [], none⟩
  | .shl a b r => some ⟨0, 6, a, b, r, [], none⟩
  | .shr a b r => some ⟨0, 7, a, b, r, [], none⟩
  | .sar a b r => some ⟨0, 8, a, b, r, [], none⟩
  | .mul a b r => some ⟨0, 9, a, b, r, [], none⟩
  | .mov a b => some ⟨0, 10, a, b, none, [], none⟩
  | .slt a b r => some ⟨0, 11, a, b, r, [], none⟩
  | .sltu a b r => some ⟨0, 12, a, b, r, [], none⟩
  | .seq a b r => some ⟨0, 13, a, b, r, [], none⟩
  | .min a b r => some ⟨0, 14, a, b, r, [], none⟩
  | .max a b r => some ⟨0, 15, a, b, r, [], none⟩
  | .addi a b r is => some ⟨0, 16, a, b, r, is, none⟩
  | .andi a b r is => some ⟨0, 17, a, b, r, is, none⟩
  | .ori a b r is => some ⟨0, 18, a, b, r, is, none⟩
  | .xori a b r is => some ⟨0, 19, a, b, r, is, none⟩
  | .shli a b r is => some ⟨0, 20, a, b, r, is, none⟩
  | .shri a b r is => some ⟨0, 21, a, b, r, is, none⟩
  | .sari a b r is => some ⟨0, 22, a, b, r, is, none⟩
  | .slti a b r is => some ⟨0, 23, a, b, r, is, none⟩
  | .seqi a b r is => some ⟨0, 24, a, b, r, is, none⟩
  | .ldi a b is => some ⟨0, 25, a, b, none, is, none⟩
  | .ldix a b is => some ⟨0, 26, a, b, none, is, none⟩
  | .ld8 a b r is m => some ⟨0, 27, a, b, r, is, m⟩
  | .ld16 a b r is m => some ⟨0, 28, a, b, r, is, m⟩
  | .ld32 a b r is m => some ⟨0, 29, a, b, r, is, m⟩
  | .ld64 a b r is m => some ⟨0, 30, a, b, r, is, m⟩
  | .ld8s a b r is m => some ⟨0, 31, a, b, r, is, m⟩
  | .ld16s a b r is m => some ⟨0, 32, a, b, r, is, m⟩
  | .ld32s a b r is m => some ⟨0, 33, a, b, r, is, m⟩
  | .st8 a b r is m => some ⟨0, 34, a, b, r, is, m⟩
  | .st16 a b r is m => some ⟨0, 35, a, b, r, is, m⟩
  | .st32 a b r is m => some ⟨0, 36, a, b, r, is, m⟩
  | .st64 a b r is m => some ⟨0, 37, a, b, r, is, m⟩
  | .ldv a b r is m => some ⟨0, 38, a, b, r, is, m⟩
  | .stv a b r is m => some ⟨0, 39, a, b, r, is, m⟩
  | .beqz a b is => some ⟨0, 40, a, b, none, is, none⟩
  | .bnez a b is => some ⟨0, 41, a, b, none, is, none⟩
  | .bltz a b is => some ⟨0, 42, a, b, none, is, none⟩
  | .bgez a b is => some ⟨0, 43, a, b, none, is, none⟩
  | .beq a b is => some ⟨0, 44, a, b, none, is, none⟩
  | .bne a b is => some ⟨0, 45, a, b, none, is, none⟩
  | .blt a b is => some ⟨0, 46, a, b, none, is, none⟩
  | .bltu a b is => some ⟨0, 47, a, b, none, is, none⟩
  | .j a b is => some ⟨0, 48, a, b, none, is, none⟩
  | .call a b is => some ⟨0, 49, a, b, none, is, none⟩
  | .callr a b => some ⟨0, 50, a, b, none, [], none⟩
  | .jr a b => some ⟨0, 51, a, b, none, [], none⟩
  | .ret a b => some ⟨0, 52, a, b, none, [], none⟩
  | .addpc a b is => some ⟨0, 53, a, b, none, is, none⟩
  | .rds a b => some ⟨0, 54, a, b, none, [], none⟩
  | .wrs a b => some ⟨0, 55, a, b, none, [], none⟩
  | .brk a b is => some ⟨0, 56, a, b, none, is, none⟩
  | .svc a b is => some ⟨0, 57, a, b, none, is, none⟩
  | .nop a b => some ⟨0, 58, a, b, none, [], none⟩
  | .tret a b => some ⟨0, 59, a, b, none, [], none⟩
  | .vadd a b r => some ⟨1, 1, a, b, r, [], none⟩
  | .vsub a b r => some ⟨1, 2, a, b, r, [], none⟩
  | .vmul a b r => some ⟨1, 3, a, b, r, [], none⟩
  | .vmulh a b r => some ⟨1, 4, a, b, r, [], none⟩
  | .vmin a b r => some ⟨1, 5, a, b, r, [], none⟩
  | .vmax a b r => some ⟨1, 6, a, b, r, [], none⟩
  | .vminu a b r => some ⟨1, 7, a, b, r, [], none⟩
  | .vmaxu a b r => some ⟨1, 8, a, b, r, [], none⟩
  | .vand a b r => some ⟨1, 9, a, b, r, [], none⟩
  | .vor a b r => some ⟨1, 10, a, b, r, [], none⟩
  | .vxor a b r => some ⟨1, 11, a, b, r, [], none⟩
  | .vandn a b r => some ⟨1, 12, a, b, r, [], none⟩
  | .vshl a b r => some ⟨1, 13, a, b, r, [], none⟩
  | .vshr a b r => some ⟨1, 14, a, b, r, [], none⟩
  | .vsar a b r => some ⟨1, 15, a, b, r, [], none⟩
  | .vshli a b r is => some ⟨1, 16, a, b, r, is, none⟩
  | .vshri a b r is => some ⟨1, 17, a, b, r, is, none⟩
  | .vsari a b r is => some ⟨1, 18, a, b, r, is, none⟩
  | .vfma a b r => some ⟨1, 19, a, b, r, [], none⟩
  | .vfms a b r => some ⟨1, 20, a, b, r, [], none⟩
  | .vdiv a b r => some ⟨1, 21, a, b, r, [], none⟩
  | .vsqrt a b r => some ⟨1, 22, a, b, r, [], none⟩
  | .vrcp a b r => some ⟨1, 23, a, b, r, [], none⟩
  | .vrsq a b r => some ⟨1, 24, a, b, r, [], none⟩
  | .vexp2 a b r => some ⟨1, 25, a, b, r, [], none⟩
  | .vlog2 a b r => some ⟨1, 26, a, b, r, [], none⟩
  | .vsin a b r => some ⟨1, 27, a, b, r, [], none⟩
  | .vcos a b r => some ⟨1, 28, a, b, r, [], none⟩
  | .vabs a b r => some ⟨1, 29, a, b, r, [], none⟩
  | .vneg a b r => some ⟨1, 30, a, b, r, [], none⟩
  | .vceq a b r => some ⟨1, 31, a, b, r, [], none⟩
  | .vclt a b r => some ⟨1, 32, a, b, r, [], none⟩
  | .vcltu a b r => some ⟨1, 33, a, b, r, [], none⟩
  | .vcle a b r => some ⟨1, 34, a, b, r, [], none⟩
  | .vsel a b r => some ⟨1, 35, a, b, r, [], none⟩
  | .vsplat a b r => some ⟨1, 36, a, b, r, [], none⟩
  | .vext a b r => some ⟨1, 37, a, b, r, [], none⟩
  | .vins a b r => some ⟨1, 38, a, b, r, [], none⟩
  | .vshuf a b r => some ⟨1, 39, a, b, r, [], none⟩
  | .vzip a b r => some ⟨1, 40, a, b, r, [], none⟩
  | .vunzip a b r => some ⟨1, 41, a, b, r, [], none⟩
  | .vcvt a b r => some ⟨1, 42, a, b, r, [], none⟩
  | .vred a b r => some ⟨1, 43, a, b, r, [], none⟩
  | .vdot a b r => some ⟨1, 44, a, b, r, [], none⟩
  | .vpopc a b r => some ⟨1, 45, a, b, r, [], none⟩
  | .vmulw a b r => some ⟨1, 46, a, b, r, [], none⟩
  | .vmov a b => some ⟨1, 47, a, b, none, [], none⟩
  | .tdef a b is => some ⟨2, 1, a, b, none, is, none⟩
  | .tstat a b => some ⟨2, 2, a, b, none, [], none⟩
  | .tready a b => some ⟨2, 3, a, b, none, [], none⟩
  | .tempty a b => some ⟨2, 4, a, b, none, [], none⟩
  | .mma a b => some ⟨2, 5, a, b, none, [], none⟩
  | .mmaq a b r => some ⟨2, 6, a, b, r, [], none⟩
  | .mmag a b => some ⟨2, 7, a, b, none, [], none⟩
  | .mmagq a b r => some ⟨2, 8, a, b, r, [], none⟩
  | .mzero a b => some ⟨2, 9, a, b, none, [], none⟩
  | .mcvt a b => some ⟨2, 10, a, b, none, [], none⟩
  | .jwait a b => some ⟨2, 11, a, b, none, [], none⟩
  | .jpoll a b => some ⟨2, 12, a, b, none, [], none⟩
  | .whint a b => some ⟨2, 13, a, b, none, [], none⟩
  | .amaxr a b => some ⟨2, 14, a, b, none, [], none⟩
  | .amaxc a b => some ⟨2, 15, a, b, none, [], none⟩
  | .copy a b is => some ⟨3, 1, a, b, none, is, none⟩
  | .copyh a b => some ⟨3, 2, a, b, none, [], none⟩
  | .hreg a b is => some ⟨3, 3, a, b, none, is, none⟩
  | .hfree a b => some ⟨3, 4, a, b, none, [], none⟩
  | .hchk a b => some ⟨3, 5, a, b, none, [], none⟩
  | .stxr a b is => some ⟨3, 6, a, b, none, is, none⟩
  | .stxp a b is => some ⟨3, 7, a, b, none, is, none⟩
  | .sgath a b is => some ⟨3, 8, a, b, none, is, none⟩
  | .sredi a b is m => some ⟨3, 9, a, b, none, is, m⟩
  | .sred a b r is => some ⟨3, 10, a, b, r, is, none⟩
  | .sredv a b r is => some ⟨3, 11, a, b, r, is, none⟩
  | .sredf a b is m => some ⟨3, 12, a, b, none, is, m⟩
  | .scvt a b is => some ⟨3, 13, a, b, none, is, none⟩
  | .cancel a b => some ⟨3, 14, a, b, none, [], none⟩
  | .spawn a b is => some ⟨4, 1, a, b, none, is, none⟩
  | .send a b => some ⟨4, 2, a, b, none, [], none⟩
  | .recv a b => some ⟨4, 3, a, b, none, [], none⟩
  | .peek a b r => some ⟨4, 4, a, b, r, [], none⟩
  | .quit a b => some ⟨4, 5, a, b, none, [], none⟩
  | .task a b r is => some ⟨4, 6, a, b, r, is, none⟩
  | .launch a b is => some ⟨4, 7, a, b, none, is, none⟩
  | .joini a b r is m => some ⟨4, 8, a, b, r, is, m⟩
  | .finit a b is m => some ⟨4, 9, a, b, none, is, m⟩
  | .fwait a b is m => some ⟨4, 10, a, b, none, is, m⟩
  | .fput a b is m => some ⟨4, 11, a, b, none, is, m⟩
  | .lock a b is m => some ⟨4, 12, a, b, none, is, m⟩
  | .unlock a b is m => some ⟨4, 13, a, b, none, is, m⟩
  | .qpush a b is m => some ⟨4, 14, a, b, none, is, m⟩
  | .qpop a b is m => some ⟨4, 15, a, b, none, is, m⟩
  | .amoadd a b r is m => some ⟨4, 16, a, b, r, is, m⟩
  | .amoand a b r is m => some ⟨4, 17, a, b, r, is, m⟩
  | .amoor a b r is m => some ⟨4, 18, a, b, r, is, m⟩
  | .amoxor a b r is m => some ⟨4, 19, a, b, r, is, m⟩
  | .amomin a b r is m => some ⟨4, 20, a, b, r, is, m⟩
  | .amomax a b r is m => some ⟨4, 21, a, b, r, is, m⟩
  | .amominu a b r is m => some ⟨4, 22, a, b, r, is, m⟩
  | .amomaxu a b r is m => some ⟨4, 23, a, b, r, is, m⟩
  | .amoswp a b r is m => some ⟨4, 24, a, b, r, is, m⟩
  | .cas a b r is m => some ⟨4, 25, a, b, r, is, m⟩
  | .vamo a b r is m => some ⟨4, 26, a, b, r, is, m⟩
  | .empty a b is m => some ⟨4, 27, a, b, none, is, m⟩
  | .bari a b r is m => some ⟨4, 28, a, b, r, is, m⟩
  | .bar a b is m => some ⟨4, 29, a, b, none, is, m⟩
  | .fence a b m => some ⟨4, 30, a, b, none, [], m⟩
  | .qbind a b => some ⟨4, 31, a, b, none, [], none⟩
  | .qres a b r is m => some ⟨4, 32, a, b, r, is, m⟩
  | .rsv a b => some ⟨5, 1, a, b, none, [], none⟩
  | .rsvw a b => some ⟨5, 2, a, b, none, [], none⟩
  | .rsvq a b => some ⟨5, 3, a, b, none, [], none⟩
  | .rwait a b => some ⟨5, 4, a, b, none, [], none⟩
  | .leap a b => some ⟨5, 5, a, b, none, [], none⟩
  | .lend a b => some ⟨5, 6, a, b, none, [], none⟩
  | .rqry a b => some ⟨5, 7, a, b, none, [], none⟩
  | .mtrq a b => some ⟨5, 8, a, b, none, [], none⟩
  | .mtrs a b => some ⟨5, 9, a, b, none, [], none⟩
  | .rdp a b => some ⟨6, 1, a, b, none, [], none⟩
  | .wrp a b => some ⟨6, 2, a, b, none, [], none⟩
  | .stret a b => some ⟨6, 3, a, b, none, [], none⟩
  | .tlbi a b => some ⟨6, 4, a, b, none, [], none⟩
  | .ctxs a b is => some ⟨6, 5, a, b, none, is, none⟩
  | .ctxl a b is => some ⟨6, 6, a, b, none, is, none⟩
  | .preempt a b => some ⟨6, 7, a, b, none, [], none⟩
  | .kill a b => some ⟨6, 8, a, b, none, [], none⟩
  | .migr a b => some ⟨6, 9, a, b, none, [], none⟩
  | .secm a b is => some ⟨6, 10, a, b, none, is, none⟩
  | .halt a b => some ⟨6, 11, a, b, none, [], none⟩
  | .icinv a b => some ⟨6, 12, a, b, none, [], none⟩
  | .mulh a b r => some ⟨7, 1, a, b, r, [], none⟩
  | .mulhu a b r => some ⟨7, 2, a, b, r, [], none⟩
  | .div a b r => some ⟨7, 3, a, b, r, [], none⟩
  | .divu a b r => some ⟨7, 4, a, b, r, [], none⟩
  | .rem a b r => some ⟨7, 5, a, b, r, [], none⟩
  | .remu a b r => some ⟨7, 6, a, b, r, [], none⟩
  | .minu a b r => some ⟨7, 7, a, b, r, [], none⟩
  | .maxu a b r => some ⟨7, 8, a, b, r, [], none⟩
  | .neg a b => some ⟨7, 9, a, b, none, [], none⟩
  | .not a b => some ⟨7, 10, a, b, none, [], none⟩
  | .clz a b => some ⟨7, 11, a, b, none, [], none⟩
  | .ctz a b => some ⟨7, 12, a, b, none, [], none⟩
  | .popc a b => some ⟨7, 13, a, b, none, [], none⟩
  | .brev a b => some ⟨7, 14, a, b, none, [], none⟩
  | .bswap a b => some ⟨7, 15, a, b, none, [], none⟩
  | .sextb a b => some ⟨7, 16, a, b, none, [], none⟩
  | .sexth a b => some ⟨7, 17, a, b, none, [], none⟩
  | .sextw a b => some ⟨7, 18, a, b, none, [], none⟩
  | .rol a b r => some ⟨7, 19, a, b, r, [], none⟩
  | .ror a b r => some ⟨7, 20, a, b, r, [], none⟩
  | .bext a b r => some ⟨7, 21, a, b, r, [], none⟩
  | .bins a b r => some ⟨7, 22, a, b, r, [], none⟩
  | .fadd a b r => some ⟨7, 23, a, b, r, [], none⟩
  | .fsub a b r => some ⟨7, 24, a, b, r, [], none⟩
  | .fmul a b r => some ⟨7, 25, a, b, r, [], none⟩
  | .fdiv a b r => some ⟨7, 26, a, b, r, [], none⟩
  | .fsqrt a b r => some ⟨7, 27, a, b, r, [], none⟩
  | .fma a b r => some ⟨7, 28, a, b, r, [], none⟩
  | .fmin a b r => some ⟨7, 29, a, b, r, [], none⟩
  | .fmax a b r => some ⟨7, 30, a, b, r, [], none⟩
  | .feq a b r => some ⟨7, 31, a, b, r, [], none⟩
  | .flt a b r => some ⟨7, 32, a, b, r, [], none⟩
  | .fle a b r => some ⟨7, 33, a, b, r, [], none⟩
  | .fcvti a b r => some ⟨7, 34, a, b, r, [], none⟩
  | .fcvtf a b r => some ⟨7, 35, a, b, r, [], none⟩
  | .fcvt a b r => some ⟨7, 36, a, b, r, [], none⟩
  | .fclass a b r => some ⟨7, 37, a, b, r, [], none⟩
  | .rcp a b r => some ⟨7, 38, a, b, r, [], none⟩
  | .rsq a b r => some ⟨7, 39, a, b, r, [], none⟩
  | .fabs a b r => some ⟨7, 40, a, b, r, [], none⟩
  | .fneg a b r => some ⟨7, 41, a, b, r, [], none⟩
  | .qd _ => none
  | .bd _ _ => none
  | .nd _ _ => none
  | .cf _ _ => none
  | .ce _ _ => none
  | .ew _ _ => none
  | .er _ _ => none
  | .pt _ => none
  | .ms _ => none
  | .windowSpill _ => none
  | .windowFill _ => none
  | .userTrapDelivery _ => none
  | .supervisorTrapDelivery _ => none
  | .startMessageAccept _ => none
  | .slotStart _ => none
  | .launchAccept _ => none
  | .schedulerPlace _ => none
  | .joinDecrement _ => none
  | .matrixJobRun _ _ => none
  | .chainWriteback _ _ => none
  | .mzeroJob _ _ => none
  | .mcvtJob _ _ => none
  | .runAhead _ _ => none
  | .engineIdleGate _ _ => none
  | .engineSwitchOn _ _ => none
  | .copyChunk _ _ => none
  | .copyJobEnd _ _ => none
  | .stackJobChunk _ => none
  | .stackJobEnd _ => none
  | .tableWalk _ _ => none
  | .tlbiAck _ _ => none
  | .preemptHalt _ => none
  | .killComplete _ => none
  | .migrationPack _ => none
  | .tadpoleShip _ => none
  | .tadpolePlace _ => none
  | .leapcut _ => none
  | .leaptrip _ => none
  | .pcapWrite _ _ _ => none
  | .pdrainWrite _ _ _ => none
  | .rtripWrite _ _ => none
  | .rsenseWrite _ _ => none
  | .cpqreqWrite _ _ => none
  | .clusterQuiet _ => none
  | .save _ => none
  | .restore _ => none
  | .saveComplete _ => none
  | .restoreComplete _ => none
  | .cpcgateWrite _ _ => none
  | .cprailWrite _ _ => none
  | .railStep _ => none
  | .stepWaitExpiry _ => none
  | .cpcoreWrite _ _ => none
  | .cpdivWrite _ _ _ => none
  | .wakereq _ _ _ => none
  | .vexclWindow _ => none
  | .phaseFailure _ _ => none
  | .darkRowExpiry _ _ => none
  | .pwrinUpdate _ => none
  | .linkctlWrite _ _ _ => none
  | .linkWidthChange _ _ => none
  | .linkRateChange _ _ => none
  | .laneFailure _ _ => none
  | .meterApply _ => none
  | .powerLoss => none
  | .register => none
  | .close => none
  | .attach => none
  | .measure => none
  | .unregister => none
  | .getlog => none
  | .getckpt => none
  | .getkey => none
  | .signedRecordRequest => none
  | .unseal _ => none
  | .bar2Read _ _ _ => none
  | .bar2Write _ _ _ => none
  | .qtailWrite _ _ _ => none
  | .qctlWrite _ _ _ _ => none
  | .hostQueueTake _ _ => none
  | .hostCompletion _ _ => none
  | .bootcmdWrite _ _ => none
  | .moduleReset => none
  | .ramovBoot => none
  | .firmwareVerify => none
  | .controlCoreRelease => none
  | .linkTraining => none
  | .pcieEnumerate => none
  | .remoteWriteFrame _ => none
  | .remoteMessageFrame _ => none
  | .acknowledgementFrame _ _ _ => none
  | .retransmit _ _ => none
  | .registerWrite _ _ => none
  | .softError _ _ => none
  | .shuntUseChange _ _ _ => none
  | .icinvComplete _ => none
  | .badcodeRequest => none

/-- The field rules a group breaks; a reserved cell has none. -/
def Group.broken (vt : Option Reg) (g : Group) : List Holder :=
  match cell g.page g.op with
  | some f => f.broken vt g
  | none => []

end Sys2Proof
end

