-- ==== Sys2Proof/Machine/Operands.lean ====
section
/-!
DEFINITION. Sys2Proof/Machine/Operands.lean: every operand form of the groups: the destination of a three-address
form, immediates (R35), effective addresses (R78), groups of four registers (R161), and element types (R116, R132).
-/
namespace Sys2Proof.Machine

/-! ### Fields of prefixes -/

/-- D of PFX.R, or 0. -/
def dOf : Option RPfx → Reg
  | some r => r.d
  | none => 0

/-- E of PFX.R, or 0. -/
def eOf : Option RPfx → Reg
  | some r => r.e
  | none => 0

/-- The destination of `op a, b` and of `op d, a, b`: A, or D with PFX.R (R81). -/
def destOf (a : Reg) : Option RPfx → Reg
  | some r => r.d
  | none => a

/-- The order of an access: 00 strong without PFX.M (R51). -/
def orderOf : Option MPfx → BitVec 2
  | some m => m.order
  | none => 0

/-- The scope of an access: strong accesses act at system scope, code 4 (R38). -/
def scopeOfM : Option MPfx → Nat
  | some m => if m.order = 0 then 4 else m.scope.toNat
  | none => 4

/-- The full/empty mode. -/
def feOf : Option MPfx → BitVec 2
  | some m => m.fe
  | none => 0

/-! ### Immediates (R35) -/

/-- imm5 in B, widened by PFX.I, signed. -/
def immS (is : IPfx) (b : Reg) : Word := BitVec.ofInt 64 (immInt is 5 b.toNat)

/-- imm5 in B, widened, zero-extended. -/
def immZ (is : IPfx) (b : Reg) : Word := BitVec.ofNat 64 (immNat is 5 b.toNat)

/-- A shift amount: imm5 in B, widened, at most 63 in a legal group. -/
def immShift (is : IPfx) (b : Reg) : Nat := immNat is 5 b.toNat

/-- imm10 in A:B, widened, signed. -/
def immAB (is : IPfx) (a b : Reg) : Word := BitVec.ofInt 64 (immInt is 10 (a.toNat * 32 + b.toNat))

/-- The code of BRK and SVC: imm10 in A:B, widened, zero-extended, of which 40 bits are kept (R93). -/
def immCode (is : IPfx) (a b : Reg) : Nat := immNat is 10 (a.toNat * 32 + b.toNat) % 2 ^ 40

/-- An offset made of PFX.I words alone, signed; 0 without any. -/
def offS (is : IPfx) : Word := BitVec.ofInt 64 (immInt is 0 0)

/-! ### Addresses -/

/-- The effective address B + imm + x * size (R78). -/
def State.ea (s : State) (b : Reg) (r : Option RPfx) (is : IPfx) (size : Nat) : Word :=
  s.r b + offS is + s.r (eOf r) * BitVec.ofNat 64 size

/-- The address B + imm of an instruction without an index. -/
def State.addrOf (s : State) (b : Reg) (is : IPfx) : Word := s.r b + offS is

/-- The target of a branch or jump: the next-group address + 2 * off. -/
def State.target (s : State) (off : Word) : Word := s.nextPc + off + off

/-! ### Results -/

/-- A group whose whole effect is one scalar result: write, debit, go on. -/
def State.result (s : State) (rd : Reg) (v : Word) (drops : Nat) : State := (s.wr s.cur rd v).retire drops

/-- A group whose whole effect is one vector result. -/
def State.resultV (s : State) (vd : Reg) (v : VWord) (drops : Nat) : State := (s.wrV s.cur vd v).retire drops

/-- The value A op B written to A or D, at the cost of a scalar group (R81). -/
def State.alu (s : State) (f : Word → Word → Word) (a b : Reg) (r : Option RPfx) : State :=
  s.result (destOf a r) (f (s.r a) (s.r b)) 0

/-- The value A op imm written to A or D (R83). -/
def State.aluImm (s : State) (f : Word → Word) (a : Reg) (r : Option RPfx) : State :=
  s.result (destOf a r) (f (s.r a)) 0

/-- The value f(B) written to A (R96). -/
def State.unary (s : State) (f : Word → Word) (a b : Reg) : State := s.result a (f (s.r b)) 0

/-- The register `i` places above a register (R161). -/
def regPlus (a : Reg) (i : Nat) : Reg := BitVec.ofNat 5 (a.toNat + i)

/-- The four words of a register group. -/
def State.quad (s : State) (b : Reg) : Vector Word 4 :=
  payload (s.r b) (s.r (regPlus b 1)) (s.r (regPlus b 2)) (s.r (regPlus b 3))

/-- Write four words to a register group of a slot. -/
def State.wrQuad (s : State) (tid : Nat) (a : Reg) (v : Vector Word 4) : State :=
  (((s.wr tid a (v.get 0)).wr tid (regPlus a 1) (v.get 1)).wr tid (regPlus a 2) (v.get 2)).wr tid (regPlus a 3) (v.get 3)

/-! ### Element types -/

/-- VTYPE.TYPE of a thread (Table 5.2). -/
def Thread.vt (t : Thread) : Reg := t.vtype.extractLsb' 0 5

/-- A type code of Table 5.1 or 2.4. -/
def goodType (t : Reg) : Bool := isIntType t || isFloatType t

/-- The element type of a page-1 group: E, or VTYPE.TYPE where E is 0 (R132). -/
def State.elem (s : State) (e : Reg) : Reg := if e = 0 then s.me.vt else e

/-- The scalar floating-point type of E: 0 means f64 (R36). -/
def floatType (e : Reg) : Reg := if e = 0 then 11 else e

/-- A group that a check of its fields with VTYPE refuses raises cause 1 at the word of the field (R40, R132): the
position of the last PFX.R word, or the base word without one. -/
def State.illegalType (s : State) (r : Option RPfx) : State :=
  let last := s.ir.length - 1
  let pos := if r.isSome then (s.ir.findIdx? fun w => w.toNat / 1024 == 61).getD last else last
  s.trap 1 s.me.pc (decodeInfo ((s.ir[pos]?).getD 0) pos)

/-- Page 6 at user level raises cause 2 at the base word (R40). -/
def State.privileged (s : State) (k : Out) : Out := if s.me.tsr.priv then k else .next (s.illegal 2)

end Sys2Proof.Machine
end

