-- ==== Sys2Proof/Machine/Special.lean ====
section
/-!
DEFINITION. Sys2Proof/Machine/Special.lean: the user special registers (R72 to R75), RDS and WRS (R92), BRK and SVC
(R93).
-/
namespace Sys2Proof.Machine

/-- A truth value as a bit. -/
def bit (b : Bool) (n : Nat) : Nat := if b then 2 ^ n else 0

/-- TSR as a word (Table 3.3). -/
def Tsr.word (t : Tsr) : Word :=
  BitVec.ofNat 64 (bit t.priv 5 + bit t.migrated 4 + bit t.adopted 3 + bit t.lost 2 + bit t.cut 1 + bit t.leap 0)

/-- The code of a reservation state (Table 14.2). -/
def RsvState.code : RsvState → Nat
  | .none => 0
  | .waiting => 1
  | .admitted => 2
  | .active => 3
  | .displaced => 4

/-- LEAPH as a word (Table 14.2). -/
def LeapH.word (l : LeapH) : Word :=
  BitVec.ofNat 64 (l.state.code * 2 ^ 61 + l.rank * 2 ^ 58 + l.pond * 2 ^ 50 + l.units * 2 ^ 36 + l.spent * 2 ^ 14 + l.seq)

/-- WDEPTH as a word (Table 3.4). -/
def Thread.wdepth (t : Thread) : Word := BitVec.ofNat 64 (t.res * 2 ^ 32 + min t.depth (2 ^ 32 - 1))

/-- A core's own time: the module keeps no time base, so each core's count has a lead of its own (R29, log 64). -/
def State.coreNow (s : State) (core : Nat) : Nat := s.now + Config.cycLead core

/-- CYC of a slot's core (R74). -/
def State.cyc (s : State) (tid : Nat) : Word := BitVec.ofNat 64 (s.coreNow (coreOf tid) - (s.core (coreOf tid)).cyc0)

/-- A switch-off clears a core's CYC; it counts from here when the core has power again (R74). -/
def State.clearCyc (s : State) (core : Nat) : State := s.updCore core fun c => { c with cyc0 := s.coreNow core }

/-- TID as the slot reads it; a control core's reads 0 (R370). -/
def tidWord (tid : Nat) : Word := if isCtl tid then 0 else BitVec.ofNat 64 tid

/-- A user special register by number (Table 3.2). -/
def State.sreg (s : State) (tid n : Nat) : Word :=
  let t := s.thread tid
  match n with
  | 0 => tidWord tid
  | 1 => t.tsr.word
  | 2 => t.fctl
  | 3 => t.vtype
  | 4 => t.fmt
  | 5 => t.scp
  | 6 => t.taskh
  | 7 => t.mhdr
  | 8 => s.cyc tid
  | 9 => t.rank.setWidth 64
  | 10 => t.leaph.word
  | 11 => t.wsp
  | 12 => t.wdepth
  | 13 => t.qbnd.setWidth 64
  | 14 => t.tvec
  | 15 => t.tcause
  | 16 => t.taddr
  | 17 => t.tepc
  | 18 => t.tinfo
  | 19 => BitVec.ofNat 64 t.adepth
  | _ => 0

/-- RDS. -/
def execRds (a b : Reg) (s : State) : Out := .next (s.result a (s.sreg s.cur b.toNat) 0)

/-- The fields of FMT (Table 10.6). -/
def fmtMask : Word := 0x3FFFF#64

/-- The fields of SCP (Table 10.6). -/
def scpMask : Word := 0xFC00FFFFFFFFFFF8#64

/-- A WSP value that Table 3.4 admits. -/
def goodWsp (v : Word) : Bool := decide (v.extractLsb' 48 16 = 0) && decide (v.extractLsb' 0 7 = 0)

/-- A write of a user special register whose value is admitted; reserved fields are written as zero (R72). -/
def Thread.setSreg (t : Thread) (n : Nat) (v : Word) : Thread :=
  match n with
  | 2 => { t with fctl := v &&& fctlMask }
  | 3 => { t with vtype := v &&& 0x1F#64 }
  | 4 => { t with fmt := v &&& fmtMask }
  | 5 => { t with scp := v &&& scpMask }
  | 11 => { t with wsp := v, spillBad := false }
  | 14 => { t with tvec := v &&& 0x0000FFFFFFFFFFFF#64 }
  | 17 => { t with tepc := v }
  | _ => t

/-- WRS: a read-only or reserved number and a VTYPE outside Table 5.1 raise cause 1, a bad WSP cause 3 (R72, R74,
R131). -/
def execWrs (a b : Reg) (s : State) : Out :=
  let v := s.r a
  let n := b.toNat
  .next (if n = 3 ∧ v.extractLsb' 0 5 ≠ 0 ∧ !goodType (v.extractLsb' 0 5) then s.illegal 1
    else if n = 11 ∧ !goodWsp v then s.trap 3 v 0
    else (s.updMe fun t => t.setSreg n v).retire 0)

/-- A trap on request, which completes: its return point is the next group (R77, R93). -/
def State.request (s : State) (cause code : Nat) : State :=
  s.deliver s.cur ⟨cause, s.nextPc, 0, BitVec.ofNat 64 code⟩

/-- BRK. -/
def execBrk (a b : Reg) (is : IPfx) (s : State) : Out := .next (s.request 8 (immCode is a b))

/-- SVC. -/
def execSvc (a b : Reg) (is : IPfx) (s : State) : Out := .next (s.request 9 (immCode is a b))

end Sys2Proof.Machine
end

