-- ==== Sys2Proof/Machine/Translate.lean ====
section
/-!
DEFINITION. Sys2Proof/Machine/Translate.lean: local windows (Table 1.8, Table 15.2), the table walk (R327 to R330), the
checks of Table 3.6 up to step 7, and the policy checks of R403 and R407.
-/
namespace Sys2Proof.Machine

/-- What an access needs of a page (R329). -/
inductive Need where
  | read | write | rmw | fetch
  deriving DecidableEq, Repr

/-- Where an access lands: home address, page kind (Table 8.2; 0 for a local window), region of a METERED page, the
permission bits 5-2 of the leaf, whether it is a local window, whether it is a control core's control space, and the home
addresses that the leaf maps (for a local window the one byte). -/
structure Target where
  pa      : Nat
  kind    : Nat
  region  : Nat
  perms   : Nat
  isLocal : Bool
  ctl     : Bool
  base    : Nat
  span    : Nat
  deriving DecidableEq, Repr

/-- The target of a local window or of control space. -/
def Target.window (pa kind : Nat) (ctl : Bool) : Target := ⟨pa, kind, 0, 15, true, ctl, pa, 1⟩

/-- The outcome of the address checks: a target, or the cause and address of a trap. -/
inductive Check where
  | ok (t : Target)
  | trap (cause : Nat) (addr : Word)
  deriving DecidableEq, Repr

/-! ### The walk -/

/-- The outcome of a walk: a leaf with the bytes it maps, not present, or an uncorrectable table entry. -/
inductive Walk where
  | leaf (e : Word) (span : Nat)
  | absent
  | bad (pa : Nat)
  deriving DecidableEq, Repr

/-- Bits hi-lo of a word as a number. -/
def bits (w : Word) (hi lo : Nat) : Nat := w.toNat / 2 ^ lo % 2 ^ (hi - lo + 1)

/-- The page base of a leaf, bits 51-16. -/
def leafPa (e : Word) : Nat := bits e 51 16 * 65536

/-- A leaf that R328 calls present at a level mapping `span` bytes. -/
def leafPresent (e : Word) (span : Nat) : Bool :=
  decide (bits e 15 9 = 0) && decide (leafPa e % span = 0) && decide (bits e 8 6 ≤ 4)
    && (decide (bits e 63 52 = 0) || decide (bits e 8 6 = 3))
    && (decide (bits e 8 6 = 4) == decide (devBase ≤ leafPa e ∧ leafPa e < devBase + 2 ^ 48))

/-- A pointer that R328 calls present, toward a table of `size` bytes. -/
def pointerPresent (e : Word) (size : Nat) : Bool :=
  decide (bits e 63 52 = 0) && decide (bits e 7 2 = 0) && decide (bits e 51 8 * 256 % size = 0)

/-- The levels of Table 13.7: shift and number of the index bits, and the size of the table below. -/
def levels : List (Nat × Nat × Nat) := [(39, 9, 4096), (30, 9, 4096), (21, 9, 256), (16, 5, 0)]

/-- One level after another (R327, R328, R330). -/
def State.walkFrom (s : State) (va : Nat) : Nat → List (Nat × Nat × Nat) → Walk
  | _, [] => .absent
  | table, (shift, n, below) :: rest =>
    let a := table + 8 * (va / 2 ^ shift % 2 ^ n)
    if storageOf a ≠ .device then .absent
    else if s.uncorrectable a then .bad a
    else
      let e := s.word a
      if e.getLsbD 0 = false then .absent
      else if e.getLsbD 1 then
        (if shift = 39 then .absent else if leafPresent e (2 ^ shift) then .leaf e (2 ^ shift) else .absent)
      else if below = 0 then .absent
      else if pointerPresent e below then s.walkFrom va (bits e 51 8 * 256) rest
      else .absent

/-- The walk of a virtual address from a table root. -/
def State.walk (s : State) (ptbase : Word) (va : Nat) : Walk := s.walkFrom va (bits ptbase 51 12 * 4096) levels

/-- A cached translation of a slot's core or cluster (R331). -/
def State.cached (s : State) (tid : Nat) (ctx : BitVec 12) (va : Nat) : Option TlbEntry :=
  let hit : TlbEntry → Bool := fun e => e.ctx == ctx && decide (e.va ≤ va) && decide (va < e.va + e.span)
  match (s.core (coreOf tid)).utlb.find? hit with
  | some e => some e
  | none => if isCtl tid then none else (s.cluster (clusterOf tid)).tlb.find? hit

/-- The translation of a virtual address for a slot: a cached one, which may be used until a TLBI covers it, or the
walk's (R330). -/
def State.xlate (s : State) (tid : Nat) (c : Ctx) (va : Nat) : Walk :=
  match s.cached tid c.id va with
  | some e => .leaf e.leaf e.span
  | none => s.walk c.ptbase va

/-- UELAST after a trap of cause 14 at a virtual address, of `n` bytes: the table entry, or the word, that cannot be corrected
(R207, R330). -/
def State.note14 (s : State) (tid : Nat) (c : Ctx) (cause : Nat) (va : Word) (n : Nat) : State :=
  if cause = 14 then
    match s.xlate tid c va.toNat with
    | .bad pa => s.noteBad pa 8
    | .leaf e span => s.noteBad (leafPa e + va.toNat % span) n
    | .absent => s
  else s

/-! ### Local windows -/

/-- The home of a local-window address of a slot (Table 1.8), or `none` where the access raises cause 5. -/
def localPa (tid va : Nat) : Option Nat :=
  if va < 0x1C000 then some (tcmPa (coreOf tid) va)
  else if va < 0x800000 then none
  else if va < 0xE00000 then
    let c := (va - 0x800000) / 0x20000
    let o := (va - 0x800000) % 0x20000
    if o < 0x1C000 then some (tcmPa (clusterOf tid * 64 + c) o) else none
  else if va < 0x1000000 then none
  else if va < 0x2000000 then some (spadPa (clusterOf tid) (va - 0x1000000))
  else if va < 0x10000000 then none
  else if va < 0x18000000 then some (sramPa (dieOf tid) (va - 0x10000000))
  else none

/-- The target of a control core's address below 0x1_0000_0000 (Table 15.2). -/
def ctlTarget (die va : Nat) (need : Need) : Option Target :=
  let plain (pa : Nat) : Target := .window pa 0 false
  let reg (pa : Nat) : Target := .window pa 4 true
  if va < 0x10000 then (if need = .fetch then none else some (plain (ctlPa die va)))
  else if 0x40000 ≤ va ∧ va < 0x80000 then
    (if need = .write ∨ need = .rmw then none else some (plain (ctlPa die va)))
  else if 0xF0000000 ≤ va ∧ va < 0xF000C000 then (if need = .fetch then none else some (reg (ctlRegPa die va)))
  else if 0xF0020000 ≤ va ∧ va < 0xF0024000 then
    (if need = .fetch then none else some (reg (devBase + die * 2 ^ 32 + (va - 0xF0020000))))
  else none

/-! ### The checks of Table 3.6 -/

/-- Permissions of a leaf (R329): at user level U is needed; a supervisor fetch needs U = 0. -/
def permits (e : Word) (priv : Bool) (need : Need) : Bool :=
  let r := e.getLsbD 2
  let w := e.getLsbD 3
  let x := e.getLsbD 4
  let u := e.getLsbD 5
  (match need with
    | .read => r
    | .write => w
    | .rmw => r && w
    | .fetch => x && (priv == !u)) && (priv || u)

/-- Steps 2 to 6 of Table 3.6 for bytes within one page. -/
def State.check (s : State) (tid : Nat) (c : Ctx) (priv : Bool) (va : Word) (align : Nat) (need : Need) : Check :=
  let a := va.toNat
  if 2 ^ 48 ≤ a then .trap 3 va
  else if a % align ≠ 0 then .trap 3 va
  else if a < 0x100000000 then
    if isCtl tid then
      match ctlTarget (dieOf tid) a need with
      | some t => .ok t
      | none => .trap 5 va
    else
      match localPa tid a with
      | some pa => if need = .fetch then .trap 5 va else .ok (.window pa 0 false)
      | none => .trap 5 va
  else
    match s.xlate tid c a with
    | .bad _ => .trap 14 va
    | .absent => .trap 4 va
    | .leaf e span =>
      let pa := leafPa e + a % span
      if storageOf pa = .nothing then .trap 4 va
      else if !permits e priv need then .trap 5 va
      else if storageOf pa = .spad then .trap 5 va
      else if need = .fetch ∧ storageOf pa ≠ .device then .trap 5 va
      else .ok ⟨pa, bits e 8 6, bits e 63 52, bits e 5 2, false, false, leafPa e, span⟩

/-- A target in device registers: a DEVREG page or control space. -/
def Target.isReg (t : Target) : Bool := t.kind == 4 || t.ctl

/-- Two targets agree in kind, region and protection (R214). -/
def Target.agrees (a b : Target) : Bool :=
  a.kind == b.kind && a.region == b.region && a.perms == b.perms && a.isLocal == b.isLocal

/-- Steps 2 to 7 over `n` bytes that may cover two pages; each page is checked, then their agreement (cause 6). Within a local
window the last byte must lie in the row of the first (R25). -/
def State.checkSpan (s : State) (tid : Nat) (c : Ctx) (priv : Bool) (va : Word) (n align : Nat) (need : Need) : Check :=
  match s.check tid c priv va align need with
  | .trap k a => .trap k a
  | .ok t =>
    if !t.isLocal && va.toNat / 65536 == (va.toNat + n - 1) / 65536 then .ok t
    else
      match s.check tid c priv (va + BitVec.ofNat 64 (n - 1)) 1 need with
      | .trap k a => .trap k a
      | .ok u =>
        if t.isLocal then (if u.isLocal && u.pa == t.pa + (n - 1) then .ok t else .trap 5 va)
        else if t.agrees u then .ok t
        else .trap 6 va

/-- The bytes of a range as pieces within 64 KiB pages: start and length. -/
def pagePieces (a n : Nat) : List (Nat × Nat) :=
  if n = 0 then []
  else (List.range ((a + n - 1) / 65536 - a / 65536 + 1)).map fun i =>
    let lo := max a ((a / 65536 + i) * 65536)
    let hi := min (a + n) ((a / 65536 + i + 1) * 65536)
    (lo, hi - lo)

/-! ### Policy (R403, R407) -/

/-- Whether a code identity may take deliveries of a region (R407). -/
def State.codeAllowed (s : State) (codeid : BitVec 16) (r : Region) : Bool :=
  !r.attested ||
    (codeid != 0 && match Table.get none s.codes codeid.toNat with
      | some c => r.allow.contains c.digest
      | none => false)

/-- A region of the module. -/
def State.region (s : State) (n : Nat) : Region := Table.get Region.zero s.regions n

/-- Whether ranges cover every byte from an address to another, as far as a number of them reach. -/
def covered (ranges : List (Nat × Nat)) (lo hi : Nat) : Nat → Bool
  | 0 => decide (hi ≤ lo)
  | n + 1 =>
    decide (hi ≤ lo) ||
      match ranges.find? fun x => decide (x.1 ≤ lo) && decide (lo < x.1 + x.2) with
      | some x => covered ranges (x.1 + x.2) hi n
      | none => false

/-- A region other than the named one whose protected ranges the page of a target meets. -/
def State.foreign (s : State) (t : Target) (named : Option Nat) : Option Nat :=
  (s.regions.find? fun e => e.2.guards && decide (named ≠ some e.1) && e.2.ranges.any fun x =>
    overlaps t.base t.span x.1 x.2).map (·.1)

/-- The refusal of R403, as reason and region id, or `none` where the access is allowed: the whole page counts, and the
reasons are tried in the order 3, 4, 2, 1. -/
def State.policy (s : State) (codeid : BitVec 16) (t : Target) : Option (Nat × Nat) :=
  let named := if t.kind = 3 then some t.region else none
  match s.foreign t named, named with
  | some r, _ => some (3, r)
  | none, none => none
  | none, some n =>
    let r := s.region n
    if !covered r.ranges t.base (t.base + t.span) r.ranges.length then some (4, n)
    else if r.state ≠ .opened then some (2, n)
    else if s.codeAllowed codeid r then none
    else some (1, n)

/-- SINFO.DETAIL of cause 17 (R403). -/
def policyInfo (r : Nat × Nat) : Nat := r.1 * 4096 + r.2

end Sys2Proof.Machine
end

