-- ==== Sys2Proof/Machine/Meter.lean ====
section
/-!
DEFINITION. Sys2Proof/Machine/Meter.lean: the meter unit: signed records and checkpoints (R409, R412), and posting and applying
counting events (R404 to R406).
-/
namespace Sys2Proof.Machine

/-! ### Signed records (R412) -/

/-- Change a region. -/
def State.updRegion (s : State) (id : Nat) (f : Region → Region) : State :=
  { s with regions := Table.set Region.zero id (f (s.region id)) s.regions }

/-- Free words of the model (log 13). -/
def State.freeWords (s : State) (n : Nat) : State × List Word :=
  ({ s with fresh := s.fresh + n }, (List.range n).map fun i => Config.freeWord (s.fresh + i))

/-- The bytes of the start-up measurement log as GETLOG writes it: the entry count, then the entries of ten words (R416). -/
def State.logBytes (s : State) : List Byte := bytesOfWords (BitVec.ofNat 64 (s.fwlog.length / 10) :: s.fwlog)

/-- The 48 words of a record's body (Table 17.4). -/
def State.recordBody (s : State) (id kind : Nat) (x : Region) (seq : Word) (who : Option Ctx) (nonce : List Word) : List Word :=
  let w0 := 2 ^ 56 + kind * 2 ^ 52 + bit x.attested 49 + bit x.metMacs 48 + bit x.metBytes 47 + bit x.satMacs 46 +
    bit x.satBytes 45 + bit x.broke 44 + id
  let bound (n : Nat) : Word := if x.broke then BitVec.ofNat 64 n else 0
  let party := match who with
    | some c => BitVec.ofNat 64 (c.tenant.toNat * 65536 + c.id.toNat)
    | none => 0
  [BitVec.ofNat 64 w0, x.serial, seq, BitVec.ofNat 64 x.bytes, BitVec.ofNat 64 x.macs, bound (2 ^ 31), bound (2 ^ 41), party]
    ++ shake256 Config.publicKey.toList ++ shake256 s.logBytes ++ (List.range 8).map (nth x.meas) ++ (List.range 8).map (nth x.link)
    ++ [BitVec.ofNat 64 x.linkKind] ++ (List.range 4).map (nth nonce) ++ [0, 0, 0]

/-- A region's next signed record: body and signature; a continuity break is reported once (R410, R412). -/
def State.sign (s : State) (id kind : Nat) (who : Option Ctx) (nonce : List Word) : State :=
  let x := s.region id
  let body := bytesOfWords (s.recordBody id kind x (x.seq + 1) who nonce)
  let sig := (Config.signature s.fresh (shake256 body)).toList
  ({ s with fresh := s.fresh + 1 } : State).updRegion id fun y =>
    { y with seq := y.seq + 1, broke := false, record := body ++ sig }

/-- A checkpoint: a signed record of KIND 2, and the counters it holds (R409). -/
def State.checkpoint (s : State) (id : Nat) : State :=
  (s.sign id 2 none []).updRegion id fun y => { y with ckBytes := y.bytes, ckMacs := y.macs }

/-! ### Counting (R404 to R406) -/

/-- Post a counting event of a delivery. -/
def State.count (s : State) (region : Option Nat) (macs : Bool) (amount owner : Nat) : State :=
  match region with
  | some r => { s with meter := s.meter ++ [⟨r, macs, amount, owner⟩] }
  | none => s

/-- Add to a counter that saturates at 2^64 - 1: the count and its flag. -/
def satAdd (n amount : Nat) (flag : Bool) : Nat × Bool :=
  if 2 ^ 64 - 1 ≤ n + amount then (2 ^ 64 - 1, true) else (n + amount, flag)

/-- A region whose counters call for a checkpoint. -/
def Region.due (x : Region) : Bool := decide (x.ckBytes + 2 ^ 30 ≤ x.bytes) || decide (x.ckMacs + 2 ^ 40 ≤ x.macs)

/-- A counter after an event, where its policy bit is set. -/
def Region.counted (r : Region) (e : MeterEvent) : Region :=
  if e.macs then
    (if r.metMacs then let x := satAdd r.macs e.amount r.satMacs; { r with macs := x.1, satMacs := x.2 } else r)
  else if r.metBytes then let x := satAdd r.bytes e.amount r.satBytes; { r with bytes := x.1, satBytes := x.2 }
  else r

/-- Apply one event to its region's counter; a region that has come far enough is checkpointed at once, so that its counters never
stand at the limit at which the unit holds events (R409). -/
def State.applyEvent (s : State) (e : MeterEvent) : State :=
  let s := s.updRegion e.region fun r => r.counted e
  if (s.region e.region).due then s.checkpoint e.region else s

/-- Apply the posted events that satisfy a condition, oldest first. -/
def State.applyWhere (s : State) (p : MeterEvent → Bool) : State :=
  let out := s.meter.filter p
  out.foldl State.applyEvent { s with meter := s.meter.filter fun e => !p e }

/-- Apply the posted events of a slot and its jobs (R406). -/
def State.applyOf (s : State) (owner : Nat) : State := s.applyWhere fun e => e.owner == owner

end Sys2Proof.Machine
end

