-- ==== Sys2Proof/Machine/Numbers.lean ====
section
/-!
DEFINITION. Sys2Proof/Machine/Numbers.lean: the operand formats (Tables 4.1 to 4.3), exact values, rounding and
conversion (R99 to R115), and the exact arithmetic of R118 to R121.
-/
namespace Sys2Proof.Machine

/-! ### Formats -/

/-- The non-MX formats of Table 4.1. -/
inductive Fmt where
  | fp64 | fp32 | fp19 | bf16 | fp16 | e4m3 | e5m2 | e3m2 | e2m3 | e2m1 | int8 | uint8 | int4 | uint4
  deriving DecidableEq, Repr

/-- The element format of a format code (Table 4.1); codes 14-19 give their element's, reserved codes UINT4. -/
def fmtOfCode (c : Nat) : Fmt :=
  match c with
  | 0 => .fp64 | 1 => .fp32 | 2 => .fp19 | 3 => .bf16 | 4 => .fp16
  | 5 => .e4m3 | 6 => .e5m2 | 7 => .e3m2 | 8 => .e2m3 | 9 => .e2m1
  | 10 => .int8 | 11 => .uint8 | 12 => .int4 | 13 => .uint4
  | 14 => .e4m3 | 15 => .e5m2 | 16 => .e3m2 | 17 => .e2m3 | 18 => .e2m1 | 19 => .int8
  | _ => .uint4

/-- Codes 14-19 carry shared scales. -/
def isMx (c : Nat) : Bool := decide (14 ≤ c) && decide (c ≤ 19)

/-- Codes 20-31 are reserved. -/
def goodFmt (c : Nat) : Bool := decide (c < 20)

/-- Bits an element takes in memory: FP19 lies in a 32-bit container (R101). -/
def Fmt.width : Fmt → Nat
  | .fp64 => 64 | .fp32 => 32 | .fp19 => 32 | .bf16 => 16 | .fp16 => 16
  | .e4m3 => 8 | .e5m2 => 8 | .e3m2 => 6 | .e2m3 => 6 | .e2m1 => 4
  | .int8 => 8 | .uint8 => 8 | .int4 => 4 | .uint4 => 4

/-- Exponent bits, fraction bits, bias (Table 4.2); the integers have none. -/
def Fmt.shape : Fmt → Nat × Nat × Nat
  | .fp64 => (11, 52, 1023) | .fp32 => (8, 23, 127) | .fp19 => (8, 10, 127) | .bf16 => (8, 7, 127)
  | .fp16 => (5, 10, 15) | .e4m3 => (4, 3, 7) | .e5m2 => (5, 2, 15) | .e3m2 => (3, 2, 3) | .e2m3 => (2, 3, 1)
  | .e2m1 => (2, 1, 1)
  | _ => (0, 0, 0)

/-- Fraction bits. -/
def Fmt.man (f : Fmt) : Nat := f.shape.2.1

/-- The exponent of the smallest normal. -/
def Fmt.emin (f : Fmt) : Int := 1 - (f.shape.2.2 : Int)

/-- An integer format. -/
def Fmt.isInt : Fmt → Bool
  | .int8 | .uint8 | .int4 | .uint4 => true
  | _ => false

/-- A format with infinities: e all ones is special (Table 4.2). -/
def Fmt.hasInf : Fmt → Bool
  | .fp64 | .fp32 | .fp19 | .bf16 | .fp16 | .e5m2 => true
  | _ => false

/-- A format with a NaN. -/
def Fmt.hasNan (f : Fmt) : Bool := f.hasInf || f == .e4m3

/-- The exponent of the largest finite value. -/
def Fmt.emax (f : Fmt) : Int :=
  let (e, _, b) := f.shape
  if f.hasInf then (2 ^ e : Nat) - 2 - (b : Int) else (2 ^ e : Nat) - 1 - (b : Int)

/-- The significand of the largest finite value, in units of the last place. -/
def Fmt.maxSig (f : Fmt) : Nat := if f = .e4m3 then 14 else 2 ^ (f.man + 1) - 1

/-- The range of an integer format. -/
def Fmt.range : Fmt → Int × Int
  | .int8 => (-128, 127)
  | .uint8 => (0, 255)
  | .int4 => (-8, 7)
  | .uint4 => (0, 15)
  | _ => (0, 0)

/-- The canonical NaN (Table 4.3); E4M3 keeps the sign (R113). -/
def Fmt.nan (f : Fmt) (neg : Bool) : Nat :=
  match f with
  | .fp64 => 0x7FF8000000000000
  | .fp32 | .fp19 => 0x7FC00000
  | .bf16 => 0x7FC0
  | .fp16 => 0x7E00
  | .e4m3 => if neg then 0xFF else 0x7F
  | .e5m2 => 0x7E
  | _ => 0

/-! ### Exact values -/

/-- A number as read from a format: a NaN, an infinity, or (-1)^neg * m * 2^e exactly. -/
inductive FVal where
  | nan (signalling neg : Bool)
  | inf (neg : Bool)
  | fin (neg : Bool) (m : Nat) (e : Int)
  deriving DecidableEq, Repr

/-- The element's bits without FP19's container padding (R101): sign, exponent, fraction packed. -/
def Fmt.core (f : Fmt) (b : Nat) : Nat := if f = .fp19 then b % 2 ^ 32 / 2 ^ 13 else b

/-- The value of an element (R100 to R103). -/
def decodeF (f : Fmt) (b : Nat) : FVal :=
  if f.isInt then
    let w := f.width
    let v := b % 2 ^ w
    match f with
    | .int8 | .int4 => if v < 2 ^ (w - 1) then .fin false v 0 else .fin true (2 ^ w - v) 0
    | _ => .fin false v 0
  else
    let (eb, mb, bias) := f.shape
    let x := f.core b
    let fr := x % 2 ^ mb
    let ex := x / 2 ^ mb % 2 ^ eb
    let neg := decide (x / 2 ^ (mb + eb) % 2 = 1)
    if f.hasInf ∧ ex = 2 ^ eb - 1 then
      (if fr = 0 then .inf neg
       else .nan (decide (f ≠ .e5m2) && decide (fr / 2 ^ (mb - 1) = 0)) neg)
    else if f = .e4m3 ∧ ex = 15 ∧ fr = 7 then .nan false neg
    else if ex = 0 then .fin neg fr (1 - (bias : Int) - mb)
    else .fin neg (2 ^ mb + fr) ((ex : Int) - bias - mb)

/-- A value is a NaN. -/
def FVal.isNan : FVal → Bool
  | .nan _ _ => true
  | _ => false

/-- A value is a signalling NaN. -/
def FVal.isSnan : FVal → Bool
  | .nan s _ => s
  | _ => false

/-- A value is a zero. -/
def FVal.isZero : FVal → Bool
  | .fin _ m _ => m == 0
  | _ => false

/-- The sign. -/
def FVal.neg : FVal → Bool
  | .nan _ n => n
  | .inf n => n
  | .fin n _ _ => n

/-- The value with its sign inverted. -/
def FVal.negate : FVal → FVal
  | .nan s n => .nan s (!n)
  | .inf n => .inf (!n)
  | .fin n m e => .fin (!n) m e

/-- The magnitude. -/
def FVal.abs : FVal → FVal
  | .nan s _ => .nan s false
  | .inf _ => .inf false
  | .fin _ m e => .fin false m e

/-- A signed integer from sign and magnitude. -/
def signedOf (neg : Bool) (m : Nat) : Int := if neg then -(m : Int) else m

/-- 2^k as a natural number for k at least 0; 1 below. -/
def pow2 (k : Int) : Nat := 2 ^ k.toNat

/-- m * 2^e < 2^k. -/
def ltPow2 (m : Nat) (e k : Int) : Bool := m == 0 || decide ((Nat.log2 m : Int) + e < k)

/-- Comparison of magnitudes m * 2^e and n * 2^f. -/
def magCmp (m : Nat) (e : Int) (n : Nat) (f : Int) : Ordering :=
  let lo := min e f
  compare (m * pow2 (e - lo)) (n * pow2 (f - lo))

/-! ### Rounding (R108) -/

/-- Round (-1)^neg * m * 2^e to a multiple of 2^q: the multiple's magnitude, and whether it differs. -/
def roundAt (rm : Rm) (neg : Bool) (m : Nat) (e q : Int) : Nat × Bool :=
  if q ≤ e then (m * pow2 (e - q), false)
  else
    let d := pow2 (q - e)
    let k := m / d
    let r := m % d
    let up := match rm with
      | .rne => decide (d < 2 * r) || (decide (2 * r = d) && decide (k % 2 = 1))
      | .rtz => false
      | .rup => decide (r ≠ 0) && !neg
      | .rdn => decide (r ≠ 0) && neg
    (if up then k + 1 else k, decide (r ≠ 0))

/-- The magnitude of the integer that m * 2^e rounds to. -/
def roundUnits (rm : Rm) (neg : Bool) (m : Nat) (e : Int) : Nat := (roundAt rm neg m e 0).1

/-- A rounded result: the element's bits and the flags. -/
structure Rounded where
  bits : Nat
  fl   : FFlags
  deriving DecidableEq, Repr

/-- The sign bit in place. -/
def Fmt.signBit (f : Fmt) (neg : Bool) : Nat := if neg then 2 ^ (f.width - 1) else 0

/-- A magnitude k * 2^q, at most the largest finite value and a multiple of the last place, as exponent and fraction. -/
def Fmt.magBits (f : Fmt) (k : Nat) (q : Int) : Nat :=
  let mb := f.man
  let pad := if f = .fp19 then 2 ^ 13 else 1
  if k = 0 then 0
  else
    let ex := (Nat.log2 k : Int) + q
    if ex < f.emin then k * pow2 (q - (f.emin - mb)) * pad
    else
      let sig := k * pow2 (q - (ex - mb)) / pow2 ((ex - mb) - q)
      ((ex - f.emin + 1).toNat * 2 ^ mb + (sig - 2 ^ mb)) * pad

/-- The largest finite value's bits. -/
def Fmt.maxBits (f : Fmt) : Nat := f.magBits f.maxSig (f.emax - f.man)

/-- The infinity's bits. -/
def Fmt.infBits (f : Fmt) : Nat :=
  let (eb, mb, _) := f.shape
  (2 ^ eb - 1) * 2 ^ mb * (if f = .fp19 then 2 ^ 13 else 1)

/-- The overflow results (Table 4.6). -/
def Fmt.overflow (f : Fmt) (neg bounded sat : Bool) : Nat :=
  match f with
  | .fp64 | .fp32 | .fp19 | .bf16 | .fp16 =>
    f.signBit neg + (if bounded then f.maxBits else f.infBits)
  | .e5m2 => f.signBit neg + (if sat || bounded then f.maxBits else f.infBits)
  | .e4m3 => if sat || bounded then f.signBit neg + f.maxBits else f.nan neg
  | .e3m2 | .e2m3 | .e2m1 => f.signBit neg + f.maxBits
  | _ => let (lo, hi) := f.range; ((if neg then lo else hi) % (2 ^ f.width : Nat)).toNat

/-- Conversion to an integer within bounds (R115): the integer and the flags. -/
def toIntClamp (rm : Rm) (lo hi : Int) (neg : Bool) (m : Nat) (e : Int) : Int × FFlags :=
  let (k, ix) := roundAt rm neg m e 0
  let v := signedOf neg k
  if v < lo then (lo, { FFlags.none with nv := true })
  else if hi < v then (hi, { FFlags.none with nv := true })
  else (v, { FFlags.none with nx := ix })

/-- The overflow kind of R113. -/
def boundedKind (rm : Rm) (neg : Bool) : Bool :=
  match rm with
  | .rne => false
  | .rtz => true
  | .rup => neg
  | .rdn => !neg

/-- The finite branch of R113 for a floating-point target. A subnormal result is rounded once, from the exact value (R118, R119; log 77:
R113's text rounds the value that it has rounded before). -/
def Fmt.roundFin (f : Fmt) (rm : Rm) (sat flush neg : Bool) (m : Nat) (e : Int) : Rounded :=
  if m = 0 then ⟨f.signBit neg, FFlags.none⟩
  else
    let mb : Int := f.man
    let ex := (Nat.log2 m : Int) + e
    let (k, ix) := roundAt rm neg m e (ex - mb)
    let q := ex - mb
    let ey := (Nat.log2 k : Int) + q
    let big := decide (f.emax < ey) || (decide (ey = f.emax) && decide (f.maxSig < k / pow2 (ey - ex)))
    if k ≠ 0 ∧ big then
      ⟨f.overflow neg (boundedKind rm neg) sat, { FFlags.none with of := true, nx := true }⟩
    else if k = 0 ∨ ey < f.emin then
      if flush then ⟨f.signBit neg, { FFlags.none with uf := true, nx := true }⟩
      else
        let (k', ix') := roundAt rm neg m e (f.emin - mb)
        ⟨f.signBit neg + f.magBits k' (f.emin - mb), { FFlags.none with uf := ix', nx := ix' }⟩
    else ⟨f.signBit neg + f.magBits k q, { FFlags.none with nx := ix }⟩

/-- Conversion and final rounding (R113): target, mode, saturation, flush (R110), exact value. -/
def encodeRound (f : Fmt) (rm : Rm) (sat flush : Bool) (v : FVal) : Rounded :=
  match v with
  | .nan sig neg =>
    ⟨if f.hasNan then f.nan neg else 0, { FFlags.none with nv := sig || !f.hasNan }⟩
  | .inf neg =>
    ⟨f.overflow neg false sat, { FFlags.none with nv := f.isInt || (f == .e4m3 && !sat) }⟩
  | .fin neg m e =>
    if f.isInt then
      let (lo, hi) := f.range
      let (x, fl) := toIntClamp rm lo hi neg m e
      ⟨(x % (2 ^ f.width : Nat)).toNat, fl⟩
    else f.roundFin rm sat flush neg m e

/-- A subnormal input is a zero of its sign where FLUSH is 1 (R110). -/
def flushIn (f : Fmt) (flush : Bool) (v : FVal) : FVal :=
  match v with
  | .fin neg m e => if flush && ltPow2 m e f.emin then .fin neg 0 e else v
  | _ => v

/-! ### Exact arithmetic -/

/-- An exact result and the flags that its special cases raise; `m` may carry a sticky last bit far below any rounding
position, standing for the rest of an infinite expansion. -/
structure Exact where
  v  : FVal
  nv : Bool
  dz : Bool
  deriving DecidableEq, Repr

/-- The canonical NaN as a result. -/
def Exact.nan (nv : Bool) : Exact := ⟨.nan false false, nv, false⟩

/-- A result without flags. -/
def Exact.of (v : FVal) : Exact := ⟨v, false, false⟩

/-- The exact sum of two finite values; an exact zero of opposite signs is +0, under RDN -0 (R108). -/
def addFin (rm : Rm) (n1 : Bool) (m1 : Nat) (e1 : Int) (n2 : Bool) (m2 : Nat) (e2 : Int) : FVal :=
  let e := min e1 e2
  let a := m1 * pow2 (e1 - e)
  let b := m2 * pow2 (e2 - e)
  if n1 = n2 then .fin n1 (a + b) e
  else if b < a then .fin n1 (a - b) e
  else if a < b then .fin n2 (b - a) e
  else .fin (rm == .rdn) 0 e

/-- x + y (R118). -/
def exactAdd (rm : Rm) (x y : FVal) : Exact :=
  match x, y with
  | .nan a _, .nan b _ => .nan (a || b)
  | .nan a _, _ => .nan a
  | _, .nan b _ => .nan b
  | .inf a, .inf b => if a = b then .of (.inf a) else .nan true
  | .inf a, _ => .of (.inf a)
  | _, .inf b => .of (.inf b)
  | .fin n1 m1 e1, .fin n2 m2 e2 => .of (addFin rm n1 m1 e1 n2 m2 e2)

/-- x * y (R118). -/
def exactMul (x y : FVal) : Exact :=
  match x, y with
  | .nan a _, .nan b _ => .nan (a || b)
  | .nan a _, _ => .nan a
  | _, .nan b _ => .nan b
  | .inf a, .inf b => .of (.inf (a != b))
  | .inf a, .fin b m _ => if m = 0 then .nan true else .of (.inf (a != b))
  | .fin a m _, .inf b => if m = 0 then .nan true else .of (.inf (a != b))
  | .fin a m e, .fin b n f => .of (.fin (a != b) (m * n) (e + f))

/-- x * y + z with one rounding to come (R119): NV for 0 times infinity even beside a quiet NaN. -/
def exactFma (rm : Rm) (x y z : FVal) : Exact :=
  let p := exactMul x y
  let snan := x.isSnan || y.isSnan || z.isSnan
  if p.v.isNan || z.isNan then .nan (p.nv || snan)
  else exactAdd rm p.v z

/-- x / y (R118): the quotient to at least 70 bits with a sticky last bit. -/
def exactDiv (x y : FVal) : Exact :=
  match x, y with
  | .nan a _, .nan b _ => .nan (a || b)
  | .nan a _, _ => .nan a
  | _, .nan b _ => .nan b
  | .inf _, .inf _ => .nan true
  | .inf a, .fin b _ _ => .of (.inf (a != b))
  | .fin a _ e, .inf b => .of (.fin (a != b) 0 e)
  | .fin a m e, .fin b n f =>
    if n = 0 then (if m = 0 then .nan true else ⟨.inf (a != b), false, true⟩)
    else
      let k := 72 + Nat.log2 n
      let num := m * 2 ^ k
      .of (.fin (a != b) (2 * (num / n) + (if num % n = 0 then 0 else 1)) (e - f - k - 1))

/-- Digit by digit square root: `bit` falls by quarters from the highest power of 4 (structural on fuel). -/
def isqrtLoop : Nat → Nat → Nat → Nat → Nat
  | 0, _, res, _ => res
  | fuel + 1, x, res, bit =>
    if res + bit ≤ x then isqrtLoop fuel (x - (res + bit)) (res / 2 + bit) (bit / 4)
    else isqrtLoop fuel x (res / 2) (bit / 4)

/-- The integer part of the square root. -/
def isqrt (x : Nat) : Nat :=
  let n := Nat.log2 x / 2
  isqrtLoop (n + 1) x 0 (4 ^ n)

/-- The square root of m * 2^e to at least 70 bits with a sticky last bit. -/
def sqrtFin (m : Nat) (e : Int) : Nat × Int :=
  if m = 0 then (0, e)
  else
    let k : Nat := 144 + (if (e % 2) = 0 then 0 else 1)
    let x := m * 2 ^ k
    let r := isqrt x
    (2 * r + (if r * r = x then 0 else 1), (e - k) / 2 - 1)

/-- The square root (R119). -/
def exactSqrt (x : FVal) : Exact :=
  match x with
  | .nan a _ => .nan a
  | .inf neg => if neg then .nan true else .of (.inf false)
  | .fin neg m e =>
    if m = 0 then .of x
    else if neg then .nan true
    else let (r, f) := sqrtFin m e; .of (.fin false r f)

/-- Order of two values that are not NaNs, -0 equal to +0. -/
def FVal.cmp (x y : FVal) : Ordering :=
  match x, y with
  | .inf a, .inf b => if a = b then .eq else if a then .lt else .gt
  | .inf a, _ => if a then .lt else .gt
  | _, .inf b => if b then .gt else .lt
  | .fin n1 m1 e1, .fin n2 m2 e2 =>
    if m1 = 0 ∧ m2 = 0 then .eq
    else if n1 ≠ n2 then (if m1 = 0 then (if n2 then .gt else .lt) else if n1 then .lt else .gt)
    else if n1 then magCmp m2 e2 m1 e1 else magCmp m1 e1 m2 e2
  | _, _ => .eq

/-- x < y with -0 below +0, for FMIN and FMAX (R120). -/
def FVal.below (x y : FVal) : Bool :=
  match x.cmp y with
  | .lt => true
  | .gt => false
  | .eq => x.neg && !y.neg

/-- Whether a value needs no more than some fraction bits is not asked; its result rounded RNE to `n` fraction bits with
unbounded exponent (R126, R141): significand k, exponent q, and whether it differs. -/
def roundBits (n : Nat) (m : Nat) (e : Int) : Nat × Int × Bool :=
  let q := (Nat.log2 m : Int) + e - n
  let (k, ix) := roundAt .rne false m e q
  (k, q, ix)

/-- The bits to which RCP and the special functions round (R126). -/
def Fmt.shortBits : Fmt → Nat
  | .fp16 => 10
  | .bf16 => 7
  | _ => 12

/-- The last part of R126 and R141: a nonzero exact value y = (-1)^neg * m * 2^e delivered to few bits. -/
def shortResult (f : Fmt) (neg : Bool) (m : Nat) (e : Int) : Rounded :=
  if ltPow2 m e f.emin then ⟨f.signBit neg, { FFlags.none with uf := true, nx := true }⟩
  else
    let (k, q, ix) := roundBits f.shortBits m e
    let ey := (Nat.log2 k : Int) + q
    if f.emax < ey then ⟨f.signBit neg + f.infBits, { FFlags.none with of := true, nx := true }⟩
    else ⟨f.signBit neg + f.magBits k q, { FFlags.none with nx := ix }⟩

end Sys2Proof.Machine
end

