-- ==== Sys2Proof/Machine/Homes.lean ====
section
/-!
DEFINITION. Sys2Proof/Machine/Homes.lean: the action of an access at its home (R86, R156, R157, R168, R172 to R174,
R185 to R191, R215 to R220, R313 to R316), the wait lists and serving them (R156), NDRAIN (R323).
-/
namespace Sys2Proof.Machine

/-! ### Small pieces -/

/-- Set or clear the bits of several words. -/
def State.setFulls (s : State) (f : Bool) : List Nat → State
  | [] => s
  | w :: ws => (s.setFull w f).setFulls f ws

/-- Begin or end the holds of several words. -/
def State.setHelds (s : State) (h : Bool) : List Nat → State
  | [] => s
  | w :: ws => (s.setHeld w h).setHelds h ws

/-- Drop every read-cache line of a cluster (ACQ, Table 9.4). -/
def State.dropLines (s : State) (cluster : Nat) : State :=
  if (s.cluster cluster).lines = [] then s else s.updCluster cluster fun c => { c with lines := [] }

/-- Drop the read-cache lines of a cluster that hold one of some words: a write of one of its threads has been performed there
otherwise than through W, and a later load of the thread must find it (R79). -/
def State.dropAt (s : State) (cluster : Nat) (ws : List Nat) : State :=
  let hit : RcLine → Bool := fun l => ws.any fun w => overlaps l.pa 128 w 8
  if (s.cluster cluster).lines.any hit then s.updCluster cluster fun c => { c with lines := c.lines.filter fun l => !hit l } else s

/-- An acquire of a scope by a slot (Table 9.4): die scope or wider drops the cluster's read cache; a control core has
nothing to drop (R428). -/
def State.acquire (s : State) (tid scope : Nat) : State :=
  if isCtl tid ∨ scope < 2 then s else s.dropLines (clusterOf tid)

/-- The acquire that an access makes after it is performed. -/
def State.acquireOf (s : State) (a : Access) : State :=
  match a.acq with
  | some sc => s.acquire a.tid sc
  | none => s

/-- One performed store or put of a saved thread: NDRAIN of its record, at w0 bits 47-32, goes down (R323). -/
def State.drained (s : State) : List Nat → State
  | [] => s
  | r :: rs =>
    let w := s.word r
    let n := bits w 47 32
    let va := (Table.get Saved.none s.saves r).va
    let s := if n = 0 then s else s.devWord (BitVec.ofNat 12 (bits w 59 48)) va r (w - 0x100000000#64)
    s.drained rs

/-- A value of some bytes as a load writes it (Table 3.11). -/
def extendTo (signed : Bool) (size v : Nat) : Word :=
  if signed ∧ 2 ^ (8 * size - 1) ≤ v then BitVec.ofNat 64 (v + (2 ^ 64 - 2 ^ (8 * size))) else BitVec.ofNat 64 v

/-- The bytes of a load: those already found in Q, W or L, else those at the home. -/
def State.loadNat (s : State) (a : Access) : Nat :=
  natOfBytes ((List.range a.size).map fun i =>
    if a.got.any (·.1 == i) then Table.get 0 a.got i else s.byte (a.pa + i))

/-- The words that an access touches. -/
def Access.words (a : Access) : List Nat := wordsTouched a.pa a.size

/-- The words whose bytes a load must still read at the home. -/
def Access.missing (a : Access) : List Nat :=
  a.words.filter fun w => (List.range 8).any fun i =>
    decide (a.pa ≤ w + i) && decide (w + i < a.pa + a.size) && !a.got.any (·.1 == w + i - a.pa)

/-- What the test of an access's full/empty mode needs, if it has one (R86, R184, R215). -/
def Access.want (a : Access) : Option Want :=
  match a.op with
  | .amo _ _ _ | .cas _ _ _ | .vamo _ _ _ _ => some .full
  | .fwait _ | .lock _ => some .full
  | .fput _ => some .empty
  | .load _ _ | .loadV _ | .store _ =>
    if a.fe = 0 then none else if a.fe = 3 then some .empty else some .full
  | _ => none

/-- The word whose bit a test reads, and the words of a pair. -/
def Access.tested (a : Access) : List Nat :=
  match a.op with
  | .fwait _ | .lock _ => [a.pa]
  | _ => a.words

/-- The condition of a waiting access on the present bits (R156): no word held, and all as needed. -/
def State.ready (s : State) (ws : List Nat) (w : Want) : Bool :=
  ws.all fun x => !s.held x && (match w with
    | .full => s.full x
    | .empty => !s.full x
    | .woken => true)

/-- The outcome of an access at its home. -/
inductive Acted where
  | done (s : State) (touched : List Nat)     -- performed; its thread has completed or holds the grant
  | wait (words : List Nat) (w : Want)        -- joins the wait lists
  | park (words : List Nat) (w : Want)        -- the group re-executes once the list is served (R190, R191)
  | sweep (words : List Nat)                  -- an EMPTY: word by word (R157)
  | help (word : Nat) (owner : Word) (s : State) -- not ready: the owner word read in the same action (R193)
  | phase (p : Word) (s : State) (touched : List Nat) -- a BAR that has arrived and waits for w2 to change
  | trap (cause : Nat) (addr : Word)          -- nothing changed
  deriving Repr

/-- A register result of a performed access, then the thread goes on (R152, R223). -/
def State.answer (s : State) (a : Access) (rd : Reg) (v : Word) : State :=
  (((s.wr a.tid rd v).count a.region false a.size a.tid).acquireOf a).complete a.tid

/-- A performed access without a register result. -/
def State.finish (s : State) (a : Access) : State := (s.acquireOf a).complete a.tid

/-- Writes of a direct access to a home sealed for its context raise cause 13 and are counted (R240, R241). -/
def State.sealedFor (s : State) (a : Access) : Bool := (s.seal? a.pa a.ctx).isSome

/-- A whole-word write by the device itself in an access's action: the words are written and set full. -/
def State.setWordFull (s : State) (a : Nat) (v : Word) : State := (s.setWord a v).setFull a true

/-! ### Barriers (R172 to R174, R293) -/

/-- The phase that a recorded wait of a slot on a barrier has to see pass (R174). -/
def Thread.barPhase (t : Thread) (va : Word) : Option Word :=
  match t.barWait with
  | some (x, p) => if x = va then some p else none
  | none => none

/-- A recorded wait is over once its BAR completes. -/
def Thread.barDone (va : Word) (t : Thread) : Thread := if (t.barPhase va).isSome then { t with barWait := none } else t

/-- The barrier advances when both counts are zero: the phase goes up and the counts reload. -/
def State.barrierAdvance (s : State) (c : Nat) : State :=
  let w3 := s.word (c + 24)
  ((s.setWord (c + 16) (s.word (c + 16) + 1)).setWord c (BitVec.ofNat 64 (bits w3 23 0))).setWord (c + 8)
    (BitVec.ofNat 64 (bits w3 63 40))

/-- The threads parked in the second half of a BAR on the barrier at a home address. -/
def State.barWaiters (s : State) (c : Nat) : List (Nat × Access × Word) :=
  s.threads.filterMap fun e =>
    match e.2.park with
    | some p => match p.why with
      | .barWait a ph => if a.pa = c then some (e.1, a, ph) else none
      | _ => none
    | none => none

/-- Wake the waiters: each writes its own p, acquires, and completes; a recorded wait is over (R174). -/
def State.barWake (s : State) : List (Nat × Access × Word) → State
  | [] => s
  | (tid, a, ph) :: rest =>
    let s := match a.op with
      | .bar rd => (((s.wr tid rd ph).acquireOf a).complete tid).upd tid (Thread.barDone a.va)
      | _ => s
    s.barWake rest

/-- A byte credit of a copy unit or stack engine (R293). -/
def State.barrierCredit (s : State) (c n : Nat) : State :=
  let w1 := (s.word (c + 8)).toNat
  if w1 = 0 then s
  else
    let left := w1 - min n w1
    let s := s.setWord (c + 8) (BitVec.ofNat 64 left)
    if left = 0 ∧ s.word c = 0 then
      let s := s.barrierAdvance c
      s.barWake (s.barWaiters c)
    else s

/-! ### The AMO family (Table 8.4) -/

/-- The new value of AMO operation `op` (op6 16-24): x the old value, y the operand. -/
def amoValue (op : Nat) (x y : Word) : Word :=
  match op with
  | 16 => x + y
  | 17 => x &&& y
  | 18 => x ||| y
  | 19 => x ^^^ y
  | 20 => if x.toInt ≤ y.toInt then x else y
  | 21 => if x.toInt ≤ y.toInt then y else x
  | 22 => if x.toNat ≤ y.toNat then x else y
  | 23 => if x.toNat ≤ y.toNat then y else x
  | _ => y

/-- The new pair of VAMO (R221): `sel` 0 or, 1 and, 2 xor, 3 add over lanes of `w` bits. -/
def vamoValue (sel w : Nat) (x y : Nat) : Nat :=
  match sel with
  | 0 => x ||| y
  | 1 => x &&& y
  | 2 => x ^^^ y
  | _ => (List.range (128 / w)).foldl
      (fun acc i => acc + ((x / 2 ^ (w * i) + y / 2 ^ (w * i)) % 2 ^ w) * 2 ^ (w * i)) 0

/-! ### Queue objects (R183, R190, R191) -/

/-- CAP of a queue whose header lies at c. -/
def State.queueCap (s : State) (c : Nat) : Nat := bits (s.word (c + 16)) 31 0

/-- Entries reserved or pushed and not popped. -/
def State.queueUsed (s : State) (c : Nat) : Nat := (s.word (c + 8) - s.word c).toNat

/-- The address of entry `i` of a queue of `cap` entries (R183). -/
def Access.entryVa (a : Access) (i cap : Nat) : Word := a.va + BitVec.ofNat 64 (32 + 16 * (i % cap))

/-- Whether the `n` bytes of a queue object lie whole in the storage of its header, through a local window or page by page. -/
def State.oneHome (s : State) (a : Access) (n : Nat) : Bool :=
  if a.va.toNat < 2 ^ 32 then
    match localPa a.tid (a.va.toNat + n - 1) with
    | some p => sealKey p == sealKey a.pa
    | none => false
  else
    (pagePieces a.va.toNat n).all fun p =>
      match s.xlate a.tid (s.thread a.tid).ctx p.1 with
      | .leaf e span =>
        let x := leafPa e + p.1 % span
        storageOf x == storageOf a.pa && sealKey x == sealKey a.pa
      | _ => false

/-- Where entry `i` of a queue lies, or the trap of an access to it: a CAP outside 1 to 65,536 or an object that does not lie
in one TCM, scratchpad or shared SRAM raises cause 7, pages of header and entry that disagree cause 6 (R183, R214). -/
def State.queueEntry (s : State) (a : Access) (i : Nat) : Check :=
  let t := s.thread a.tid
  let cap := s.queueCap a.pa
  let here (x : Storage) : Bool := x == .tcm || x == .spad || x == .sram
  if cap = 0 ∨ 65536 < cap ∨ !here (storageOf a.pa) then .trap 7 a.va
  else
    let va := a.va + BitVec.ofNat 64 (32 + 16 * (i % cap))
    match s.check a.tid t.ctx t.tsr.priv a.va 32 .rmw, s.check a.tid t.ctx t.tsr.priv va 16 .rmw with
    | .ok x, .ok y =>
      if !x.agrees y then .trap 6 a.va
      else if sealKey y.pa ≠ sealKey a.pa ∨ !s.oneHome a (32 + 16 * cap) then .trap 7 a.va
      else .ok { y with pa := if va.toNat < 2 ^ 32 then a.pa + (32 + 16 * (i % cap)) else y.pa }
    | _, .trap c x => .trap c x
    | .trap c x, _ => .trap c x

/-! ### Reduction cells (R315, R316) -/

/-- EMAX of a cell word, signed. -/
def cellEmax (w0 : Word) : Int := (w0.extractLsb' 0 16).toInt

/-- One contribution to the cell at a home address: NaN, infinity or magnitude at or above 2^(EMAX+1) sets OVERRANGE; a
full COUNT sets OVERFLOW; else ACC takes the contribution rounded to units of q. -/
def State.contribute (s : State) (c : Nat) (x : FVal) : State :=
  let w0 := s.word c
  let count := bits w0 63 32
  let emax := cellEmax w0
  let full? := match x with
    | .fin _ m e => decide (m ≠ 0) && !ltPow2 m e (emax + 1)
    | _ => true
  if full? then s.setWord c (w0 ||| 0x10000#64)
  else if count = 2 ^ 19 - 1 then s.setWord c (w0 ||| 0x20000#64)
  else
    let q : Int := match x with
      | .fin neg m e => signedOf neg (roundUnits .rne neg m (e - (emax - 107)))
      | _ => 0
    let acc : Nat := (s.word (c + 16)).toNat + (s.word (c + 24)).toNat * 2 ^ 64
    let acc' : Nat := (((acc : Int) + q) % ((2 ^ 128 : Nat) : Int)).toNat
    ((s.setWord (c + 16) (BitVec.ofNat 64 acc')).setWord (c + 24) (BitVec.ofNat 64 (acc' / 2 ^ 64))).setWord c
      (w0 + 0x100000000#64)

/-- SREDF's result (R316): ACC times q rounded RNE to binary64, the canonical NaN when a flag is set. -/
def State.cellValue (s : State) (c : Nat) : Word :=
  let w0 := s.word c
  if w0.getLsbD 16 ∨ w0.getLsbD 17 then 0x7FF8000000000000#64
  else
    let raw : Nat := (s.word (c + 16)).toNat + (s.word (c + 24)).toNat * 2 ^ 64
    let acc : Int := if raw < 2 ^ 127 then (raw : Int) else (raw : Int) - ((2 ^ 128 : Nat) : Int)
    BitVec.ofNat 64 (encodeRound .fp64 .rne false false (.fin (decide (acc < 0)) acc.natAbs (cellEmax w0 - 107))).bits

/-! ### The action -/

/-- The reason for which policy refuses an access that has reached its home: its region is OPEN no more, or holds its bytes no more
(R403, R411). -/
def State.shut (s : State) (a : Access) : Option Nat :=
  match a.region with
  | none => none
  | some r =>
    let x := s.region r
    if !covered x.ranges a.pa (a.pa + a.size) x.ranges.length then some 4 else if x.state ≠ .opened then some 2 else none

/-- What an access that policy admits does when it acts at its home, all at once (R204). Its thread is parked. -/
def State.actOn (s : State) (a : Access) : Acted :=
  let ws := a.words
  match a.op with
  | .load signed rd =>
    if a.fe ≠ 0 ∧ (ws.any s.uncorrectable) then .trap 14 a.va
    else if a.missing.any s.uncorrectable then .trap 14 a.va
    else if a.fe ≠ 0 ∧ !s.ready ws .full then .wait ws .full
    else
      let v := extendTo signed a.size (s.loadNat a)
      let s := if a.fe = 2 then s.setFulls false ws else s
      .done (s.answer a rd v) (if a.fe = 2 then ws else [])
  | .loadV vd =>
    if a.fe ≠ 0 ∧ (ws.any s.uncorrectable) then .trap 14 a.va
    else if a.missing.any s.uncorrectable then .trap 14 a.va
    else if a.fe ≠ 0 ∧ !s.ready ws .full then .wait ws .full
    else
      let v := BitVec.ofNat 128 (s.loadNat a)
      let s := if a.fe = 2 then s.setFulls false ws else s
      .done ((((s.wrV a.tid vd v).count a.region false a.size a.tid).acquireOf a).complete a.tid)
        (if a.fe = 2 then ws else [])
  | .store value =>
    let bs := (bytesOf value a.size).map some
    if s.sealedFor a then .trap 13 a.va
    else if ws.any fun w => s.uncorrectable w && (a.fe != 0 || !coversWord a.pa w bs) then .trap 14 a.va
    else if a.fe = 1 ∧ !s.ready ws .full then .wait ws .full
    else if a.fe = 3 ∧ !s.ready ws .empty then .wait ws .empty
    else
      let (s, ok) := s.writeHome false a.ctx a.va a.pa bs
      let s := if a.fe = 3 ∧ ok then s.setFulls true ws else s
      .done (s.finish a) (if ok then ws else [])
  | .amo _ _ _ | .cas _ _ _ | .vamo _ _ _ _ =>
    if s.sealedFor a then .trap 13 a.va
    else if ws.any s.uncorrectable then .trap 14 a.va
    else if !s.ready ws .full then .wait ws .full
    else
      let old := s.readNat a.pa a.size
      let s := ((s.setFulls false ws).setHelds true ws).count a.region false a.size a.tid
      .done (s.upd a.tid fun t => { t with park := t.park.map fun p => { p with why := .granted a old } }) []
  | .finit owner =>
    if s.sealedFor a then .trap 13 a.va
    else if s.guarded a.pa 16 then .done ((s.addLoss a.pa a.ctx a.va).finish a) []
    else
      let s := ((s.settleBits false a.pa (List.replicate 16 (some 0)) [a.pa, a.pa + 8]).setWord a.pa 0).setFull a.pa false
      .done ((s.setWordFull (a.pa + 8) owner).finish a) [a.pa, a.pa + 8]
  | .fwait rd =>
    if s.uncorrectable a.pa then .trap 14 a.va
    else if s.ready [a.pa] .full then
      .done ((((s.wr a.tid rd (s.word a.pa)).count a.region false 8 a.tid).acquireOf a).complete a.tid) []
    else if s.held a.pa then .wait [a.pa] .full
    else if s.uncorrectable (a.pa + 8) then .trap 14 a.va
    else .help a.pa (s.word (a.pa + 8)) s
  | .fput value =>
    if s.sealedFor a then .trap 13 a.va
    else if s.uncorrectable a.pa then .trap 14 a.va
    else if !s.ready [a.pa] .empty then .wait [a.pa] .empty
    else if s.guarded a.pa 8 then .done ((s.addLoss a.pa a.ctx a.va).finish a) []
    else .done ((s.setWordFull a.pa value).finish a) [a.pa]
  | .lock rd =>
    if s.sealedFor a then .trap 13 a.va
    else if s.uncorrectable a.pa ∨ s.uncorrectable (a.pa + 8) then .trap 14 a.va
    else if s.ready [a.pa] .full ∧ s.guarded a.pa 16 then
      .done ((((s.addLoss a.pa a.ctx a.va).wr a.tid rd (s.word a.pa)).acquireOf a).complete a.tid) []
    else if s.ready [a.pa] .full then
      let v := s.word a.pa
      let s := (s.setFull a.pa false).setWord (a.pa + 8) (s.thread a.tid).taskh
      .done (((s.wr a.tid rd v).acquireOf a).complete a.tid) [a.pa]
    else if s.held a.pa then .wait [a.pa] .full
    else .help a.pa (s.word (a.pa + 8)) s
  | .unlock value =>
    if s.sealedFor a then .trap 13 a.va
    else if s.uncorrectable a.pa ∨ s.uncorrectable (a.pa + 8) then .trap 14 a.va
    else if s.full a.pa then .done (s.finish a) []
    else if s.guarded a.pa 16 then .done ((s.addLoss a.pa a.ctx a.va).finish a) []
    else .done (((s.setWordFull a.pa value).setWord (a.pa + 8) 0).finish a) [a.pa]
  | .qpush value =>
    if s.sealedFor a then .trap 13 a.va
    else if s.anyBad a.pa 32 then .trap 14 a.va
    else
      let t := s.word (a.pa + 8)
      match s.queueEntry a t.toNat with
      | .trap c x => .trap c x
      | .ok y =>
        let e := y.pa
        if s.queueCap a.pa ≤ s.queueUsed a.pa then .park [a.pa + 8] .woken
        else if s.uncorrectable e ∨ s.uncorrectable (e + 8) then .trap 14 (a.entryVa t.toNat (s.queueCap a.pa))
        else .done ((((s.setWordFull e value).setWord (e + 8) 0).setWord (a.pa + 8) (t + 1)).finish a) [a.pa, e]
  | .qres owner rd =>
    if s.sealedFor a then .trap 13 a.va
    else if s.anyBad a.pa 32 then .trap 14 a.va
    else
      let t := s.word (a.pa + 8)
      match s.queueEntry a t.toNat with
      | .trap c x => .trap c x
      | .ok y =>
        let e := y.pa
        if s.queueCap a.pa ≤ s.queueUsed a.pa then .park [a.pa + 8] .woken
        else if s.uncorrectable e ∨ s.uncorrectable (e + 8) then .trap 14 (a.entryVa t.toNat (s.queueCap a.pa))
        else
          let s := (((s.setWord e 0).setFull e false).setWord (e + 8) (owner.getD (s.thread a.tid).taskh)).setWord (a.pa + 8) (t + 1)
          let addr := a.va + BitVec.ofNat 64 (32 + 16 * (t.toNat % s.queueCap a.pa))
          .done (((s.wr a.tid rd addr).acquireOf a).complete a.tid) [a.pa, e]
  | .qpop rd =>
    let h := s.word a.pa
    if s.sealedFor a then .trap 13 a.va
    else if s.anyBad a.pa 32 then .trap 14 a.va
    else
      match s.queueEntry a h.toNat with
      | .trap c x => .trap c x
      | .ok y =>
        let e := y.pa
        if h = s.word (a.pa + 8) then .park [a.pa] .woken
        else if s.uncorrectable e ∨ s.uncorrectable (e + 8) then .trap 14 (a.entryVa h.toNat (s.queueCap a.pa))
        else if s.ready [e] .full then
          let v := s.word e
          let s := (s.setFull e false).setWord a.pa (h + 1)
          .done ((((s.wr a.tid rd v).count a.region false 8 a.tid).acquireOf a).complete a.tid) [a.pa + 8, e]
        else if s.held e then .park [e] .full
        else .help e (s.word (e + 8)) s
  | .joini count packet =>
    if s.sealedFor a then .trap 13 a.va
    else if s.guarded a.pa 16 then .done ((s.addLoss a.pa a.ctx a.va).finish a) []
    else
      let s := s.settleBits false a.pa (List.replicate 16 (some 0)) [a.pa, a.pa + 8]
      .done (((s.setWordFull a.pa count).setWordFull (a.pa + 8) packet).finish a) [a.pa, a.pa + 8]
  | .bari arrivals bytes =>
    if s.sealedFor a then .trap 13 a.va
    else if s.guarded a.pa 32 then .done ((s.addLoss a.pa a.ctx a.va).finish a) []
    else
      let n := bits arrivals 23 0
      let m := bits bytes 23 0
      let cells := [a.pa, a.pa + 8, a.pa + 16, a.pa + 24]
      let s := s.settleBits false a.pa (List.replicate 32 (some 0)) cells
      let waiters := s.barWaiters a.pa
      let s := (((s.setWordFull a.pa (BitVec.ofNat 64 n)).setWordFull (a.pa + 8) (BitVec.ofNat 64 m)).setWordFull
        (a.pa + 16) 0).setWordFull (a.pa + 24) (BitVec.ofNat 64 (m * 2 ^ 40 + n))
      .done ((s.barWake waiters).finish a) cells
  | .bar rd =>
    if s.sealedFor a then .trap 13 a.va
    else if s.anyBad a.pa 32 then .trap 14 a.va
    else
      match (s.thread a.tid).barPhase a.va with
      | some p =>
        if s.word (a.pa + 16) ≠ p then
          .done ((((s.wr a.tid rd p).acquireOf a).complete a.tid).upd a.tid (Thread.barDone a.va)) []
        else .phase p s []
      | none =>
        let p := s.word (a.pa + 16)
        if s.word a.pa = 0 then .phase p s []
        else if s.guarded a.pa 32 then .phase p (s.addLoss a.pa a.ctx a.va) []
        else
          let s := s.setWord a.pa (s.word a.pa - 1)
          if s.word a.pa = 0 ∧ s.word (a.pa + 8) = 0 then
            let waiters := s.barWaiters a.pa
            let s := (s.barrierAdvance a.pa).barWake waiters
            .done (((s.wr a.tid rd p).acquireOf a).complete a.tid) []
          else .phase p s []
  | .empty n =>
    let ws := wordsTouched a.pa (8 * n)
    if s.sealedFor a then .trap 13 a.va
    else if ws.any s.uncorrectable then .trap 14 a.va
    else .sweep ws
  | .sredi v =>
    if s.sealedFor a then .trap 13 a.va
    else if s.guarded a.pa 32 then .done ((s.addLoss a.pa a.ctx a.va).finish a) []
    else
      let e := (v.extractLsb' 0 16).toInt
      let e := if e < -1074 then -1074 else if 1024 < e then 1024 else e
      let cells := [a.pa, a.pa + 8, a.pa + 16, a.pa + 24]
      let s := s.settleBits false a.pa (List.replicate 32 (some 0)) cells
      let s := (((s.setWordFull a.pa (BitVec.ofNat 64 (BitVec.ofInt 16 e).toNat)).setWordFull (a.pa + 8) 0).setWordFull
        (a.pa + 16) 0).setWordFull (a.pa + 24) 0
      .done (s.finish a) cells
  | .sredf rd =>
    if s.anyBad a.pa 32 then .trap 14 a.va
    else
      let v := s.cellValue a.pa
      .done ((((s.wr a.tid rd v).count a.region false 32 a.tid).acquireOf a).complete a.tid) []
  | .device _ _ _ => .done s []

/-- What an access does when it acts at its home. -/
def State.act (s : State) (a : Access) : Acted := if (s.shut a).isSome then .trap 17 a.va else s.actOn a

/-! ### Wait lists (R156) -/

/-- A waiter concerns one of the words. -/
def Waiter.on (w : Waiter) (ws : List Nat) : Bool := w.words.any ws.contains

/-- Split at the first waiter on one of the words that can be performed. -/
def State.firstReady (s : State) (ws : List Nat) : List Waiter → Option (Waiter × List Waiter)
  | [] => none
  | w :: rest =>
    if w.on ws && s.ready w.words w.want then some (w, rest)
    else (s.firstReady ws rest).map fun x => (x.1, w :: x.2)

/-- A waiting decrement comes to its turn: the count is read, the word is empty and held (R169, R215). One whose word cannot be
corrected is not performed: its party's supervisor is told. -/
def State.grantJoin (s : State) (n w : Nat) : State :=
  if s.uncorrectable w then
    match s.joins.find? (·.id == n) with
    | some j =>
      (({ s with joins := s.joins.filter (·.id != n) }).noteBad w 8).tellSup j.die 9 j.ctr.addr 14 0 0
    | none => s
  else
    let count := s.word w
    let s := (s.setFull w false).setHeld w true
    { s with joins := s.joins.map fun j => if j.id = n then { j with stage := .granted count w } else j }

/-- COUNT, HKIND and HOME of Table 9.7, and the first lost address, of the seal that covers a home. -/
def State.sealInfo (s : State) (pa : Nat) (ctx : BitVec 12) : Word × Nat :=
  match s.seal? pa ctx with
  | some x => (x.addr, x.count * 2 ^ 32 + sealKey pa)
  | none => (0, 0)

/-- An access that its home refuses traps at its group. A direct write to a sealed home is counted there and takes cause
13 with the layout of Table 9.7 (R240, R241). -/
def State.accessTrap (s : State) (a : Access) (cause : Nat) (addr : Word) : State :=
  if cause = 13 then
    let s := s.addLoss a.pa a.ctx a.va
    let (sa, info) := s.sealInfo a.pa a.ctx
    s.trapOf a.tid 13 sa info
  else if cause = 17 then s.trapOf a.tid 17 addr (policyInfo ((s.shut a).getD 2, a.region.getD 0))
  else (if cause = 14 then s.noteBad a.pa a.size else s).trapOf a.tid cause addr 0

/-- Serve the lists of some words: perform the earliest waiter that can be, then look again, until none can be. -/
def State.serve (s : State) : Nat → List Nat → State
  | 0, _ => s
  | fuel + 1, ws =>
    match s.firstReady ws s.waits with
    | none => s
    | some (w, rest) =>
      let s := { s with waits := rest }
      match w.act with
      | .again tid => (s.wake tid).serve fuel ws
      | .decrement n => (s.grantJoin n ((w.words[0]?).getD 0)).serve fuel ws
      | .perform a =>
        match s.act a with
        | .done s touched => (s.dropAt (clusterOf a.tid) touched).serve fuel (ws ++ touched)
        | .trap c addr => (s.accessTrap a c addr).serve fuel ws
        | _ => s.serve fuel ws

/-- Serve the lists of some words as far as it goes. -/
def State.serveAll (s : State) (ws : List Nat) : State := if ws = [] then s else s.serve s.waits.length ws

/-- EMPTY word by word, in ascending order: each word is one action, and its list is served before the next (R157). A word of a
protected range is not changed (R402). -/
def State.emptyWords (s : State) (a : Access) : List Nat → State
  | [] => s
  | w :: ws =>
    let s := if s.guarded w 8 then s.addLoss w a.ctx (a.va + BitVec.ofNat 64 (w - a.pa))
      else (s.setFull w false).serveAll [w]
    s.emptyWords a ws

/-- Join the tails of the lists of some words (R156). -/
def State.enlist (s : State) (w : Waiter) : State := { s with waits := s.waits ++ [w] }

/-- Take a slot's waiting access out of every list (R219, Table 13.6). -/
def State.withdraw (s : State) (tid : Nat) : State :=
  { s with waits := s.waits.filter fun w => match w.act with
      | .perform a => a.tid != tid
      | .again t => t != tid
      | .decrement _ => true }

/-- The put of a granted take at its home (R215): performed whole or lost; either way the hold ends and the list is
served. -/
def State.performPut (s : State) (p : Put) : State :=
  let ws := wordsTouched p.pa (8 * p.words.length)
  let bs := (p.words.flatMap fun w => bytesOf w.toNat 8).map some
  let (s, ok) := s.writeHome false p.ctx p.va p.pa bs
  let s := if ok then s.setFulls true ws else s
  ((s.setHelds false ws).drained p.saved.toList).serveAll ws

/-- A buffered store performed at its home, or lost there (R224, WL). -/
def State.performStore (s : State) (e : Store) : State :=
  let (s, ok) := s.writeHome false e.ctx e.va e.pa e.bytes
  let s := s.drained e.saved
  if ok then s.serveAll (wordsWritten e.pa e.bytes) else s

/-- An engine write at its home (EW, R208, R234): sets each written word full and serves its list. -/
def State.engineWrite (s : State) (ctx : BitVec 12) (va : Word) (pa : Nat) (bs : List (Option Byte)) : State × Bool :=
  let (s, ok) := s.writeHome true ctx va pa bs
  (if ok then s.serveAll (wordsWritten pa bs) else s, ok)

/-- The contributions of a posted update at the cell's home (PU, R317), or its loss. -/
def State.performUpdate (s : State) (u : Update) : State :=
  if (s.seal? u.pa u.ctx).isSome ∨ s.anyBad u.pa 32 ∨ s.guarded u.pa 32 then
    (s.addLoss u.pa u.ctx u.va).drained u.saved.toList
  else
    (u.xs.foldl (fun s x => s.contribute u.pa (decodeF (fmtOfCode u.fmt) x)) s).drained u.saved.toList

end Sys2Proof.Machine
end

