-- ==== Sys2Proof/Machine/Elements.lean ====
section
/-!
DEFINITION. Sys2Proof/Machine/Elements.lean: packed elements and MX blocks (R103 to R106), and conversions between them (R113
to R115, R270, R281, R311).
-/
namespace Sys2Proof.Machine

/-! ### Packing (R106) -/

/-- Element `k` of width `w` bits of packed bytes given as a little-endian number. -/
def elemAt (w n k : Nat) : Nat := n / 2 ^ (w * k) % 2 ^ w

/-- The first `n` elements of packed bytes. -/
def unpack (w n : Nat) (bs : List Byte) : List Nat :=
  let x := natOfBytes bs
  (List.range n).map (elemAt w x)

/-- Elements as a little-endian number. -/
def packNat (w : Nat) : List Nat → Nat
  | [] => 0
  | x :: xs => x % 2 ^ w + 2 ^ w * packNat w xs

/-- Elements packed into bytes. -/
def packElems (w : Nat) (xs : List Nat) : List Byte := bytesOf (packNat w xs) (w * xs.length / 8)

/-- Split a list into pieces of `n`; `fuel` bounds their number. -/
def chunksOf {α : Type} (n : Nat) : Nat → List α → List (List α)
  | 0, _ => []
  | fuel + 1, xs => if xs.isEmpty then [] else xs.take n :: chunksOf n fuel (xs.drop n)

/-! ### Element values (R100 to R104) -/

/-- Bytes of `n` elements of a format code; with MX the scale bytes are among them (R105, R256). -/
def bytesFor (code n : Nat) : Nat := (fmtOfCode code).width * n / 8 + (if isMx code then n / 32 else 0)

/-- The bytes of the smallest piece of a format: an element, a group of four 6-bit elements, or an MX block (R277). -/
def unitBytes (code : Nat) : Nat :=
  if isMx code then bytesFor code 32
  else match (fmtOfCode code).width with
    | 6 => 3
    | w => (w + 7) / 8

/-- The elements of that piece. -/
def unitElems (code : Nat) : Nat :=
  if isMx code then 32
  else match (fmtOfCode code).width with
    | 6 => 4
    | 4 => 2
    | _ => 1

/-- Multiply a value by a power of two. -/
def FVal.scale (x : FVal) (k : Int) : FVal :=
  match x with
  | .fin neg m e => .fin neg m (e + k)
  | y => y

/-- The value of an element, without a block's scale; an MX-INT8 element has the factor 2^-6. -/
def elemVal (code b : Nat) : FVal :=
  let x := decodeF (fmtOfCode code) b
  if code = 19 then x.scale (-6) else x

/-- The value of an element of a block with a scale byte. -/
def scaled (code scale b : Nat) : FVal :=
  if scale = 255 then .nan false false else (elemVal code b).scale ((scale : Int) - 127)

/-- The elements and scale bytes of `n` elements in memory order: blocks of 32, each followed by its scale (R105); 127 stands
for the scale of a format without one. -/
def readPlain (code n : Nat) (bs : List Byte) : List Nat × List Nat :=
  let w := (fmtOfCode code).width
  if isMx code then
    let blocks := chunksOf (4 * w + 1) (n / 32) bs
    (blocks.flatMap fun b => unpack w 32 (b.take (4 * w)), blocks.map fun b => ((b[4 * w]?).getD 0).toNat)
  else (unpack w n bs, List.replicate ((n + 31) / 32) 127)

/-- The same for a tile row in a layout (R256). -/
def readRow (code layout n : Nat) (bs : List Byte) : List Nat × List Nat :=
  let w := (fmtOfCode code).width
  if isMx code ∧ layout = 1 then (unpack w n bs, (bs.drop (w * n / 8)).map (·.toNat))
  else readPlain code n bs

/-- Elements and scales as bytes in memory order. -/
def writePlain (code : Nat) (xs scales : List Nat) : List Byte :=
  let w := (fmtOfCode code).width
  if isMx code then
    (List.zipWith (fun b sc => packElems w b ++ [BitVec.ofNat 8 sc]) (chunksOf 32 (xs.length / 32) xs) scales).flatten
  else packElems w xs

/-- Elements and scales as a tile row in a layout. -/
def writeRow (code layout : Nat) (xs scales : List Nat) : List Byte :=
  if isMx code ∧ layout = 1 then packElems (fmtOfCode code).width xs ++ scales.map (BitVec.ofNat 8) else writePlain code xs scales

/-! ### Conversion -/

/-- Convert a value to an element of a format code (R113, R115). -/
def toElem (code : Nat) (rm : Rm) (sat : Bool) (x : FVal) : Nat :=
  (encodeRound (fmtOfCode code) rm sat false (if code = 19 then x.scale 6 else x)).bits

/-- An upper bound of floor(log2 |x|) is exact: the position of the leading bit of a finite value that is not 0. -/
def FVal.log2 (x : FVal) : Int :=
  match x with
  | .fin _ m e => (Nat.log2 m : Int) + e
  | _ => 0

/-- Clamp to -127 and 127. -/
def clamp127 (x : Int) : Int := max (-127) (min 127 x)

/-- The exponent g of Table 10.10. -/
def expG (code : Nat) : Int :=
  match code with
  | 5 | 14 => 8
  | 6 | 15 => 15
  | 7 | 16 => 4
  | 8 | 17 | 9 | 18 => 2
  | 10 => 6
  | 11 => 7
  | 12 => 2
  | 13 => 3
  | _ => 0

/-- The larger magnitude of two, NaN ignored. -/
def FVal.maxMag (x y : FVal) : FVal :=
  match x, y with
  | .nan _ _, _ => y
  | _, .nan _ _ => x
  | .inf _, _ => .inf false
  | _, .inf _ => .inf false
  | .fin _ m e, .fin _ n f => if magCmp m e n f = .lt then .fin false n f else .fin false m e

/-- The largest magnitude of some values, NaN ignored; +0 of none. -/
def maxMag (xs : List FVal) : FVal := xs.foldl FVal.maxMag (.fin false 0 0)

/-- The MX exponent X of a block of values (R270). -/
def mxExp (code : Nat) (xs : List FVal) : Int :=
  match maxMag xs with
  | .fin _ 0 _ => -127
  | .inf _ => 127
  | m => clamp127 (m.log2 - expG code)

/-- Quantise a block to an MX format: its scale byte and its elements. -/
def mxBlock (code : Nat) (rm : Rm) (sat : Bool) (xs : List FVal) : List Nat × Nat :=
  let x := mxExp code xs
  (xs.map fun v => toElem code rm sat (v.scale (-x)), (x + 127).toNat)

/-- Quantise values to an MX format, block by block. -/
def toMx (code : Nat) (rm : Rm) (sat : Bool) (xs : List FVal) : List Nat × List Nat :=
  let bs := (chunksOf 32 (xs.length / 32) xs).map (mxBlock code rm sat)
  (bs.flatMap (·.1), bs.map (·.2))

end Sys2Proof.Machine
end

