-- ==== Sys2Proof/Machine/Reservoir.lean ====
section
/-!
DEFINITION. Sys2Proof/Machine/Reservoir.lean: ponds, admission, leaps and their ends (R348 to R368), page 5 ops 1 to 7
and the events that write the reservoir's registers or deliver causes 10 and 11.
-/
namespace Sys2Proof.Machine

/-! ### Ponds (R349, R350) -/

/-- A pond of a die. -/
def State.pond (s : State) (d p : Nat) : Pond := Table.get Pond.zero (s.die d).ponds p

/-- Change a pond. -/
def State.updPond (s : State) (d p : Nat) (f : Pond → Pond) : State :=
  s.updDie d fun x => { x with ponds := Table.set Pond.zero p (f (Table.get Pond.zero x.ponds p)) x.ponds }

/-- R: the units of the admitted reservations. -/
def Pond.reserved (p : Pond) : Nat := (p.admitted.map (·.units)).sum

/-- The headroom H, signed (R350). -/
def Pond.headroom (p : Pond) : Int := (p.cap : Int) - p.fill - p.reserved

/-- The spent units of a reservation (R359). -/
def Resv.used (v : Resv) : Nat := (v.spent + 255) / 256

/-- The units a reservation returns. -/
def Resv.returned (v : Resv) : Nat := v.units - v.used

/-- Whether a request is the one of a slot's adoption depth. -/
def Resv.heldBy (v : Resv) (tid level : Nat) : Bool := v.saved.isNone && v.tid == tid && v.level == level

/-! ### The holder's side -/

/-- Change the LEAPH of a holder at an adoption depth: the slot's own, or the suspended one that an adoption keeps
(R201). -/
def State.updLeap (s : State) (tid level : Nat) (f : LeapH → LeapH) : State :=
  s.upd tid fun t =>
    if level = t.adepth then { t with leaph := f t.leaph }
    else { t with levels := t.levels.modify (t.adepth - 1 - level) fun x => { x with leap := f x.leap } }

/-- The state of a request as its holder will find it: the slot's, a suspended one's, or a saved thread's (R367). -/
def State.setRsv (s : State) (v : Resv) (st : RsvState) : State :=
  match v.saved with
  | none => s.updLeap v.tid v.level fun l => { l with state := st }
  | some r =>
    let x := Table.get Saved.none s.saves r
    let y : Saved := if v.level = x.levels.length then { x with rsv := st }
      else { x with levels := x.levels.modify (x.levels.length - 1 - v.level) fun l => { l with leap := { l.leap with state := st } } }
    { s with saves := Table.set Saved.none r y s.saves }

/-- An engine's run-ahead without the jobs that carry the tag of a leap that is cut (R267). -/
def Engine.cutAhead (tid seq : Nat) (e : Engine) : Engine :=
  { e with ahead := e.ahead.filter fun n =>
      !(e.queue.any fun j => j.id == n && j.tag == some seq && j.owner.tid == tid && j.owner.saved.isNone) }

/-- The same in every engine. -/
def State.cutAhead (s : State) (tid seq : Nat) : State :=
  (s.clusters.map (·.1)).foldl (fun s k => s.updCluster k fun c => { c with engines := c.engines.map (Engine.cutAhead tid seq) }) s

/-- A holder's leap has ended from outside: its trap waits for the next group boundary, or is held with the adoption
frame (R201, R360, R361). -/
def State.owe (s : State) (v : Resv) (cause : Nat) : State :=
  if v.saved.isSome then s
  else
    (s.cutAhead v.tid v.seq).upd v.tid fun t =>
      if v.level = t.adepth then { t with pendTrap := some (cause, v.returned), tsr := { t.tsr with leap := false } }
      else { t with levels := t.levels.modify (t.adepth - 1 - v.level) fun x => { x with held := some (cause, v.returned) } }

/-- A reservation leaves its pond: F rises by the spent units (R359). -/
def State.removeResv (s : State) (d p : Nat) (v : Resv) : State :=
  s.updPond d p fun x => { x with fill := x.fill + v.used, admitted := x.admitted.filter (· != v) }

/-- A reservation ends without a trap: its holder's STATE becomes NONE and TSR.LEAP 0 (R359). -/
def State.endResv (s : State) (d p : Nat) (v : Resv) : State :=
  let s := (s.removeResv d p v).setRsv v .none
  if v.saved.isSome then s
  else s.upd v.tid fun t => if v.level = t.adepth then { t with tsr := { t.tsr with leap := false } } else t

/-- A displacement (R355): an active leap ends with cause 10, another reservation shows DISPLACED. -/
def State.displace (s : State) (d p : Nat) (v : Resv) : State :=
  let s := (s.removeResv d p v).setRsv v (if v.active then .none else .displaced)
  if v.active then s.owe v 10 else s

/-- A slot's request or reservation at a pond. -/
def State.findResv (s : State) (d p tid level : Nat) : Option Resv :=
  match (s.pond d p).admitted.find? (·.heldBy tid level) with
  | some v => some v
  | none => (s.pond d p).waiting.find? (·.heldBy tid level)

/-- Leaps that the admission of a slot's request has cut and that have not yet ended at their threads (R355). -/
def State.cutsLeft (s : State) (tid : Nat) : Bool :=
  let t := s.thread tid
  (s.findResv (dieOf tid) t.leaph.pond tid t.adepth).any fun v => !v.awaits.isEmpty

/-! ### Replies of the pond -/

/-- The status codes of Table 14.7. -/
inductive RsvStatus where
  | ok | refused | busy | nopond | range | none | displaced | full | tripped | waiting | active
  deriving DecidableEq, Repr

/-- The code of a status. -/
def RsvStatus.word : RsvStatus → Word
  | .ok => 0 | .refused => 1 | .busy => 2 | .nopond => 3 | .range => 4 | .none => 5 | .displaced => 6 | .full => 7
  | .tripped => 8 | .waiting => 9 | .active => 10

/-- The answer that a slot waiting for a pond gets (R363, R364): the one already fixed, or by STATE. RSVQ fixes its ticket only
after its pass. -/
def State.pondAnswer (s : State) (tid : Nat) : State :=
  let t := s.thread tid
  match t.park with
  | some ⟨.pond k rd answer, _, _, _⟩ =>
    match answer with
    | some v => (s.wr tid rd v).complete tid
    | none =>
      if k = .rsvq then s
      else match t.leaph.state with
      | .waiting => s
      | .admitted | .active => (s.wr tid rd RsvStatus.ok.word).complete tid
      | .displaced =>
        ((s.updLeap tid t.adepth fun l => { l with state := .none }).wr tid rd RsvStatus.displaced.word).complete tid
      | .none => (s.wr tid rd RsvStatus.none.word).complete tid
  | _ => s

/-- The same once no leap that its request has cut still runs to its boundary (R355). -/
def State.pondReply (s : State) (tid : Nat) : State := if s.cutsLeft tid then s else s.pondAnswer tid

/-- Fix the answer of a slot parked on a pond. -/
def State.fixAnswer (s : State) (tid : Nat) (v : Word) : State :=
  s.upd tid fun t =>
    match t.park with
    | some p =>
      match p.why with
      | .pond k rd _ => { t with park := some { p with why := .pond k rd (some v) } }
      | _ => t
    | none => t

/-- A request is withdrawn: STATE becomes NONE, and a slot waiting for it gets the status. -/
def State.withdrawReq (s : State) (d p : Nat) (v : Resv) (st : RsvStatus) : State :=
  let s := s.updPond d p fun x => { x with waiting := x.waiting.filter (· != v) }
  let s := s.setRsv v .none
  if v.saved.isSome then s
  else (if v.level = (s.thread v.tid).adepth then s.fixAnswer v.tid st.word else s).pondReply v.tid

/-! ### Admission (R353, R354) -/

/-- Put a request into the waiting list: by rank, highest first, then by arrival. -/
def insertReq (v : Resv) : List Resv → List Resv
  | [] => [v]
  | w :: ws => if w.rank < v.rank then v :: w :: ws else w :: insertReq v ws

/-- The admitted reservations of lower rank: lowest rank first, then most recently admitted first. -/
def victimsOf (rank : Nat) (admitted : List Resv) : List Resv :=
  (List.range rank).flatMap fun r => (admitted.filter fun v => v.rank == r).reverse

/-- The shortest run of victims whose returned units, with the headroom, suffice. -/
def takeVictims (need : Int) : List Resv → Int → Option (List Resv)
  | [], g => if need ≤ g then some [] else none
  | v :: vs, g => if need ≤ g then some [] else (takeVictims need vs (g + v.returned)).map (v :: ·)

/-- Displace several reservations. -/
def State.displaceAll (s : State) (d p : Nat) : List Resv → State
  | [] => s
  | v :: vs => (s.displace d p v).displaceAll d p vs

/-- Admit the first request of the list, after displacing victims; its waiting slot is answered once the active ones
among them have taken or hold their traps (R355). -/
def State.admitReq (s : State) (d p : Nat) (w : Resv) (victims : List Resv) : State :=
  let s := s.displaceAll d p victims
  let cut := (victims.filter fun v => v.active && v.saved.isNone && decide (v.level = (s.thread v.tid).adepth)).map (·.tid)
  let s := s.updPond d p fun x =>
    { x with waiting := x.waiting.filter (· != w), admitted := x.admitted ++ [{ w with awaits := cut }] }
  let s := s.setRsv w .admitted
  if w.saved.isSome then s else s.pondReply w.tid

/-- The admission pass. -/
def State.passFrom (s : State) (d p : Nat) : Nat → State
  | 0 => s
  | n + 1 =>
    if (s.die d).tripped then s
    else
      let x := s.pond d p
      match x.waiting with
      | [] => s
      | w :: _ =>
        match takeVictims w.units (victimsOf w.rank x.admitted) x.headroom with
        | none => s
        | some vs => (s.admitReq d p w vs).passFrom d p n

/-- The admission pass over the whole list. -/
def State.pass (s : State) (d p : Nat) : State := s.passFrom d p (s.pond d p).waiting.length

/-- The pass of every pond of a die. -/
def State.passAll (s : State) (d : Nat) : List Nat → State
  | [] => s
  | p :: ps => (s.pass d p).passAll d ps

/-- The ponds of a die that have a state. -/
def State.pondKeys (s : State) (d : Nat) : List Nat := (s.die d).ponds.map (·.1)

/-- A victim's leap has ended at its boundary, or with its thread: the slots whose reply waited for it may go on (R355). -/
def State.cutDone (s : State) (victim : Nat) : State :=
  let d := dieOf victim
  let keys := (s.pondKeys d).filter fun p => (s.pond d p).admitted.any fun v => v.awaits.contains victim
  if keys = [] then s
  else
    let s := keys.foldl (fun s p => s.updPond d p fun x =>
      { x with admitted := x.admitted.map fun v => { v with awaits := v.awaits.filter (· != victim) } }) s
    let waiting := (s.threads.filter fun e => e.2.park.any fun p => match p.why with | .pond _ _ _ => true | _ => false).map (·.1)
    waiting.foldl State.pondReply s

/-! ### Ends from the holder's own side -/

/-- LEND's action for a slot at an adoption depth: the value it writes, and the pond's pass (R365). -/
def State.lend (s : State) (tid : Nat) : State × Word :=
  let t := s.thread tid
  let d := dieOf tid
  let p := t.leaph.pond
  let none' (s : State) : State := s.updLeap tid t.adepth fun l => { l with state := .none }
  match t.leaph.state with
  | .none | .displaced => (none' s, BitVec.allOnes 64)
  | .waiting =>
    match s.findResv d p tid t.adepth with
    | some v => ((none' (s.updPond d p fun x => { x with waiting := x.waiting.filter (· != v) })).pass d p, 0)
    | none => (none' s, 0)
  | .admitted | .active =>
    match s.findResv d p tid t.adepth with
    | some v => ((s.endResv d p v).pass d p, if t.leaph.state = .active then BitVec.ofNat 64 v.used else 0)
    | none => (none' s, 0)

/-- An active leap of a slot ends without a trap and leaves TSR.LOST set (R325). -/
def State.loseLeap (s : State) (tid : Nat) : State :=
  let t := s.thread tid
  if t.leaph.state = .active then
    ((s.lend tid).1).upd tid fun t => { t with tsr := { t.tsr with leap := false, lost := true } }
  else s

/-- Remove every request and reservation of a holder at any depth without a trap (Table 14.8, KILL and migration). -/
def dropHolder (tid : Nat) (p : Pond) : Pond :=
  let mine : Resv → Bool := fun v => v.saved.isNone && v.tid == tid
  { p with
    fill := p.fill + ((p.admitted.filter mine).map (·.used)).sum
    admitted := p.admitted.filter fun v => !mine v
    waiting := p.waiting.filter fun v => !mine v }

/-- The same at every pond of the slot's die, then the passes. -/
def State.dropResvs (s : State) (tid : Nat) : State :=
  let d := dieOf tid
  let keys := (s.pondKeys d).filter fun p =>
    ((s.pond d p).admitted ++ (s.pond d p).waiting).any fun v => v.saved.isNone && v.tid == tid
  (keys.foldl (fun s p => s.updPond d p (dropHolder tid)) s).passAll d keys

/-! ### Trips (R361) -/

/-- End every active leap of some reservations with cause 11. -/
def State.tripEnds (s : State) (d p : Nat) : List Resv → State
  | [] => s
  | v :: vs =>
    (((s.removeResv d p v).setRsv v .none).owe v 11).tripEnds d p vs

/-- The active leaps of each pond, lowest rank first, the latest admitted first. -/
def State.tripPonds (s : State) (d : Nat) : List Nat → State
  | [] => s
  | p :: ps => (s.tripEnds d p ((victimsOf 8 (s.pond d p).admitted).filter (·.active))).tripPonds d ps

/-- The section trips, or its trip clears, as STATE, LEVEL and UNITS stand after a write. -/
def State.tripCheck (s : State) (d : Nat) : State :=
  let x := s.die d
  if x.tripped then
    if x.rtrip = 0 ∨ (x.rsense : Int) < (x.rtrip : Int) - x.rhyst then
      (s.updDie d fun y => { y with tripped := false }).passAll d (s.pondKeys d)
    else s
  else if x.rtrip ≠ 0 ∧ x.rtrip ≤ x.rsense then
    (s.updDie d fun y => { y with tripped := true }).tripPonds d (s.pondKeys d)
  else s

/-! ### Register writes (Table 14.1) -/

/-- PCAP: ignored where the sum of C would pass 8,192 (R349). -/
def State.writePcap (s : State) (d p : Nat) (v : Word) : State :=
  let c := bits v 13 0
  let x := s.pond d p
  let others := ((s.pondKeys d).map fun q => if q = p then 0 else (s.pond d q).cap).sum
  if 63 < p ∨ 8192 < others + c then s
  else
    let s := s.updPond d p fun y => { y with cap := c, seq := if y.cap = 0 ∧ c ≠ 0 then 0 else y.seq }
    if c = 0 then
      let s := s.displaceAll d p x.admitted
      x.waiting.foldl (fun s w => s.withdrawReq d p w .nopond) s
    else
      ((x.waiting.filter fun w => decide (c < w.units)).foldl (fun s w => s.withdrawReq d p w .range) s).pass d p

/-- PDRAIN (R351). -/
def State.writePdrain (s : State) (d p : Nat) (v : Word) : State :=
  if 63 < p then s else (s.updPond d p fun y => { y with fill := y.fill - bits v 13 0 }).pass d p

/-- RTRIP. -/
def State.writeRtrip (s : State) (d : Nat) (v : Word) : State :=
  (s.updDie d fun y => { y with rtrip := bits v 13 0 }).tripCheck d

/-- RSENSE. -/
def State.writeRsense (s : State) (d : Nat) (v : Word) : State :=
  (s.updDie d fun y => { y with rsense := bits v 13 0 }).tripCheck d

/-- RHYST: a trip whose hysteresis no longer holds clears (R361, log 50). -/
def State.writeRhyst (s : State) (d : Nat) (v : Word) : State :=
  (s.updDie d fun y => { y with rhyst := bits v 13 0 }).tripCheck d

/-- A die that exists. -/
def goodDie (d : Nat) : Bool := decide (d < 8)

/-- PCAP_WRITE. -/
def execPcapWrite (die pond : Nat) (value : BitVec 64) (s : State) : Out :=
  .next (if goodDie die then s.writePcap die pond value else s)

/-- PDRAIN_WRITE. -/
def execPdrainWrite (die pond : Nat) (value : BitVec 64) (s : State) : Out :=
  .next (if goodDie die then s.writePdrain die pond value else s)

/-- RTRIP_WRITE. -/
def execRtripWrite (die : Nat) (value : BitVec 64) (s : State) : Out :=
  .next (if goodDie die then s.writeRtrip die value else s)

/-- RSENSE_WRITE. -/
def execRsenseWrite (die : Nat) (value : BitVec 64) (s : State) : Out :=
  .next (if goodDie die then s.writeRsense die value else s)

/-! ### The instructions -/

/-- A ticket (Table 14.7). -/
def ticket (seq die pond : Nat) (st : RsvStatus) : Word :=
  BitVec.ofNat 64 (seq * 2 ^ 50 + die * 2 ^ 47 + pond * 2 ^ 39) ||| st.word

/-- The request that a slot makes at its pond, taking the pond's next SEQ (R363). -/
def State.newReq (s : State) (p units : Nat) : State × Resv :=
  let d := dieOf s.cur
  let t := s.me
  let v : Resv := ⟨s.cur, none, t.adepth, t.rank.toNat, units, (s.pond d p).seq, 0, false, []⟩
  let s := s.updPond d p fun x => { x with seq := (x.seq + 1) % 16384 }
  (s.updLeap s.cur t.adepth fun _ => ⟨.waiting, v.rank, p, units, 0, v.seq⟩, v)

/-- The checks that RSV, RSVW and RSVQ share (R363): a status that ends the group, or the pond. -/
def State.reqCheck (s : State) (n : Word) : Option RsvStatus :=
  let t := s.me
  let p := t.pondid.toNat
  let c := (s.pond (dieOf s.cur) p).cap
  if t.leaph.state ≠ .none ∧ t.leaph.state ≠ .displaced then some .busy
  else if 63 < p ∨ c = 0 then some .nopond
  else if n = 0 ∨ c < n.toNat then some .range
  else none

/-- RSV (R354, R363). -/
def execRsv (a b : Reg) (s : State) : Out :=
  let n := s.r b
  .next (match s.reqCheck n with
    | some st => s.result a st.word 0
    | none =>
      let d := dieOf s.cur
      let p := s.me.pondid.toNat
      let x := s.pond d p
      if (s.die d).tripped ∨ (x.waiting.any fun w => decide (s.me.rank.toNat ≤ w.rank)) ∨ x.headroom < n.toNat then
        s.result a RsvStatus.refused.word 0
      else
        let (s, v) := s.newReq p n.toNat
        let s := s.updPond d p fun x => { x with admitted := x.admitted ++ [v] }
        (s.updLeap s.cur s.me.adepth fun l => { l with state := .admitted }).result a RsvStatus.ok.word 0)

/-- A queued request: it joins the list and the pass runs; the slot is parked for the reply. -/
def State.queueReq (s : State) (k : PondWait) (rd : Reg) (n : Word) : State :=
  match s.reqCheck n with
  | some st => s.result rd st.word 0
  | none =>
    let d := dieOf s.cur
    let p := s.me.pondid.toNat
    if 256 ≤ (s.pond d p).waiting.length then s.result rd RsvStatus.full.word 0
    else
      let (s, v) := s.newReq p n.toNat
      let s := s.parkMe (.pond k rd none) 0
      let s := (s.updPond d p fun x => { x with waiting := insertReq v x.waiting }).pass d p
      if k = .rsvq then
        let st : RsvStatus := if (s.thread s.cur).leaph.state = .waiting then .waiting else .ok
        (s.fixAnswer s.cur (ticket v.seq d p st)).pondReply s.cur
      else s

/-- RSVW. -/
def execRsvw (a b : Reg) (s : State) : Out := .next (s.queueReq .rsvw a (s.r b))

/-- RSVQ. -/
def execRsvq (a b : Reg) (s : State) : Out := .next (s.queueReq .rsvq a (s.r b))

/-- RWAIT (R364). -/
def execRwait (a b : Reg) (s : State) : Out :=
  let t := s.me
  let x := s.r b
  let mine := bits x 63 50 == t.leaph.seq && bits x 49 47 == dieOf s.cur && bits x 46 39 == t.leaph.pond
  .next (if !mine then s.result a RsvStatus.none.word 0
    else match t.leaph.state with
      | .waiting => s.parkMe (.pond .rwait a none) 0
      | .admitted | .active =>
        if s.cutsLeft s.cur then s.parkMe (.pond .rwait a none) 0 else s.result a RsvStatus.ok.word 0
      | .displaced =>
        (s.updLeap s.cur t.adepth fun l => { l with state := .none }).result a RsvStatus.displaced.word 0
      | .none => s.result a RsvStatus.none.word 0)

/-- The reservation of a slot becomes an active leap (R365). -/
def State.startLeap (s : State) : State :=
  let t := s.me
  let d := dieOf s.cur
  let s := s.updPond d t.leaph.pond fun x =>
    { x with admitted := x.admitted.map fun v => if v.heldBy s.cur t.adepth then { v with active := true, spent := 0 } else v }
  s.updMe fun t =>
    { t with
      leaph := { t.leaph with state := .active, spent := 0 }
      tsr := { t.tsr with leap := true, cut := false, lost := false } }

/-- LEAP (R365). -/
def execLeap (a _b : Reg) (s : State) : Out :=
  .next (match s.me.leaph.state with
    | .none => s.result a RsvStatus.none.word 0
    | .waiting => s.result a RsvStatus.waiting.word 0
    | .displaced =>
      (s.updLeap s.cur s.me.adepth fun l => { l with state := .none }).result a RsvStatus.displaced.word 0
    | .active => s.result a RsvStatus.active.word 0
    | .admitted =>
      if (s.die (dieOf s.cur)).tripped then s.result a RsvStatus.tripped.word 0
      else s.startLeap.result a RsvStatus.ok.word 0)

/-- LEND (R365). -/
def execLend (a _b : Reg) (s : State) : Out :=
  let (s, v) := s.lend s.cur
  .next (s.result a v 0)

/-- RQRY (R366). -/
def execRqry (a b : Reg) (s : State) : Out :=
  let p := s.me.pondid.toNat
  let x := s.pond (dieOf s.cur) p
  .next (s.result a
    (if 63 < p ∨ x.cap = 0 then BitVec.allOnes 64
     else match b.toNat with
       | 0 => BitVec.ofNat 64 x.cap
       | 1 => BitVec.ofNat 64 x.fill
       | 2 => BitVec.ofNat 64 x.reserved
       | 3 => BitVec.ofInt 64 x.headroom
       | 4 => BitVec.ofNat 64 x.waiting.length
       | _ => ofBool (s.die (dieOf s.cur)).tripped) 0)

end Sys2Proof.Machine
end

