-- ==== Sys2Proof/Machine/Parks.lean ====
section
/-!
DEFINITION. Sys2Proof/Machine/Parks.lean: the reply of a granted take (R215, PT), how a parked state is resolved when a
thread is halted or cut (Table 13.6), and causes 10 and 11 at a group boundary (R360, R361).
-/
namespace Sys2Proof.Machine

/-! ### Channels -/

/-- The channel from a die to another (Table 9.1). -/
def chanKey (d e : Nat) : Nat := d * 8 + e

/-- Append an item to a channel. -/
def State.enqueue (s : State) (d e : Nat) (x : ChanItem) : State :=
  { s with chans := Table.set [] (chanKey d e) (Table.get [] s.chans (chanKey d e) ++ [x]) s.chans }

/-- A put: performed at a home on the issuing die, else it enters the channel (PT). -/
def State.sendPut (s : State) (die : Nat) (p : Put) : State :=
  let s := s.dropAt (clusterOf p.owner) (wordsTouched p.pa (8 * p.words.length))
  if homeDie p.pa = die then s.performPut p else s.enqueue die (homeDie p.pa) (.put p)

/-! ### The reply of a granted take (R215, R220, R221) -/

/-- Two words of a 16-byte number. -/
def pairWords (n : Nat) : List Word := [BitVec.ofNat 64 n, BitVec.ofNat 64 (n / 2 ^ 64)]

/-- What the core computes on the reply: its register result and the words of the put. -/
def State.takeResult (s : State) (a : Access) (old : Nat) : State × List Word :=
  match a.op with
  | .amo op y rd => (s.wr a.tid rd (BitVec.ofNat 64 old), [amoValue op (BitVec.ofNat 64 old) y])
  | .cas e n rd =>
    (s.wr a.tid rd (BitVec.ofNat 64 old), [if BitVec.ofNat 64 old = e then n else BitVec.ofNat 64 old])
  | .vamo sel w y vd => (s.wrV a.tid vd (BitVec.ofNat 128 old), pairWords (vamoValue sel w old y.toNat))
  | _ => (s, [])

/-- PT: the destination is written, the put is sent, and the group completes with its acquire. -/
def State.replyTake (s : State) (tid : Nat) : State :=
  match (s.thread tid).park with
  | some ⟨.granted a old, _, _, _⟩ =>
    let (s, ws) := s.takeResult a old
    let s := s.sendPut (dieOf tid) ⟨a.va, a.pa, ws, a.ctx, tid, none⟩
    (s.acquireOf a).complete tid
  | _ => s

/-- PT. -/
def execPt (tid : Nat) (s : State) : Out := .next (s.replyTake tid)

/-! ### Table 13.6 -/

/-- Take a slot's outstanding access out of the channels. -/
def State.recall (s : State) (tid : Nat) : State :=
  { s with chans := (s.chans.map fun e => (e.1, e.2.filter fun x => match x with
      | .access a => a.tid != tid
      | _ => true)).filter fun e => !e.2.isEmpty }

/-- The group is given up: it re-executes, and what it took from the hardware queues goes back. A cause 10 or 11 whose
delivery waited for a frame place is pending again. -/
def State.abandon (s : State) (tid : Nat) : State :=
  let s := (s.unclaim tid).leaveHw tid
  s.upd tid fun t =>
    let again := match t.delivery with
      | some tr => if tr.cause = 10 ∨ tr.cause = 11 then some (tr.cause, tr.info.toNat) else t.pendTrap
      | none => t.pendTrap
    { t with park := none, delivery := none, g6 := none, pendTrap := again }

/-- The launch records that a LAUNCH holds are released (R389). -/
def State.releaseRecs (s : State) : List (Nat × Nat) → State
  | [] => s
  | (d, n) :: rest => (s.updDie d fun x => { x with launches := Table.set none n none x.launches }).releaseRecs rest

/-- A parked state at a pre-emption, a migration or a cut (Table 13.6). -/
def State.resolvePark (s : State) (tid : Nat) : State :=
  let t := s.thread tid
  match t.park with
  | none => s
  | some p =>
    match p.why with
    | .granted _ _ => s.replyTake tid
    | .barWait a ph => (s.abandon tid).upd tid fun t => { t with barWait := some (a.va, ph) }
    | .job c o id _ =>
      ((s.upd tid Thread.spentG6).abandon tid).upd tid fun t => { t with pendJob := some ⟨t.pc, t.depth, false, 0, id, c, o⟩ }
    | .pond _ _ _ =>
      if t.leaph.state = .waiting then
        match p.why with
        | .pond .rsvw _ _ =>
          match s.findResv (dieOf tid) t.leaph.pond tid t.adepth with
          | some v =>
            let s := s.updPond (dieOf tid) t.leaph.pond fun x => { x with waiting := x.waiting.filter (· != v) }
            ((s.updLeap tid t.adepth fun l => { l with state := .none }).abandon tid).pass (dieOf tid) t.leaph.pond
          | none => s.abandon tid
        | .pond .rsvq _ _ => s.pondAnswer tid
        | _ => s.abandon tid
      else
        match p.why with
        | .pond .rwait _ none => s.abandon tid
        | _ => s.pondAnswer tid
    | .preempt target _ =>
      (s.upd target fun x => { x with preempts := x.preempts.filter (· != tid) }).abandon tid
    | .icinv => ({ s with icinvs := s.icinvs.filter fun q => q.issuer != tid }).abandon tid
    | .launch _ _ _ recs _ => (s.releaseRecs recs).abandon tid
    | .reply _ | .word _ | .queueWord => ((s.withdraw tid).recall tid).abandon tid
    | _ => s.abandon tid

/-! ### Causes 10 and 11 (R355, R360, R361) -/

/-- A trap of cause 10 or 11 that is pending reaches its boundary: it is held, dropped or delivered. A thread parked at
that moment leaves its park first; one in the second half of a BAR holds its trap. -/
def State.boundaryTrap (s : State) (tid : Nat) : State :=
  let t := s.thread tid
  match t.pendTrap with
  | none => s
  | some (cause, units) =>
    let held := t.state != .running || t.tsr.priv || t.inBar || (cause == 10 && t.busy && t.tvecAddr != 0)
    let s := if held then s else (s.resolvePark tid).leapTrap tid cause units
    s.cutDone tid

/-- LEAPCUT. -/
def execLeapcut (tid : Nat) (s : State) : Out :=
  .next (if (s.thread tid).pendTrap.any (·.1 == 10) then s.boundaryTrap tid else s)

/-- LEAPTRIP. -/
def execLeaptrip (tid : Nat) (s : State) : Out :=
  .next (if (s.thread tid).pendTrap.any (·.1 == 11) then s.boundaryTrap tid else s)

end Sys2Proof.Machine
end

