-- ==== Sys2Proof/Machine/Buffers.lean ====
section
/-!
DEFINITION. Sys2Proof/Machine/Buffers.lean: the store queues, write buffers and read caches of Table 9.1, and the
transitions QS, QD, BD, CF and CE (R210, R211, R223 to R225), the lookup of LF, and draining for a direct access (R223).
-/
namespace Sys2Proof.Machine

/-! ### Stores in the buffers -/

/-- The byte that a store writes at a home address. -/
def Store.at (e : Store) (a : Nat) : Option Byte :=
  if e.pa ≤ a then (e.bytes[a - e.pa]?).join else none

/-- Whether a store covers part of a word. -/
def Store.meets (e : Store) (w : Nat) : Bool := (wordsWritten e.pa e.bytes).contains (wordOf w)

/-- A store widened to the whole words it lies in; its address stays the store's own (Table 9.7). -/
def Store.aligned (e : Store) : Store :=
  let lo := wordOf e.pa
  let n := (e.pa + e.bytes.length - lo + 7) / 8 * 8
  { e with pa := lo, bytes := (List.range n).map fun i => e.at (lo + i) }

/-- An entry of W after a later store to the same word has merged its bytes into it (R224, QD). The one write that they become
has the address of the earlier store and the context of the later (log 66). -/
def Store.absorb (old new : Store) : Store :=
  let lo := min old.pa new.pa
  let hi := max (old.pa + old.bytes.length) (new.pa + new.bytes.length)
  { va := old.va
    pa := lo
    bytes := (List.range (hi - lo)).map fun i => (new.at (lo + i)).orElse fun _ => old.at (lo + i)
    ctx := new.ctx
    cluster := new.cluster
    owners := old.owners ++ new.owners.filter fun t => !old.owners.contains t
    saved := old.saved ++ new.saved }

/-- Move a store into a write buffer, at most one entry a word. -/
def mergeIntoW (e : Store) (w : List Store) : List Store :=
  let e := e.aligned
  let hit (x : Store) : Bool := decide (x.pa < e.pa + e.bytes.length) && decide (e.pa < x.pa + x.bytes.length)
  (w.filter fun x => !hit x) ++ [(w.filter hit).foldr Store.absorb e]

/-- QS: a buffered store of a slot enters its core's store queue (R223). -/
def State.pushStore (s : State) (tid : Nat) (va : Word) (pa : Nat) (bs : List (Option Byte)) : State :=
  let e : Store := ⟨va, pa, bs, (s.thread tid).ctx.id, clusterOf tid, [tid], []⟩
  s.updCore (coreOf tid) fun c => { c with q := c.q ++ [e] }

/-- QD: the head of a core's store queue moves into its cluster's write buffer. -/
def State.qd (s : State) (core : Nat) : State :=
  match (s.core core).q with
  | [] => s
  | e :: rest =>
    (s.updCore core fun c => { c with q := rest }).updCluster (core / 64) fun c => { c with w := mergeIntoW e c.w }

/-- QD several times. -/
def State.qdTimes (s : State) (core : Nat) : Nat → State
  | 0 => s
  | n + 1 => (s.qd core).qdTimes core n

/-- QD until a core's store queue is empty. -/
def State.qdAll (s : State) (core : Nat) : State := s.qdTimes core (s.core core).q.length

/-- Drop the read-cache lines of a cluster that a store touches (R211). -/
def dropTouched (e : Store) (lines : List RcLine) : List RcLine :=
  lines.filter fun l => !overlaps l.pa 128 e.pa e.bytes.length

/-- BD of one entry: at a home of the own die it is performed, else it enters the channel to the home's die. -/
def State.sendStore (s : State) (cluster : Nat) (e : Store) : State :=
  let s := s.updCluster cluster fun c =>
    { c with w := c.w.filter (· != e), lines := dropTouched e c.lines }
  if homeDie e.pa = cluster / 16 then s.performStore e else s.enqueue (cluster / 16) (homeDie e.pa) (.store e)

/-- BD of several entries. -/
def State.sendStores (s : State) (cluster : Nat) : List Store → State
  | [] => s
  | e :: es => (s.sendStore cluster e).sendStores cluster es

/-- BD until a cluster's write buffer is empty. -/
def State.bdAll (s : State) (cluster : Nat) : State := s.sendStores cluster (s.cluster cluster).w

/-- The number of entries of a store queue up to the last that touches one of some words. -/
def lastTouching (ws : List Nat) : List Store → Nat
  | [] => 0
  | e :: es =>
    let n := lastTouching ws es
    if n ≠ 0 then n + 1 else if ws.any e.meets then 1 else 0

/-- Before a direct access leaves a core: QD and BD of every entry that touches its words (R223). A control core has
neither queue nor buffer (R428). -/
def State.drainWords (s : State) (tid : Nat) (ws : List Nat) : State :=
  if isCtl tid then s
  else
    let s := s.qdTimes (coreOf tid) (lastTouching ws (s.core (coreOf tid)).q)
    s.sendStores (clusterOf tid) ((s.cluster (clusterOf tid)).w.filter fun e => ws.any e.meets)

/-! ### LF -/

/-- The byte that the youngest matching store of a list gives. -/
def youngest (a : Nat) (es : List Store) : Option Byte :=
  es.foldl (fun acc e => (e.at a).orElse fun _ => acc) none

/-- LF for one byte: the core's Q, else the cluster's W, else, where R210 permits, a read-cache line. -/
def State.forwardByte (s : State) (tid : Nat) (rc : Bool) (a : Nat) : Option Byte :=
  if isCtl tid then none
  else
    match youngest a (s.core (coreOf tid)).q with
    | some b => some b
    | none =>
      match youngest a (s.cluster (clusterOf tid)).w with
      | some b => some b
      | none =>
        if rc then
          match (s.cluster (clusterOf tid)).lines.find? fun l => decide (l.pa ≤ a) && decide (a < l.pa + 128) with
          | some l => l.bytes[a - l.pa]?
          | none => none
        else none

/-- LF: the bytes of a load that Q, W and L give, by offset. -/
def State.forward (s : State) (tid : Nat) (rc : Bool) (pa n : Nat) : Table Byte :=
  (List.range n).filterMap fun i => (s.forwardByte tid rc (pa + i)).map fun b => (i, b)

/-- Bytes that a slot reads by a forwarding load whose home has nothing on its way (window fills, records read as relaxed
loads): LF, then the home. -/
def State.peekByte (s : State) (tid a : Nat) : Byte := (s.forwardByte tid false a).getD (s.byte a)

/-- A word read in that way. -/
def State.peekWord (s : State) (tid a : Nat) : Word :=
  BitVec.ofNat 64 (natOfBytes ((List.range 8).map fun i => s.peekByte tid (a + i)))

/-- Several words read in that way. -/
def State.peekWords (s : State) (tid a n : Nat) : List Word := (List.range n).map fun i => s.peekWord tid (a + 8 * i)

/-! ### The read cache -/

/-- No store of the cluster to a line is in a channel (R211, CF), nor a put of one of its threads (R79). -/
def State.lineFree (s : State) (cluster pa : Nat) : Bool :=
  !(s.chans.any fun ch => ch.2.any fun x => match x with
    | .store e => e.cluster == cluster && overlaps pa 128 e.pa e.bytes.length
    | .put p => clusterOf p.owner == cluster && overlaps pa 128 p.pa (8 * p.words.length)
    | _ => false)

/-- The lines of a cluster's read cache: 4 MiB of 128 bytes (R210). -/
def rcLines : Nat := 32768

/-- The translation of a cluster's TLB that maps a line as part of an RC page, with the line's virtual address. -/
def State.rcPage (s : State) (cluster pa : Nat) : Option (BitVec 12 × Nat) :=
  ((s.cluster cluster).tlb.find? fun e =>
    bits e.leaf 8 6 == 1 && decide (leafPa e.leaf ≤ pa) && decide (pa < leafPa e.leaf + e.span)).map
    fun e => (e.ctx, e.va + (pa - leafPa e.leaf))

/-- CF: fill a line from its home in mode ignore. A line with an uncorrectable word is not filled; a full cache drops the line
that it has held longest (R211 leaves the choice, log 67). -/
def State.fillLine (s : State) (cluster pa : Nat) : State :=
  match s.rcPage cluster pa with
  | none => s
  | some (ctx, va) =>
    if s.lineFree cluster pa && !s.anyBad pa 128 then
      let l : RcLine := ⟨pa, s.bytesAt pa 128, ctx, va⟩
      s.updCluster cluster fun c => { c with lines := (l :: c.lines.filter (·.pa != pa)).take rcLines }
    else s

/-! ### The events -/

/-- QD. -/
def execQd (core : Nat) (s : State) : Out := .next (s.qd core)

/-- BD: any one entry of W leaves, numbered from 0. -/
def execBd (cluster index : Nat) (s : State) : Out :=
  .next (match (s.cluster cluster).w[index]? with
    | some e => s.sendStore cluster e
    | none => s)

/-- CF: `line` is the home address of a line divided by 128. -/
def execCf (cluster line : Nat) (s : State) : Out := .next (s.fillLine cluster (line * 128))

/-- CE. -/
def execCe (cluster line : Nat) (s : State) : Out :=
  .next (s.updCluster cluster fun c => { c with lines := c.lines.filter (·.pa != line * 128) })

end Sys2Proof.Machine
end

