-- ==== Sys2Proof/Machine/Tasks.lean ====
section
/-!
DEFINITION. Sys2Proof/Machine/Tasks.lean: mailboxes (R158, R159), the task table and claims (R178 to R181), the state of
a started thread (R71, R323), packets and their queues (R166, R167, R392), join counters (R169, R430).
-/
namespace Sys2Proof.Machine

/-! ### Mailboxes (R158, R159) -/

/-- KIND of a header (Table 6.2). -/
def kindOf (h : Word) : Nat := bits h 46 44

/-- Entries of a core's mailbox that are free. -/
def CoreSt.mailFree (c : CoreSt) : Nat := 32 - c.mailbox.length

/-- A message enters a mailbox: a slot parked in RECV re-executes, one parked in HALT completes (R152, R345). -/
def State.arrive (s : State) (m : Msg) : State :=
  let s := s.updCore (coreOf m.dest) fun c => { c with mailbox := c.mailbox ++ [m] }
  match (s.thread m.dest).park with
  | some p => match p.why with
    | .mailbox => s.wake m.dest
    | .halt => s.complete m.dest
    | _ => s
  | none => s

/-- Whether a core accepts a message now: into its mailbox, into its system-message queue, or not yet. -/
inductive Accept where
  | mailbox | sysq | no
  deriving DecidableEq, Repr

/-- The rule of R158. -/
def CoreSt.accepts (c : CoreSt) (kind : Nat) : Accept :=
  if kind = 0 then (if c.sysq = [] ∧ 8 ≤ c.mailFree then .mailbox else .no)
  else if c.sysq = [] ∧ 1 ≤ c.mailFree then .mailbox
  else if 4 ≤ kind ∧ c.sysq.length < 16 then .sysq
  else .no

/-- MS for a message: accepted, or `none` while it must wait. -/
def State.accept (s : State) (m : Msg) : Option State :=
  match (s.core (coreOf m.dest)).accepts (kindOf m.header) with
  | .mailbox => some (s.arrive m)
  | .sysq => some (s.updCore (coreOf m.dest) fun c => { c with sysq := c.sysq ++ [m] })
  | .no => none

/-- Fill freed mailbox entries from a core's system-message queue, before anything else. -/
def State.refill (s : State) (core : Nat) : Nat → State
  | 0 => s
  | n + 1 =>
    let c := s.core core
    match c.sysq with
    | [] => s
    | m :: rest =>
      if 1 ≤ c.mailFree then ((s.updCore core fun c => { c with sysq := rest }).arrive m).refill core n else s

/-- Accept every message under way to a slot that its core has room for (QUIT, R170). -/
def State.acceptFor (s : State) (tid : Nat) : List Msg → State
  | [] => s
  | m :: ms =>
    let s := if m.dest = tid then
        match ({ s with outbox := s.outbox.filter (· != m) }).accept m with
        | some s' => s'
        | none => s
      else s
    s.acceptFor tid ms

/-- The messages that wait for a slot, oldest first. -/
def State.msgsOf (s : State) (tid : Nat) : List Msg := (s.core (coreOf tid)).mailbox.filter (·.dest == tid)

/-- Remove the messages that wait for a slot, and the completions that engines hold for it (R159, R170). -/
def State.discardMsgs (s : State) (tid : Nat) : State :=
  let core := coreOf tid
  let s := s.updCore core fun c =>
    { c with mailbox := c.mailbox.filter (·.dest != tid), sysq := c.sysq.filter (·.dest != tid) }
  let s := { s with outbox := s.outbox.filter fun m => !(m.dest == tid && decide (kindOf m.header < 4)) }
  s.refill core 16

/-! ### The task table (R178 to R180) -/

/-- TASK handles (Table 7.1). -/
def taskHandle (gen index : Nat) : Word := BitVec.ofNat 64 (gen % 65536 * 2 ^ 48 + 2 ^ 44 + index)

/-- INDEX of a handle. -/
def handleIndex (h : Word) : Nat := bits h 43 0

/-- A valid task handle in a context (R178). -/
def Ctx.validHandle (c : Ctx) (h : Word) : Bool := bits h 47 44 == 1 && decide (handleIndex h < bits c.ttsize 24 0)

/-- The home address of a task-table entry, through the context's translation. An entry that no page maps, or that lies
outside device memory, is no entry: allocation skips it, and a wait that meets it parks (log 69). -/
def State.taskPa (s : State) (c : Ctx) (i : Nat) : Option Nat :=
  let va := bits c.ttbase 47 5 * 32 + 32 * i
  match s.walk c.ptbase va with
  | .leaf e span =>
    let pa := leafPa e + va % span
    if storageOf pa = .device then some pa else none
  | _ => none

/-- A table walk of the device that meets an uncorrectable entry records it (R330). -/
def State.noteWalk (s : State) (ptbase : Word) (va : Nat) : State :=
  match s.walk ptbase va with
  | .bad pa => s.noteBad pa 8
  | _ => s

/-- The same for the walk to a task-table entry. -/
def State.noteTask (s : State) (c : Ctx) (i : Nat) : State := s.noteWalk c.ptbase (bits c.ttbase 47 5 * 32 + 32 * i)

/-- The virtual address of a task-table entry. -/
def Ctx.taskVa (c : Ctx) (i : Nat) : Word := BitVec.ofNat 64 (bits c.ttbase 47 5 * 32 + 32 * i)

/-- Some word of an entry cannot be corrected. -/
def State.badEntry (s : State) (pa : Nat) : Bool := s.uncorrectable pa || s.uncorrectable (pa + 8)

/-- States of a task (Table 7.2). -/
inductive TaskState where
  | free | unstarted | running | parked | done | failed | other
  deriving DecidableEq, Repr

/-- STATE of an entry word. -/
def taskStateOf (w0 : Word) : TaskState :=
  match bits w0 2 0 with
  | 0 => .free
  | 1 => .unstarted
  | 2 => .running
  | 3 => .parked
  | 4 => .done
  | 5 => .failed
  | _ => .other

/-- The code of a task state. -/
def TaskState.code : TaskState → Nat
  | .free => 0 | .unstarted => 1 | .running => 2 | .parked => 3 | .done => 4 | .failed => 5 | .other => 6

/-- An entry's w0 (Table 7.2). -/
def entryW0 (gen rank : Nat) (adopted : Bool) (st : TaskState) : Word :=
  BitVec.ofNat 64 (gen % 65536 * 2 ^ 48 + rank % 8 * 2 ^ 8 + bit adopted 7 + st.code)

/-- An entry's w1 (Table 7.2). -/
def entryW1 (kind die loc : Nat) : Word := BitVec.ofNat 64 (kind * 2 ^ 60 + die * 2 ^ 48 + loc % 2 ^ 48)

/-- Change the state and place of an entry of a context at an index, its generation and rank kept. -/
def State.setEntry (s : State) (c : Ctx) (i pa : Nat) (adopted : Bool) (st : TaskState) (w1 : Word) : State :=
  let w0 := s.word pa
  let va := c.taskVa i
  (s.devWord c.id va pa (entryW0 (bits w0 63 48) (bits w0 10 8) adopted st)).devWord c.id (va + 8) (pa + 8) w1

/-- The entry that a handle names while its generation stands; one that cannot be corrected names none (log 69). -/
def State.liveEntry (s : State) (c : Ctx) (h : Word) : Option Nat :=
  if c.validHandle h then
    match s.taskPa c (handleIndex h) with
    | some pa => if bits (s.word pa) 63 48 = bits h 63 48 ∧ s.badEntry pa = false then some pa else none
    | none => none
  else none

/-- Reading an entry that a valid handle names records what of the walk or of the entry cannot be corrected (R207, R330). -/
def State.noteEntry (s : State) (c : Ctx) (h : Word) : State :=
  if c.validHandle h then
    match s.taskPa c (handleIndex h) with
    | some pa => s.noteBad pa 16
    | none => s.noteTask c (handleIndex h)
  else s

/-- A state change that keeps the place of the entry (Table 7.3: DONE, FAILED). -/
def State.markTask (s : State) (c : Ctx) (h : Word) (st : TaskState) : State :=
  match s.liveEntry c h with
  | some pa => s.setEntry c (handleIndex h) pa false st (s.word (pa + 8))
  | none => s.noteEntry c h

/-- The lowest entry that may be allocated. -/
def State.freeEntry (s : State) (c : Ctx) (i : Nat) : Nat → Option (Nat × Nat)
  | 0 => none
  | n + 1 =>
    match s.taskPa c i with
    | some pa =>
      let st := taskStateOf (s.word pa)
      if (st = .free ∨ st = .done ∨ st = .failed) ∧ s.badEntry pa = false then some (i, pa) else s.freeEntry c (i + 1) n
    | none => s.freeEntry c (i + 1) n

/-- What the search for a free entry finds uncorrectable among the first entries is recorded, the last of them last. -/
def State.noteTasks (s : State) (c : Ctx) : Nat → State
  | 0 => s
  | n + 1 =>
    let s := s.noteTasks c n
    match s.taskPa c n with
    | some pa => s.noteBad pa 16
    | none => s.noteTask c n

/-- Allocate an entry for a packet (Table 7.3): its handle, or `none` while the table is full. -/
def State.allocTask (s : State) (c : Ctx) (rank : Nat) (w1 entry : Word) : Option (State × Word) :=
  match s.freeEntry c 0 (bits c.ttsize 24 0) with
  | none => none
  | some (i, pa) =>
    let s := s.noteTasks c i
    let gen := (bits (s.word pa) 63 48 + 1) % 65536
    let va := c.taskVa i
    let s := ((s.devWord c.id va pa (entryW0 gen rank false .unstarted)).devWord c.id (va + 8) (pa + 8) w1).devWord c.id
      (va + 16) (pa + 16) (BitVec.ofNat 64 (bits entry 47 0))
    some (s, taskHandle gen i)

/-- A claim (R181): it succeeds only if the generation and the expected state stand. -/
def State.claim (s : State) (c : Ctx) (h : Word) (expected : TaskState) (adopted : Bool) (tid : Nat) : Option State :=
  match s.liveEntry c h with
  | some pa =>
    if taskStateOf (s.word pa) = expected then some (s.setEntry c (handleIndex h) pa adopted .running (entryW1 3 (dieOf tid) tid)) else none
  | none => none

/-! ### Starting a thread (R71, R323) -/

/-- A slot's spill base (R323). -/
def Ctx.spillBase (c : Ctx) (tid : Nat) : Word :=
  BitVec.ofNat 64 (bits c.spbase 47 7 * 128 +
    bits c.spstride 47 7 * 128 * (dieOf tid * 9216 + tid / 1024 % 16 * 768 + coreIn tid * 16 + tid % 16))

/-- PONDID of a context on a die (Table 13.5, w2). -/
def Ctx.pond (c : Ctx) (die : Nat) : BitVec 8 := c.pondmap.extractLsb' (8 * die) 8

/-- CODEID of a thread (R407): the entry of its context whose range holds an address. -/
def State.codeFor (s : State) (ctx : BitVec 12) (entry : Word) : BitVec 16 :=
  match s.codes.find? fun e => match e.2 with
    | some c => c.ctx == ctx && decide (c.base.toNat ≤ entry.toNat) && decide (entry.toNat < c.base.toNat + c.len.toNat)
    | none => false with
  | some e => BitVec.ofNat 16 e.1
  | none => 0

/-- What a start loads beside the context. -/
structure Start where
  pc     : Word
  p      : Vector Word 4
  fmt    : Word
  scp    : Word
  rank   : BitVec 3
  pondid : BitVec 8
  taskh  : Word
  priv   : Bool
  deriving DecidableEq, Repr

/-- The scalar registers of a started thread: p0-p3 loaded, the rest zero. -/
def startRegs (p : Vector Word 4) : Vector Word 32 :=
  (((Vector.replicate 32 0#64).set 8 (p.get 0)).set 9 (p.get 1)).set 10 (p.get 2) |>.set 11 (p.get 3)

/-- R71: a slot starts a thread. -/
def State.startThread (s : State) (tid : Nat) (c : Ctx) (x : Start) : State :=
  let s := { s with ctxs := Table.set none c.id.toNat (some c) s.ctxs }
  s.setThread tid
    { Thread.free with
      state := .running
      pc := x.pc
      regs := startRegs x.p
      wsp := c.spillBase tid
      tsr := ⟨x.priv, false, false, false, false, false⟩
      fmt := x.fmt &&& fmtMask
      scp := x.scp &&& scpMask
      taskh := x.taskh
      rank := x.rank
      pondid := x.pondid
      codeid := s.codeFor c.id x.pc
      ctx := c
      issuedAt := s.now
      wokenAt := s.now }

/-- PONDID of a thread started by another (Table 13.3): the starter's on its own die, else by PONDMAP for the new one. -/
def pondFor (c : Ctx) (starter tid : Nat) (pondid : BitVec 8) : BitVec 8 :=
  if dieOf starter = dieOf tid then pondid else c.pond (dieOf tid)

/-- Free slots of a core, lowest first. -/
def State.freeSlots (s : State) (core : Nat) : List Nat :=
  (slotsOf core).filter fun t => (s.thread t).state == .free

/-! ### Packets and their queues (R166, R392) -/

/-- The rank of a packet's w7 after clamping. -/
def clampRank (c : Ctx) (r : Nat) : BitVec 3 := if r < c.rankset.toNat then BitVec.ofNat 3 r else c.rankset

/-- The counter of a w7, bound to the storage that another address is bound to, with its level (R430). -/
def boundOf (w7 : Word) (b : Bound) : Option Bound :=
  let a := bits w7 47 3 * 8
  if a = 0 then none else some { b with addr := BitVec.ofNat 64 a }

/-- An address that a slot's thread names itself: its own storage, context, level and code. -/
def Thread.bound (t : Thread) (tid : Nat) (addr : Word) : Bound := ⟨addr, tid, t.ctx, t.tsr.priv, t.codeid⟩

/-- A packet from its eight words; its counter is bound as an address of its issuer is. -/
def packetOf (ws : Vector Word 8) (handle : Word) (b : Bound) (pondid : BitVec 8) (scope : Nat) : Packet :=
  ⟨ws, handle, b.tid, b.ctx, pondid, clampRank b.ctx (bits (ws.get 7) 2 0), boundOf (ws.get 7) b, scope⟩

/-- Eight words as a vector. -/
def vec8 (ws : List Word) : Vector Word 8 := Vector.ofFn fun i => (ws[i.val]?).getD 0

/-- Packets held by a die scheduler. -/
def DieSt.packets (d : DieSt) : Nat :=
  (d.fifos.toList.map fun f => (f.filter fun x => match x with | .packet _ => true | _ => false).length).sum

/-- Append an item to the FIFO of a rank. -/
def State.toFifo (s : State) (d : Nat) (rank : BitVec 3) (x : SchedItem) : State :=
  s.updDie d fun y => { y with fifos := y.fifos.set rank.toNat (y.fifos.get ⟨rank.toNat, rank.isLt⟩ ++ [x]) rank.isLt }

/-- A packet enters a die scheduler. -/
def State.toScheduler (s : State) (d : Nat) (p : Packet) : State := s.toFifo d p.rank (.packet p)

/-- An item enters a core's task queue. -/
def State.toCoreQueue (s : State) (core : Nat) (x : TaskItem) : State :=
  s.updCore core fun c => { c with taskq := c.taskq ++ [x] }

/-! ### Join counters (R169, R430) -/

/-- A decrement begins: it goes to the counter's home by itself. -/
def State.decrement (s : State) (ctr : Bound) (die : Nat) : State :=
  { s with joins := s.joins ++ [⟨s.fresh, ctr, die, .pending⟩], fresh := s.fresh + 1 }

/-- Where a counter or packet stands, or the cause that the access would take (R169, R218). -/
inductive Reach where
  | home (t : Target)
  | cause (n : Nat)
  deriving DecidableEq, Repr

/-- Targets of atomics (R218). -/
def atomicTarget (t : Target) : Bool :=
  !t.ctl && t.kind != 4 &&
    (match storageOf t.pa with
     | .device | .sram | .spad | .tcm | .ctlMem => true
     | _ => false)

/-- Where a bound address leads, for an access of the thread that named it. -/
def State.reach (s : State) (b : Bound) (align : Nat) (need : Need) : Reach :=
  match s.check b.tid b.ctx b.priv b.addr align need with
  | .trap c _ => .cause c
  | .ok t => if need = .rmw ∧ !atomicTarget t then .cause 7 else .home t

/-- A bound address whose walk meets an uncorrectable entry: the entry is recorded (R330). -/
def State.noteReach (s : State) (b : Bound) (cause : Nat) : State := s.note14 b.tid b.ctx cause b.addr 8

/-- Change the stage of a decrement. -/
def State.setJoin (s : State) (id : Nat) (st : JoinStage) : State :=
  { s with joins := s.joins.map fun j => if j.id = id then { j with stage := st } else j }

/-- A decrement is over. -/
def State.endJoin (s : State) (id : Nat) : State := { s with joins := s.joins.filter (·.id != id) }

/-- Enqueue a continuation to the die scheduler of the decrementing party's die, as TASK does: its read is checked by policy
and counted (R403, R404). A failure is STATUS 4. -/
def State.continuation (s : State) (j : Join) (packet : Word) : State :=
  let b : Bound := { j.ctr with addr := packet }
  let fail (s : State) : State := (s.endJoin j.id).tellSup j.die 4 j.ctr.addr packet 0 0
  match s.reach b 64 .read with
  | .cause n => fail (s.noteReach b n)
  | .home t =>
    if s.anyBad t.pa 64 then fail (s.noteBad t.pa 64)
    else if t.isReg ∨ (s.policy b.codeid t).isSome then fail s
    else if 8192 ≤ (s.die j.die).packets then s.setJoin j.id (.enqueue packet)
    else
      let ws := vec8 (s.wordsAt t.pa 8)
      let s := s.count (if t.kind = 3 then some t.region else none) false 64 b.tid
      match s.allocTask b.ctx (clampRank b.ctx (bits (ws.get 7) 2 0)).toNat (entryW1 2 j.die 0) (ws.get 0) with
      | none => fail s
      | some (s, h) =>
        let p := packetOf ws h b (b.ctx.pond (dieOf b.tid)) (if dieOf b.tid = j.die then 2 else 3)
        (s.endJoin j.id).toScheduler j.die p

/-- The put of a decrement whose take has been granted. -/
def State.joinPut (s : State) (j : Join) (pa : Nat) (count : Word) : State :=
  let put (v : Word) (s : State) : State := s.performPut ⟨j.ctr.addr, pa, [v], j.ctr.ctx.id, j.ctr.tid, none⟩
  if count = 0 then ((put 0 s).endJoin j.id).tellSup j.die 3 j.ctr.addr 0 0 0
  else
    let s := put (count - 1) s
    if count - 1 = 0 ∧ s.word (pa + 8) ≠ 0 then s.continuation j (s.word (pa + 8)) else s.endJoin j.id

/-- A decrement that cannot be performed: the supervisor of its party's die is told (STATUS 9). -/
def State.joinFails (s : State) (j : Join) (cause : Nat) : State :=
  (s.endJoin j.id).tellSup j.die 9 j.ctr.addr (BitVec.ofNat 64 cause) 0 0

/-- One step of a decrement. -/
def State.joinStep (s : State) (j : Join) : State :=
  match j.stage with
  | .waiting => s
  | .enqueue p => s.continuation j p
  | .granted count pa => s.joinPut j pa count
  | .pending =>
    match s.reach j.ctr 16 .rmw with
    | .cause n => (s.noteReach j.ctr n).joinFails j n
    | .home t =>
      if s.uncorrectable t.pa then (s.noteBad t.pa 8).joinFails j 14
      else if s.ready [t.pa] .full then
        let count := s.word t.pa
        ((s.setFull t.pa false).setHeld t.pa true).joinPut j t.pa count
      else (s.setJoin j.id .waiting).enlist ⟨[t.pa], .full, .decrement j.id⟩

/-- JOIN_DECREMENT: decrement `n` of those under way, counted from 0. -/
def execJoinDecrement (n : Nat) (s : State) : Out :=
  .next (match s.joins[n]? with
    | some j => s.joinStep j
    | none => s)

end Sys2Proof.Machine
end

