-- ==== Sys2Proof/Machine/Halt.lean ====
section
/-!
DEFINITION. Sys2Proof/Machine/Halt.lean: spilling window frames (R64 to R66), hardware-queue bindings (R175), the halt of
a thread (R325, Table 13.6), entries of record tables (R287), and the teardown of a context (R326, R342).
-/
namespace Sys2Proof.Machine

/-! ### Spills (R65, R66) -/

/-- A store of a slot outside its groups: into its core's Q, or, on a control core, directly toward its home (R428). -/
def State.putStore (s : State) (tid : Nat) (va : Word) (pa : Nat) (bs : List (Option Byte)) : State :=
  if isCtl tid then
    let e : Store := ⟨va, pa, bs, (s.thread tid).ctx.id, clusterOf tid, [tid], []⟩
    if homeDie pa = dieOf tid then s.performStore e else s.enqueue (dieOf tid) (homeDie pa) (.store e)
  else s.pushStore tid va pa bs

/-- Store words of a slot from an address on, one store a word. -/
def State.putWords (s : State) (tid : Nat) (va : Word) (pa : Nat) : List Word → State
  | [] => s
  | w :: ws => (s.putStore tid va pa ((bytesOf w.toNat 8).map some)).putWords tid (va + 8) (pa + 8) ws

/-- Where a slot's window frame or adoption frame of `n` bytes may be stored or read (R65, R214, R403): the home of its
first byte, by pages. A frame in device registers or refused by policy is no such place. -/
def State.framePa (s : State) (tid : Nat) (va : Word) (n : Nat) (need : Need) : Option Nat :=
  let t := s.thread tid
  match s.checkSpan tid t.ctx t.tsr.priv va n 128 need with
  | .ok tg => if tg.kind = 4 ∨ tg.ctl ∨ (s.policy t.codeid tg).isSome then none else some tg.pa
  | .trap _ _ => none

/-- What the walk for a frame meets and cannot correct is recorded (R330). -/
def State.noteFrame (s : State) (tid : Nat) (va : Word) (n : Nat) : State :=
  let t := s.thread tid
  let note (x : Word) (s : State) : State :=
    match s.xlate tid t.ctx x.toNat with
    | .bad pa => s.noteBad pa 8
    | _ => s
  if 2 ^ 32 ≤ va.toNat ∧ va.toNat < 2 ^ 48 then note va (note (va + BitVec.ofNat 64 (n - 1)) s) else s

/-- Spill a slot's oldest resident frame: `none` where the spill fails. -/
def State.spillOne (s : State) (tid : Nat) : Option State :=
  let t := s.thread tid
  match t.frames.reverse with
  | [] => none
  | f :: _ =>
    if t.wsp = 0 then none
    else
      match s.framePa tid t.wsp 128 .write with
      | none => none
      | some pa =>
        let s := s.putWords tid t.wsp pa f.toList
        some (s.upd tid fun t =>
          { t with
            reserve := if t.reserve = some (t.depth - t.frames.length) then none else t.reserve
            frames := t.frames.dropLast
            wsp := t.wsp + 128 })

/-- Spill every resident frame of a slot; the flag says whether all of them could be. -/
def State.spillN (s : State) (tid : Nat) : Nat → State × Bool
  | 0 => (s, true)
  | n + 1 =>
    match s.spillOne tid with
    | some s => s.spillN tid n
    | none => (s, false)

/-- Spill every resident frame. -/
def State.spillAll (s : State) (tid : Nat) : State × Bool := s.spillN tid (s.thread tid).frames.length

/-- A slot that waits for a place for a frame (Table 6.1). -/
def Thread.wantsPlace (t : Thread) : Bool :=
  t.park.any fun p => match p.why with
    | .framePlace _ => true
    | _ => false

/-- A slot parked on a frame place goes on once one is free: a waiting trap is delivered, a call completes (R66, R152). -/
def State.placeFreed (s : State) (tid : Nat) : State :=
  let t := s.thread tid
  match t.park with
  | some p =>
    match p.why with
    | .framePlace target =>
      if !t.placeFree then s
      else
        match t.delivery, target with
        | some tr, _ => s.deliverUser tid tr
        | none, some a => (s.finishCall tid p.next a).upd tid fun t => { t with park := none, wokenAt := s.now }
        | none, none => s
    | _ => s
  | none => s

/-- A spill that a push needs has failed (Table 3.1): cause 18 at the pushing group, or in place of the trap whose
delivery pushes. -/
def State.spillFault (s : State) (tid : Nat) : State :=
  let t := s.thread tid
  let ret := match t.delivery with
    | some tr => tr.ret
    | none => t.pc
  (s.upd tid fun t => { t with delivery := none, spillBad := true }).deliver tid ⟨18, ret, t.wsp, 1⟩

/-- WINDOW_SPILL: a slot with fewer than two free places, a frame and a valid WSP spills one frame (R66); a failed spill
waits until WSP is written or a push needs the place (R68). -/
def execWindowSpill (tid : Nat) (s : State) : Out :=
  let t := s.thread tid
  let wanted := t.wantsPlace
  .next (if t.state ≠ .running ∨ t.wsp = 0 ∨ t.frames = [] ∨ t.placesUsed < 6 ∨ (t.spillBad ∧ !wanted) then s
    else match s.spillOne tid with
      | some s => s.placeFreed tid
      | none =>
        let s := s.noteFrame tid t.wsp 128
        if wanted then s.spillFault tid else s.upd tid fun t => { t with spillBad := true })

/-! ### Hardware-queue bindings (R175) -/

/-- Whether a slot has a queue bound. -/
def Thread.bindsQueue (t : Thread) (q : Nat) : Bool := (t.g6en && t.g6q == q) || (t.g7en && t.g7q == q)

/-- A queue with no bound slot is emptied and released. -/
def State.releaseQueue (s : State) (core q : Nat) : State :=
  if (slotsOf core).any fun t => (s.thread t).bindsQueue q then s else s.updHwq core q fun _ => ⟨none, []⟩

/-- Release several queues. -/
def State.releaseQueues (s : State) (core : Nat) : List Nat → State
  | [] => s
  | q :: qs => (s.releaseQueue core q).releaseQueues core qs

/-- The queues that a value of QBND enables. -/
def boundBy (b : BitVec 8) : List Nat :=
  (if b.getLsbD 3 then [(b.extractLsb' 0 3).toNat] else []) ++ (if b.getLsbD 7 then [(b.extractLsb' 4 3).toNat] else [])

/-- Bind queues to a context. -/
def State.ownQueues (s : State) (core : Nat) (ctx : BitVec 12) : List Nat → State
  | [] => s
  | q :: qs => (s.updHwq core q fun x => { x with owner := some ctx }).ownQueues core ctx qs

/-- A slot's bindings become those of a value whose queues are free or its context's. -/
def State.bind (s : State) (tid : Nat) (b : BitVec 8) : State :=
  let t := s.thread tid
  let s := s.upd tid fun t => { t with qbnd := b }
  (s.ownQueues (coreOf tid) t.ctx.id (boundBy b)).releaseQueues (coreOf tid) (boundBy t.qbnd)

/-- Drop a slot's bindings. -/
def State.unbind (s : State) (tid : Nat) : State := if (s.thread tid).qbnd = 0 then s else s.bind tid 0

/-! ### Halting (R325) -/

/-- A suspended leap of a slot at an adoption depth ends: its frame pops with LOST set (R203). -/
def State.endSuspended (s : State) (tid level : Nat) (v : Resv) (l : Level) : State :=
  let s := (s.endResv (dieOf tid) l.leap.pond v).upd tid fun t =>
    { t with levels := t.levels.modify (t.adepth - 1 - level) fun x => { x with lost := true } }
  s.pass (dieOf tid) l.leap.pond

/-- Every suspended leap of a slot below an adoption depth that is active ends so, and, at a move to another die, every other
suspended reservation too (R203). -/
def State.loseSuspended (s : State) (tid : Nat) (moves : Bool) : Nat → State
  | 0 => s
  | level + 1 =>
    let t := s.thread tid
    let s := match t.levels[t.adepth - 1 - level]? with
      | some l =>
        match s.findResv (dieOf tid) l.leap.pond tid level with
        | some v =>
          if v.active || (moves && (s.pond (dieOf tid) l.leap.pond).admitted.contains v) then s.endSuspended tid level v l else s
        | none => s
      | none => s
    s.loseSuspended tid moves level

/-- An explicit move of a slot lapses: its issuer is told (R400). -/
def State.lapse (s : State) (tid : Nat) : State :=
  match (s.thread tid).migr with
  | some (_, some issuer) =>
    (s.upd tid fun t => { t with migr := none }).post
      ⟨issuer, header 0 4 0 8, payload (BitVec.ofNat 64 tid) (BitVec.allOnes 64) 0 0, 3⟩
  | _ => s.upd tid fun t => { t with migr := none }

/-- The answer to the slots that wait in PREEMPT for a target (R338), in arrival order. -/
def State.answerPreempts (s : State) (first : Word) : List Nat → State
  | [] => s
  | i :: is =>
    let s := match (s.thread i).park with
      | some ⟨.preempt _ rd, _, _, _⟩ => (s.wr i rd first).complete i
      | _ => s
    s.answerPreempts 1 is

/-- A thread halts at a group boundary and its slot becomes HELD. -/
def State.halt (s : State) (tid : Nat) : State :=
  let s := s.resolvePark tid
  let s := (s.loseLeap tid).loseSuspended tid false (s.thread tid).adepth
  let s := (s.unbind tid).lapse tid
  let waiting := (s.thread tid).preempts
  let s := s.upd tid fun t => { t with state := .held, park := none, preempts := [] }
  (s.answerPreempts 0 waiting).cutDone tid

/-- PREEMPT_HALT: a target with a request halts (R325); the requests for one that no longer runs find it so (R338). -/
def execPreemptHalt (tid : Nat) (s : State) : Out :=
  let t := s.thread tid
  .next (if t.preempts = [] then s
    else if t.state = .running then s.halt tid
    else (s.upd tid fun t => { t with preempts := [] }).answerPreempts 1 t.preempts)

/-! ### The region record table (R287) -/

/-- The virtual address of an entry of a context's region record table. -/
def Ctx.recVa (c : Ctx) (i : Nat) : Word := BitVec.ofNat 64 (bits c.rtbase 47 8 * 256 + 256 * i)

/-- The home address of an entry, through the context's translation. An address that no page maps to device memory or shared SRAM
is no entry (log 69). -/
def State.recEntry (s : State) (c : Ctx) (i : Nat) : Option Nat :=
  let va := (c.recVa i).toNat
  match s.walk c.ptbase va with
  | .leaf e span =>
    let pa := leafPa e + va % span
    if storageOf pa = .device ∨ storageOf pa = .sram then some pa else none
  | _ => none

/-- w0 of an entry (Table 11.2). -/
def recWord (gen inflight st : Nat) : Word := BitVec.ofNat 64 (gen % 65536 * 2 ^ 48 + inflight % 65536 * 2 ^ 16 + st)

/-- Add to INFLIGHT of the entry of a handle, whatever its generation; an entry that cannot be read keeps it. -/
def State.addInflight (s : State) (c : Ctx) (h : Word) (up : Bool) : State :=
  match s.recEntry c (handleIndex h) with
  | some pa =>
    if s.uncorrectable pa then s.noteBad pa 8
    else
      let w := s.word pa
      let n := bits w 31 16
      s.devWord c.id (c.recVa (handleIndex h)) pa (recWord (bits w 63 48) (if up then n + 1 else n - 1) (bits w 1 0))
  | none => s.noteWalk c.ptbase (c.recVa (handleIndex h)).toNat

/-- The jobs of a killed context no longer count in INFLIGHT of their entries (R287, R305). -/
def State.dropHandles (s : State) (ctx : BitVec 12) : List CopyJob → State
  | [] => s
  | j :: js =>
    let s := match j.kind with
      | .handle h => if j.owner.ctx.id = ctx ∧ !j.settled then s.addInflight j.owner.ctx h false else s
      | _ => s
    s.dropHandles ctx js

/-! ### KILL (R326) -/

/-- The units of a killed launch no longer run: a host entry that waits for the die goes on. -/
def State.hostDone (s : State) (q : Nat) (n die : Nat) : State :=
  let x := Table.get HostQueue.zero s.queues q
  let done (e : HostEntry) : HostEntry := if e.n = n then { e with dies := e.dies.filter (· != die) } else e
  { s with queues := Table.set HostQueue.zero q { x with entries := x.entries.map done } s.queues }

/-- The key of a host queue. -/
def queueKey (fn q : Nat) : Nat := fn * 16 + q

/-- Remove the launch records of a context from a die. -/
def State.dropLaunches (s : State) (ctx : BitVec 12) (d : Nat) : List (Nat × Option LaunchRec) → State
  | [] => s
  | (n, some r) :: rest =>
    let s := if r.ctx.id = ctx then
        let s := s.updDie d fun x => { x with launches := Table.set none n none x.launches }
        match r.queue with
        | some (f, q, e) => s.hostDone (queueKey f q) e d
        | none => s
      else s
    s.dropLaunches ctx d rest
  | (_, none) :: rest => s.dropLaunches ctx d rest

/-- The context of the thread saved in a record. -/
def State.savedCtx (s : State) (r : Nat) : BitVec 12 := BitVec.ofNat 12 (bits (s.word r) 59 48)

/-- Packets, launch records and tadpoles of a context leave a die. -/
def State.killDie (s : State) (ctx : BitVec 12) (d : Nat) : State :=
  let mine : SchedItem → Bool := fun x => match x with
    | .packet p => p.ctx.id == ctx
    | .launch n => match Table.get none (s.die d).launches n with
      | some r => r.ctx.id == ctx
      | none => true
  let s := s.updDie d fun x =>
    { x with
      fifos := x.fifos.map fun f => f.filter fun y => !mine y
      arrivals := x.arrivals.filter fun y => y.thread.ctx.id != ctx
      stack := { x.stack with queue := x.stack.queue.filter fun j => j.owner.ctx.id != ctx } }
  let gone := (s.die d).ponds.map fun e => (e.1, (e.2.admitted ++ e.2.waiting).filter fun v => match v.saved with
    | some r => s.savedCtx r == ctx
    | none => false)
  let keys := (gone.filter fun e => !e.2.isEmpty).map (·.1)
  let s := keys.foldl (fun s p => s.updPond d p fun x =>
    let out : Resv → Bool := fun v => ((gone.find? (·.1 == p)).map (·.2)).any fun l => l.contains v
    { x with
      fill := x.fill + ((x.admitted.filter out).map (·.used)).sum
      admitted := x.admitted.filter fun v => !out v
      waiting := x.waiting.filter fun v => !out v }) s
  (s.dropLaunches ctx d (s.die d).launches).passAll d keys

/-- Start messages, packets and units of a context leave a core. -/
def State.killCore (s : State) (ctx : BitVec 12) (core : Nat) : State :=
  let dead : TaskItem → Bool := fun x => match x with
    | .packet p => p.ctx.id == ctx
    | .unit d n _ => match Table.get none (s.die d).launches n with
      | some r => r.ctx.id == ctx
      | none => true
  s.updCore core fun c =>
    { c with
      startq := c.startq.filter fun m => m.ctx.id != ctx
      taskq := c.taskq.filter fun x => !dead x }

/-- An engine without a context's jobs; a latched D of one of them is not written back (R274). -/
def Engine.without (ctx : BitVec 12) (e : Engine) : Engine :=
  let mine : MatJob → Bool := fun j => j.owner.ctx.id == ctx
  { e with
    queue := e.queue.filter fun j => !mine j
    latched := if (e.queue.any fun j => mine j && j.run) then none else e.latched
    work := if e.work.any fun w => e.queue.any fun j => j.id == w.id && mine j then none else e.work
    ahead := e.ahead.filter fun n => e.queue.any fun j => j.id == n && !mine j }

/-- A tile set EMPTY, with no pins and no tag. -/
def Tile.emptied (t : Tile) : Tile := { t with tagv := false, tag := 0, pins := 0, latch := false, state := 0 }

/-- The tile numbers of a context (R244). -/
def Ctx.tileRange (c : Ctx) : List Nat := (List.range (bits c.tiles 16 8)).map fun i => bits c.tiles 7 0 + i

/-- Set some tiles of a cluster EMPTY. -/
def emptyTiles (t : Table Tile) : List Nat → Table Tile
  | [] => t
  | n :: ns => emptyTiles (Table.set Tile.zero n (Table.get Tile.zero t n).emptied t) ns

/-- A cluster without a context: jobs, tiles, read-cache lines. -/
def State.killCluster (s : State) (ctx : BitVec 12) (range : List Nat) (k : Nat) : State :=
  s.updCluster k fun c =>
    { c with
      engines := c.engines.map (Engine.without ctx)
      copies := c.copies.map fun u => { u with queue := u.queue.filter fun j => j.owner.ctx.id != ctx }
      tiles := emptyTiles c.tiles range
      lines := c.lines.filter fun l => l.ctx != ctx }

/-- A slot of a killed context is freed: an outstanding take that was granted is put, everything else is withdrawn. -/
def State.killSlot (s : State) (tid : Nat) : State :=
  let s := s.replyTake tid
  let s := match (s.thread tid).park with
    | some ⟨.preempt target _, _, _, _⟩ => s.upd target fun x => { x with preempts := x.preempts.filter (· != tid) }
    | some ⟨.launch _ _ _ recs _, _, _, _⟩ => s.releaseRecs recs
    | _ => s
  let s := { s with icinvs := s.icinvs.filter fun q => q.issuer != tid }
  let s := ((s.withdraw tid).recall tid).dropResvs tid
  let s := ((s.unbind tid).leaveHw tid).lapse tid
  let waiting := (s.thread tid).preempts
  let s := s.discardMsgs tid
  ((s.setThread tid Thread.free).answerPreempts 1 waiting).cutDone tid

/-- Several slots. -/
def State.killSlots (s : State) : List Nat → State
  | [] => s
  | t :: ts => (s.killSlot t).killSlots ts

/-- Mark the entries of a context's task table that are not FREE as FAILED (Table 7.3); one that cannot be read stays. -/
def State.failTasks (s : State) (c : Ctx) (i : Nat) : Nat → State
  | 0 => s
  | n + 1 =>
    let s := match s.taskPa c i with
      | some pa =>
        if s.badEntry pa then s.noteBad pa 16
        else if taskStateOf (s.word pa) = TaskState.free then s
        else s.setEntry c i pa false .failed (s.word (pa + 8))
      | none => s.noteTask c i
    s.failTasks c (i + 1) n

/-- The eight dies, their clusters and their cores. -/
def allDies : List Nat := List.range 8

/-- Every cluster of the package. -/
def allClusters : List Nat := allDies.flatMap clustersOf

/-- The known identity and tables of a context. -/
def State.ctxOf (s : State) (id : BitVec 12) : Ctx := (Table.get none s.ctxs id.toNat).getD { Ctx.zero with id := id }

/-- The party number of the thread saved in the record at a home address. -/
def recDest (r : Nat) : Nat := 2 ^ 56 + r

/-- A saved thread of a killed context is no more: what is still to come for it is discarded (R326). -/
def State.dropSaves (s : State) (ctx : BitVec 12) : State :=
  let gone := (s.saves.map (·.1)).filter fun r => s.savedCtx r == ctx
  { s with
    saves := s.saves.filter fun e => !gone.contains e.1
    outbox := s.outbox.filter fun m => !(decide (2 ^ 56 ≤ m.dest) && (gone.contains (m.dest - 2 ^ 56) || s.savedCtx (m.dest - 2 ^ 56) == ctx)) }

/-- An engine request of a context, other than one that serves another package: a KILL discards it (R305, R377). -/
def ChanItem.jobOf (ctx : BitVec 12) : ChanItem → Bool
  | .jobRead u _ _ c _ => c == ctx && u != 1032
  | .jobWrite u _ c _ => c == ctx && u != 1032
  | .jobCredit _ _ _ c _ _ => c == ctx
  | _ => false

/-- Take items out of every channel. -/
def State.dropItems (s : State) (p : ChanItem → Bool) : State :=
  { s with chans := (s.chans.map fun e => (e.1, e.2.filter fun x => !p x)).filter fun e => !e.2.isEmpty }

/-- A host queue's offer of a launch in a killed context is withdrawn: the entry will be taken again (R326, log 37). -/
def State.dropOffers (s : State) (ctx : BitVec 12) : State :=
  { s with queues := s.queues.map fun e =>
    (e.1, if e.2.offer.any fun o => o.ctx.id == ctx then { e.2 with offer := none } else e.2) }

/-- The teardown that a KILL makes at once; what is still in buffers and channels stays until KILL_COMPLETE. -/
def State.teardown (s : State) (ctx : BitVec 12) : State :=
  let c := s.ctxOf ctx
  let s := s.killSlots ((s.threads.filter fun e => e.2.state != SlotState.free && e.2.ctx.id == ctx).map (·.1))
  let s := s.failTasks c 0 (bits c.ttsize 24 0)
  let s := (s.cores.map (·.1)).foldl (fun s k => s.killCore ctx k) s
  let s := allDies.foldl (fun s d => s.killDie ctx d) s
  let s := s.dropHandles ctx (s.clusters.flatMap fun e => e.2.copies.toList.flatMap CopyUnit.queue)
  let s := ((allClusters.foldl (fun s k => s.killCluster ctx c.tileRange k) s).dropSaves ctx).dropItems (ChanItem.jobOf ctx)
  let s := s.dropOffers ctx
  let gone := (s.joins.filter fun j => j.ctr.ctx.id == ctx && match j.stage with | .granted _ _ => false | _ => true).map (·.id)
  { s with
    ctxs := Table.set none ctx.toNat none s.ctxs
    joins := s.joins.filter fun j => !gone.contains j.id
    waits := s.waits.filter fun w => match w.act with
      | .decrement n => !gone.contains n
      | _ => true
    seals := s.seals.filter fun e => e.1 % 4096 != ctx.toNat }

/-- A KILL is accepted (R342): the teardown begins. -/
def State.startKill (s : State) (ctx : BitVec 12) (issuer : Option Nat) (die : Nat) : State :=
  let s : State := { s with kills := s.kills ++ [(⟨ctx, issuer, die⟩ : KillReq)] }
  s.teardown ctx

/-- A write of a context to a remote package that is not acknowledged (R227, R423). -/
def State.remoteOwing (s : State) (ctx : BitVec 12) : Bool :=
  s.streams.any fun e => e.2.unacked.any fun f => f.frame.cls == 0 && f.frame.ctx == ctx.toNat

/-- A write of the context is still to be performed: a put, a granted decrement, a frame not acknowledged, or the answer to a
request that the Ramov core has taken (R326, R415). -/
def State.writesLeft (s : State) (ctx : BitVec 12) : Bool :=
  (s.chans.any fun ch => ch.2.any fun x => match x with
    | .put p => p.ctx == ctx
    | .jobWrite _ _ c _ => c == ctx
    | _ => false) || (s.joins.any fun j => j.ctr.ctx.id == ctx) || s.remoteOwing ctx || s.ramov.any fun r => r.ctx.id == ctx

/-- Discard the buffered stores and posted updates of a context. -/
def State.discardStores (s : State) (ctx : BitVec 12) : State :=
  let s := (s.cores.map (·.1)).foldl (fun s k => s.updCore k fun c => { c with q := c.q.filter fun e => e.ctx != ctx }) s
  let s := (s.clusters.map (·.1)).foldl
    (fun s k => s.updCluster k fun c => { c with w := c.w.filter fun e => e.ctx != ctx }) s
  s.dropItems fun x => match x with
    | .store e => e.ctx == ctx
    | .update u => u.ctx == ctx
    | _ => false

/-- KILL_COMPLETE: no write of the context can still be performed; its issuer, or the supervisor of the die when the
issuer was of the context, is told with STATUS 7 and TAG the context (R326, R346). Seals that losses made meanwhile go
too. -/
def execKillComplete (context : Nat) (s : State) : Out :=
  let ctx := BitVec.ofNat 12 context
  .next (match s.kills.find? fun k => k.ctx == ctx with
    | none => s
    | some k =>
      if s.writesLeft ctx then s
      else
        let s := s.discardStores ctx
        let s := { s with
          kills := s.kills.filter fun x => x.ctx != ctx
          seals := s.seals.filter fun e => e.1 % 4096 != ctx.toNat }
        let p := payload (BitVec.ofNat 64 ctx.toNat) 0 0 0
        match k.issuer with
        | some t => s.post ⟨t, header 0 4 ctx.toNat 7, p, 3⟩
        | none =>
          let sup := (s.die k.die).suptid
          let tid := bits sup 16 0
          if sup.getLsbD 63 && goodTid tid then s.post ⟨tid, header 0 4 ctx.toNat 7, p, 3⟩
          else s.tellSup k.die 7 (BitVec.ofNat 64 ctx.toNat) 0 0 0)

end Sys2Proof.Machine
end

