-- ==== Sys2Proof/Machine/Power.lean ====
section
/-!
DEFINITION. Sys2Proof/Machine/Power.lean: the cluster power block (Table 15.3), quiesce, retention, rails, shunts, phase
failures and vertical exclusion (R369 to R380), and the events of chapter 15.
-/
namespace Sys2Proof.Machine

/-! ### CPEVT, CPWAKE and the control core's HALT (R370) -/

/-- CPEVT bits (Table 15.3). -/
inductive Evt where
  | quiet | saved | restored | raildone | ignored | phase | dark | stepwait | vexcl
  deriving DecidableEq, Repr

/-- The bit of an event. -/
def Evt.bit : Evt → BitVec 9
  | .quiet => 1 | .saved => 2 | .restored => 4 | .raildone => 8 | .ignored => 16 | .phase => 32 | .dark => 64
  | .stepwait => 128 | .vexcl => 256

/-- CPWAKE bits 4-0. -/
inductive Wake where
  | sup | start | ctxl | access | tadpole
  deriving DecidableEq, Repr

/-- The bit of a wake reason. -/
def Wake.bit : Wake → BitVec 5
  | .sup => 1 | .start => 2 | .ctxl => 4 | .access => 8 | .tadpole => 16

/-- Whether a control core's HALT completes: some CPEVT bit or CPWAKE.PEND of the die. -/
def State.ctlEvent (s : State) (die : Nat) : Bool :=
  (clustersOf die).any fun k => (s.cluster k).evt != 0 || (s.cluster k).wake != 0

/-- A control core parked in HALT completes once an event of its die is there. -/
def State.wakeCtl (s : State) (die : Nat) : State :=
  if s.ctlEvent die && ((s.thread (ctlBase + die)).park.any fun p => p.why == .halt) then s.complete (ctlBase + die) else s

/-- Set a CPEVT bit of a cluster. -/
def State.setEvt (s : State) (k : Nat) (e : Evt) : State :=
  (s.updCluster k fun c => { c with evt := c.evt ||| e.bit }).wakeCtl (k / 16)

/-- Set a CPWAKE bit of a cluster. -/
def State.setWake (s : State) (k : Nat) (w : Wake) : State :=
  (s.updCluster k fun c => { c with wake := c.wake ||| w.bit }).wakeCtl (k / 16)

/-! ### What CPQACK reports -/

/-- Live slots of a cluster. -/
def State.live (s : State) (k : Nat) : Nat :=
  (s.threads.filter fun e => decide (e.1 < ctlBase) && decide (clusterOf e.1 = k) && e.2.state != SlotState.free).length

/-- Octet `o`'s engine or copy unit holds a job. -/
def ClusterSt.octetBusy (c : ClusterSt) (o : Nat) : Bool :=
  ((c.engines[o]?).any fun e => !e.queue.isEmpty) || ((c.copies[o]?).any fun u => !u.queue.isEmpty)

/-- CPQACK.BUSY. -/
def ClusterSt.busyBits (c : ClusterSt) : Nat := ((List.range 6).map fun o => bit (c.octetBusy o) o).sum

/-- CPRAIL as it stands: the state reached, field by field. -/
def ClusterSt.rail (c : ClusterSt) : Word :=
  BitVec.ofNat 64 (bit (!c.moves.isEmpty) 63 + c.railEng.toNat * 2 ^ 16 + c.railSpad.toNat * 2 ^ 8 +
    (c.railRow.get 2).toNat * 16 + (c.railRow.get 1).toNat * 4 + (c.railRow.get 0).toNat)

/-- Every CPRAIL field is ON. -/
def ClusterSt.allOn (c : ClusterSt) : Bool := c.rail &&& 0x3F033F#64 == 0x3F022A#64

/-- The code of CPRSTAT.STATE. -/
def RetState.code : RetState → Nat
  | .none => 0 | .saving => 1 | .saved => 2 | .restoring => 3

/-! ### Quiesce (R373) -/

/-- A write of CPQREQ: ignored while GATE is 1 and REQ becomes 0. -/
def State.writeQreq (s : State) (k : Nat) (v : Word) : State :=
  let c := s.cluster k
  if v.getLsbD 63 then s.updCluster k fun c => { c with qreq := true }
  else if c.gate then s.setEvt k .ignored
  else s.updCluster k fun c => { c with qreq := false, quiet := false }

/-- QD of every core of a cluster. -/
def State.qdCluster (s : State) (k : Nat) : State := (coresOf k).foldl (fun s c => s.qdAll c) s

/-- CLUSTER_QUIET: with no live slot and no job, the buffers drain and QUIET becomes 1. -/
def State.becomeQuiet (s : State) (k : Nat) : State :=
  let c := s.cluster k
  if c.qreq && !c.quiet && s.live k == 0 && c.busyBits == 0 then
    let s := (s.qdCluster k).bdAll k
    (s.updCluster k fun c => { c with quiet := true }).setEvt k .quiet
  else s

/-! ### Retention (R375) -/

/-- A write of CPRSAVE. -/
def State.writeRsave (s : State) (k : Nat) (v : Word) : State :=
  let c := s.cluster k
  let refuse := s.updCluster k fun c => { c with refused := true }
  if v.getLsbD 0 && v.getLsbD 1 then s.setEvt k .ignored
  else if v.getLsbD 0 then
    if c.quiet && c.ret == .none then s.updCluster k fun c => { c with ret := .saving } else refuse
  else if v.getLsbD 1 then
    if c.ret == .saved && c.allOn then s.updCluster k fun c => { c with ret := .restoring } else refuse
  else s

/-- The end of a save: the items of R375 are in the retention store. -/
def State.saveDone (s : State) (k : Nat) : State :=
  let c := s.cluster k
  if c.ret == .saving then
    let cycs : Table Nat := (coresOf k).map fun n => (n, s.coreNow n - (s.core n).cyc0)
    (s.updCluster k fun c => { c with ret := .saved, saved := some ⟨c.tiles, c.rings, cycs, c.divs, c.coreOn⟩ }).setEvt k .saved
  else s

/-- CYC of some cores resumes from saved values. -/
def State.putCycs (s : State) : List (Nat × Nat) → State
  | [] => s
  | (n, v) :: rest => (s.updCore n fun c => { c with cyc0 := s.coreNow n - v }).putCycs rest

/-- Cores whose translations and fetched words are lost. -/
def State.dropCached (s : State) : List Nat → State
  | [] => s
  | n :: rest => (s.updCore n fun c => { c with fetch := [], utlb := [] }).dropCached rest

/-- The end of a restore: no read-cache line, translation or fetched word is retained. -/
def State.restoreDone (s : State) (k : Nat) : State :=
  let c := s.cluster k
  match c.saved with
  | some r =>
    if c.ret == .restoring then
      let s := s.updCluster k fun c =>
        { c with
          tiles := r.tiles, rings := r.rings, divs := r.divs, coreOn := r.coreOn, ret := .none, saved := none
          lines := [], tlb := [], icache := [] }
      ((s.dropCached (coresOf k)).putCycs r.cycs).setEvt k .restored
    else s
  | none => s

/-- A write of CPCGATE. -/
def State.writeCgate (s : State) (k : Nat) (v : Word) : State :=
  let c := s.cluster k
  if v.getLsbD 0 then
    if c.quiet then s.updCluster k fun c => { c with gate := true } else s.setEvt k .ignored
  else if !c.allOn || c.ret != .none then s.setEvt k .ignored
  else s.updCluster k fun c => { c with gate := false }

/-! ### Rails (R376) -/

/-- The code that a field of CPRAIL has reached. -/
def ClusterSt.railOf (c : ClusterSt) : RailField → Nat
  | .eng o => bit (c.railEng.getLsbD o) 0
  | .row r => ((c.railRow[r]?).getD 0).toNat
  | .spad => c.railSpad.toNat

/-- The code that a CPRAIL value gives a field. -/
def railIn (v : Word) : RailField → Nat
  | .eng o => bits v (16 + o) (16 + o)
  | .row r => bits v (2 * r + 1) (2 * r)
  | .spad => bits v 9 8

/-- The order of lowering. -/
def lowering : List RailField := [.eng 5, .eng 4, .eng 3, .eng 2, .eng 1, .eng 0, .row 2, .row 1, .row 0, .spad]

/-- The order of raising. -/
def raising : List RailField := [.spad, .row 0, .row 1, .row 2, .eng 0, .eng 1, .eng 2, .eng 3, .eng 4, .eng 5]

/-- The moves that an accepted write makes. -/
def ClusterSt.planned (c : ClusterSt) (v : Word) : List RailMove :=
  (lowering.filter fun f => decide (railIn v f < c.railOf f)).map (fun f => ⟨f, railIn v f, 1, none⟩) ++
  (raising.filter fun f => decide (c.railOf f < railIn v f)).map (fun f => ⟨f, railIn v f, 8, none⟩)

/-- The field is a dark row. -/
def ClusterSt.darkField (c : ClusterSt) : RailField → Bool
  | .row r => (c.rows[r]?).any (·.dark)
  | _ => false

/-- A write of CPRAIL (R374, R376). -/
def State.writeRail (s : State) (k : Nat) (v : Word) : State :=
  let c := s.cluster k
  let tri : List RailField := [.row 0, .row 1, .row 2, .spad]
  let bad := !c.moves.isEmpty || tri.any (fun f => railIn v f == 3) ||
    (lowering.any (fun f => decide (railIn v f < c.railOf f)) && (!c.quiet || !c.gate)) ||
    (tri.any (fun f => railIn v f == 1) && c.ret != .saved) ||
    lowering.any (fun f => c.darkField f && decide (c.railOf f < railIn v f))
  if bad then s.setEvt k .ignored else s.updCluster k fun c => { c with moves := c.planned v }

/-- Shunt use of row `r` of a cluster of the die; a cluster that does not exist uses none. -/
def State.rowUse (s : State) (k r : Nat) : Nat := if goodCluster k then ((s.cluster k).shunt[r]?).getD 0 else 0

/-- The reports that the test before a raising step reads (R376). -/
def State.neighbours (s : State) (k : Nat) : RailField → List Nat
  | .row r =>
    ((List.range 3).filter (· != r)).map (s.rowUse k) ++
      (if k % 16 = 0 then [] else [s.rowUse (k - 1) r]) ++ (if k % 16 = 11 then [] else [s.rowUse (k + 1) r])
  | .eng o =>
    let e := (s.cluster k).eshunt
    (if o = 0 then [] else [(e[o - 1]?).getD 0]) ++ [(e[o + 1]?).getD 0, s.rowUse k (o / 2)]
  | .spad => (List.range 3).map (s.rowUse k)

/-- Some neighbour uses more than 90% of its shunt. -/
def State.crowded (s : State) (k : Nat) (f : RailField) : Bool := (s.neighbours k f).any fun u => decide (90 < u)

/-- A table without the entries of a range of addresses. -/
def cutRange {α : Type} (lo n : Nat) (t : Table α) : Table α := t.filter fun e => !(decide (lo ≤ e.1) && decide (e.1 < lo + n))

/-- The array rail has reached OFF: every array of the cluster is lost, so that it reads 0 and full afterwards (R375). -/
def State.loseArrays (s : State) (k : Nat) : State :=
  let cut {α : Type} (t : Table α) : Table α := cutRange (tcmPa (k * 64) 0) (64 * 2 ^ 17) (cutRange (spadPa k 0) (2 ^ 24) t)
  let s := { s with mem := cut s.mem, empties := cut s.empties, bad := cut s.bad, holds := cut s.holds }
  let s := (coresOf k).foldl (fun s n => s.updCore n fun c =>
    { c with mailbox := [], sysq := [], startq := [], taskq := [], hwq := Vector.replicate 8 ⟨none, []⟩ }) s
  s.updCluster k fun c => { c with tiles := [], rings := [], lines := [] }

/-- CYC of some cores starts at 0 (R74). -/
def State.clearCycs (s : State) : List Nat → State
  | [] => s
  | n :: rest => (s.clearCyc n).clearCycs rest

/-- The logic of a row's cores is lost. -/
def State.restartCycs (s : State) (k r : Nat) : State :=
  let cores := (List.range 16).map fun i => k * 64 + 16 * r + i
  (s.dropCached cores).clearCycs cores

/-- A rail field reaches a code (R375). -/
def State.reachRail (s : State) (k : Nat) (f : RailField) (goal : Nat) : State :=
  let old := (s.cluster k).railOf f
  match f with
  | .eng o => s.updCluster k fun c => { c with railEng := if goal = 0 then c.railEng &&& ~~~(1#6 <<< o) else c.railEng ||| (1#6 <<< o) }
  | .row r =>
    let s := s.updCluster k fun c => { c with railRow := c.railRow.setIfInBounds r (BitVec.ofNat 2 goal) }
    if goal = 0 ∨ old = 0 then s.restartCycs k r else s
  | .spad =>
    let s := s.updCluster k fun c => { c with railSpad := BitVec.ofNat 2 goal }
    if goal = 0 then s.loseArrays k else s

/-- A cluster that has seen no demand yet: the window of a switch-on (R380). -/
def ClusterSt.unasked (c : ClusterSt) : ClusterSt :=
  { c with askCore := false, askBase := false, leapCore := false, leapBase := false }

/-- A transition has ended. -/
def State.railEnd (s : State) (k : Nat) : State := (s.updCluster k ClusterSt.unasked).setEvt k .raildone

/-- One 64-cycle step of the present move; the last move ends the transition. -/
def State.railMove (s : State) (k : Nat) : State :=
  match (s.cluster k).moves with
  | [] => s
  | m :: rest =>
    if 1 < m.steps then s.updCluster k fun c => { c with moves := { m with steps := m.steps - 1, wait := none } :: rest }
    else
      let s := s.reachRail k m.field m.goal
      let s := s.updCluster k fun c => { c with moves := rest }
      if rest = [] then s.railEnd k else s

/-- Whether a move raises its field. -/
def ClusterSt.raises (c : ClusterSt) (m : RailMove) : Bool := decide (c.railOf m.field < m.goal)

/-- Cores of a cluster are switched on: their CYC starts (R74), and the window sees no demand. -/
def State.coresOn (s : State) (k : Nat) (ns : List Nat) : State :=
  if ns = [] then s
  else
    (s.updCluster k fun c =>
      { c.unasked with
        coreOn := ns.foldl (fun b n => b ||| (1#48 <<< n)) c.coreOn
        coreMove := c.coreMove.filter fun x => !ns.contains x.1 }).clearCycs (ns.map (k * 64 + ·))

/-- A core's switch-on steps that need not wait any longer, or wait from now on. -/
def State.coreSteps (s : State) (k : Nat) : List (Nat × Option Nat) → State
  | [] => s
  | (n, w) :: rest =>
    let s := if s.crowded k (.row (n / 16)) then
        let s := s.updCluster k fun c => { c with coreMove := c.coreMove.map fun x => if x.1 = n then (n, some (w.getD s.now)) else x }
        if w.isNone then s.setEvt k .stepwait else s
      else s.coresOn k [n]
    s.coreSteps k rest

/-- RAIL_STEP: a step of the present transition, unless it raises a field while a neighbour is crowded. -/
def State.railStep (s : State) (k : Nat) : State :=
  let s := s.coreSteps k (s.cluster k).coreMove
  match (s.cluster k).moves with
  | [] => s
  | m :: rest =>
    if (s.cluster k).raises m && s.crowded k m.field then
      if m.wait.isSome then s
      else (s.updCluster k fun c => { c with moves := { m with wait := some s.now } :: rest }).setEvt k .stepwait
    else s.railMove k

/-- A wait of 4,096 cycles is over. -/
def State.expired (s : State) (w : Option Nat) : Bool := w.any fun t => decide (t + 4096 ≤ s.now)

/-- STEP_WAIT_EXPIRY: steps that have waited 4,096 cycles proceed. -/
def State.stepWaitExpiry (s : State) (k : Nat) : State :=
  let late := ((s.cluster k).coreMove.filter fun x => s.expired x.2).map (·.1)
  let s := s.coresOn k late
  match (s.cluster k).moves with
  | [] => s
  | m :: _ => if s.expired m.wait then s.railMove k else s

/-- A write of CPCORE: bits of cores with a live slot stay on (R374); a core switched on takes one step (R376). -/
def State.writeCore (s : State) (k : Nat) (v : Word) : State :=
  let want : BitVec 48 := v.extractLsb' 0 48
  let liveCore (n : Nat) : Bool := (slotsOf (k * 64 + n)).any fun t => (s.thread t).state != SlotState.free
  let c := s.cluster k
  let cleared := (List.range 48).filter fun n => c.coreOn.getLsbD n && !want.getLsbD n
  let kept := cleared.filter liveCore
  let off := cleared.filter fun n => !liveCore n
  let on := (List.range 48).filter fun n => !c.coreOn.getLsbD n && want.getLsbD n
  let s := s.updCluster k fun c =>
    { c with
      coreOn := off.foldl (fun b n => b &&& ~~~(1#48 <<< n)) c.coreOn
      coreMove := (c.coreMove.filter fun x => want.getLsbD x.1) ++
        (on.filter fun n => !c.coreMove.any (·.1 == n)).map fun n => (n, none) }
  let s := s.clearCycs (off.map (k * 64 + ·))
  let s := s.coreSteps k ((s.cluster k).coreMove.filter fun x => x.2.isNone)
  if kept = [] then s else s.setEvt k .ignored

/-- A write of CPDIV0-2. -/
def State.writeDiv (s : State) (k row : Nat) (v : Word) : State :=
  s.updCluster k fun c => { c with divs := c.divs.setIfInBounds row (v &&& 0xFFFFFFFF#64) }

/-! ### The block's registers -/

/-- A register of the power block by its offset. -/
def State.powerRead (s : State) (k off : Nat) : Word :=
  let c := s.cluster k
  match off with
  | 0x000 => BitVec.ofNat 64 (bit c.qreq 63)
  | 0x008 => BitVec.ofNat 64 (bit c.quiet 63 + c.busyBits * 2 ^ 48 + s.live k)
  | 0x018 => BitVec.ofNat 64 (bit c.refused 8 + c.ret.code)
  | 0x020 => ofBool c.gate
  | 0x028 => c.rail
  | 0x030 => BitVec.ofNat 64 (bit (c.wake != 0) 63 + c.wake.toNat)
  | 0x038 => c.evt.setWidth 64
  | 0x040 => c.coreOn.setWidth 64
  | 0x048 => c.divs.get 0
  | 0x050 => c.divs.get 1
  | 0x058 => c.divs.get 2
  | 0x060 => BitVec.ofNat 64 (c.shunt.get 2 * 2 ^ 16 + c.shunt.get 1 * 2 ^ 8 + c.shunt.get 0)
  | 0x068 => BitVec.ofNat 64 ((List.range 6).map fun o => (c.eshunt[o]?).getD 0 * 2 ^ (8 * o)).sum
  | _ => 0

/-- A write of a register of the power block. -/
def State.powerWrite (s : State) (k off : Nat) (v : Word) : State :=
  match off with
  | 0x000 => s.writeQreq k v
  | 0x010 => s.writeRsave k v
  | 0x018 => if v.getLsbD 8 then s.updCluster k fun c => { c with refused := false } else s
  | 0x020 => s.writeCgate k v
  | 0x028 => s.writeRail k v
  | 0x030 => s.updCluster k fun c => { c with wake := c.wake &&& ~~~(v.extractLsb' 0 5) }
  | 0x038 => s.updCluster k fun c => { c with evt := c.evt &&& ~~~(v.extractLsb' 0 9) }
  | 0x040 => s.writeCore k v
  | 0x048 => s.writeDiv k 0 v
  | 0x050 => s.writeDiv k 1 v
  | 0x058 => s.writeDiv k 2 v
  | _ => s

/-! ### Phase failures and dark rows (R378, R379) -/

/-- A row of a cluster. -/
def ClusterSt.rowOf (c : ClusterSt) (r : Nat) : RowSt := (c.rows[r]?).getD ⟨0, false, 0, false⟩

/-- The slots of a row. -/
def rowSlots (k r : Nat) : List Nat := (List.range 16).flatMap fun i => slotsOf (k * 64 + 16 * r + i)

/-- Items of a core's task queue go back to the die scheduler: a packet still unstarted gets LOCKIND 2 again; a unit is
to be placed again. -/
def State.returnItems (s : State) (die : Nat) : List TaskItem → State
  | [] => s
  | .packet p :: rest =>
    let s := match s.liveEntry p.ctx p.handle with
      | some pa =>
        if taskStateOf (s.word pa) = TaskState.unstarted then
          (s.setEntry p.ctx (handleIndex p.handle) pa false .unstarted (entryW1 2 die 0)).toScheduler die p
        else s
      | none => s.noteEntry p.ctx p.handle
    s.returnItems die rest
  | .unit d n i :: rest =>
    let s := match Table.get none (s.die d).launches n with
      | some r =>
        let s := s.updDie d fun x => { x with launches := Table.set none n (some { r with toPlace := r.toPlace ++ [i] }) x.launches }
        if r.toPlace = [] then s.toFifo d r.rank (.launch n) else s
      | none => s
    s.returnItems die rest

/-- A row goes dark. -/
def State.goDark (s : State) (k r : Nat) : State :=
  let die := k / 16
  let moving := !(s.cluster k).moves.isEmpty
  let s := s.updCluster k fun c =>
    { c with
      rows := c.rows.setIfInBounds r { c.rowOf r with dark := true, since := s.now }
      railRow := if c.moves.any (fun m => m.field == .row r && c.raises m) then c.railRow.setIfInBounds r 0 else c.railRow
      moves := c.moves.filter fun m => !(m.field == .row r && c.raises m) }
  let s := s.setEvt k .dark
  let s := if moving && (s.cluster k).moves.isEmpty then s.railEnd k else s
  let s := ((rowSlots k r).filter fun t => (s.thread t).state == SlotState.running).foldl (fun s t => s.halt t) s
  let s := (List.range 16).foldl (fun s i =>
    let core := k * 64 + 16 * r + i
    let items := (s.core core).taskq
    (s.updCore core fun c => { c with taskq := [] }).returnItems die items) s
  s.tellSup die 5 (BitVec.ofNat 64 die) (BitVec.ofNat 64 (k % 16)) (BitVec.ofNat 64 r) 0

/-- PHASE_FAILURE: one more phase of a row has failed. -/
def State.phaseFails (s : State) (k r : Nat) : State :=
  let x := (s.cluster k).rowOf r
  let n := min 4 (x.failed + 1)
  let s := (s.updCluster k fun c => { c with rows := c.rows.setIfInBounds r { x with failed := n } }).setEvt k .phase
  if 2 ≤ n ∧ x.dark = false then s.goDark k r else s

/-- DARK_ROW_EXPIRY: contexts that still hold a slot of the row are killed; the row's field reads OFF. -/
def State.darkExpires (s : State) (k r : Nat) : State :=
  let x := (s.cluster k).rowOf r
  if x.dark ∧ x.gone = false ∧ x.since + 2 ^ 24 ≤ s.now then
    let held := (rowSlots k r).filter fun t => (s.thread t).state == SlotState.held || (s.thread t).state == SlotState.stopped
    let ids := (held.map fun t => (s.thread t).ctx.id).filter fun i => i != 0 && !s.kills.any fun q => q.ctx == i
    let s := s.updCluster k fun c =>
      { c with
        rows := c.rows.setIfInBounds r { x with gone := true }
        railRow := c.railRow.setIfInBounds r 0 }
    ids.eraseDups.foldl (fun s i => s.startKill i none (k / 16)) s
  else s

/-! ### Vertical exclusion (R380) -/

/-- The demand of the present window, with one more: a group of a vector class, or a matrix job of the base die. -/
def ClusterSt.asked (now : Nat) (base leap : Bool) (c : ClusterSt) : ClusterSt :=
  let c := if c.askAt = now / 256 then c else { c.unasked with askAt := now / 256 }
  if base then { c with askBase := true, leapBase := c.leapBase || leap }
  else { c with askCore := true, leapCore := c.leapCore || leap }

/-- VEXCL_WINDOW: at the boundary of two windows, once, the rates of the window that begins, from the demand of the one just
ended. `halved` has bit 0 for the core die and bit 1 for the base die. -/
def State.vexcl (s : State) (k : Nat) : State :=
  let c := s.cluster k
  let w := s.now / 256
  if s.now % 256 ≠ 0 ∨ w ≤ c.window then s
  else
    let asked := c.askCore && c.askBase && c.askAt + 1 == w
    let h : BitVec 2 := if asked then (if c.leapCore && !c.leapBase then 2 else 1) else 0
    let s := s.updCluster k fun c => { c with halved := h, window := w }
    if h = 0 then s else s.setEvt k .vexcl

/-! ### The events -/

/-- An event of a cluster that exists. -/
def onCluster (k : Nat) (f : State → State) (s : State) : Out := .next (if goodCluster k then f s else s)

/-- CPQREQ_WRITE. -/
def execCpqreqWrite (cluster : Nat) (value : BitVec 64) (s : State) : Out := onCluster cluster (fun s => s.writeQreq cluster value) s

/-- CLUSTER_QUIET. -/
def execClusterQuiet (cluster : Nat) (s : State) : Out := onCluster cluster (fun s => s.becomeQuiet cluster) s

/-- SAVE. -/
def execSave (cluster : Nat) (s : State) : Out := onCluster cluster (fun s => s.writeRsave cluster 1) s

/-- RESTORE. -/
def execRestore (cluster : Nat) (s : State) : Out := onCluster cluster (fun s => s.writeRsave cluster 2) s

/-- SAVE_COMPLETE. -/
def execSaveComplete (cluster : Nat) (s : State) : Out := onCluster cluster (fun s => s.saveDone cluster) s

/-- RESTORE_COMPLETE. -/
def execRestoreComplete (cluster : Nat) (s : State) : Out := onCluster cluster (fun s => s.restoreDone cluster) s

/-- CPCGATE_WRITE. -/
def execCpcgateWrite (cluster : Nat) (value : BitVec 64) (s : State) : Out := onCluster cluster (fun s => s.writeCgate cluster value) s

/-- CPRAIL_WRITE. -/
def execCprailWrite (cluster : Nat) (value : BitVec 64) (s : State) : Out := onCluster cluster (fun s => s.writeRail cluster value) s

/-- RAIL_STEP. -/
def execRailStep (cluster : Nat) (s : State) : Out := onCluster cluster (fun s => s.railStep cluster) s

/-- STEP_WAIT_EXPIRY. -/
def execStepWaitExpiry (cluster : Nat) (s : State) : Out := onCluster cluster (fun s => s.stepWaitExpiry cluster) s

/-- CPCORE_WRITE. -/
def execCpcoreWrite (cluster : Nat) (value : BitVec 64) (s : State) : Out := onCluster cluster (fun s => s.writeCore cluster value) s

/-- CPDIV_WRITE. -/
def execCpdivWrite (cluster row : Nat) (value : BitVec 64) (s : State) : Out := onCluster cluster (fun s => s.writeDiv cluster row value) s

/-- WAKEREQ (Table 15.5). -/
def execWakereq (die cluster : Nat) (value : BitVec 64) (s : State) : Out :=
  onCluster (die * 16 + cluster) (fun s => if value.getLsbD 0 then s.setWake (die * 16 + cluster) .sup else s) s

/-- VEXCL_WINDOW. -/
def execVexclWindow (cluster : Nat) (s : State) : Out := onCluster cluster (fun s => s.vexcl cluster) s

/-- PHASE_FAILURE. -/
def execPhaseFailure (cluster row : Nat) (s : State) : Out :=
  onCluster cluster (fun s => if row < 3 then s.phaseFails cluster row else s) s

/-- DARK_ROW_EXPIRY. -/
def execDarkRowExpiry (cluster row : Nat) (s : State) : Out :=
  onCluster cluster (fun s => if row < 3 then s.darkExpires cluster row else s) s

/-- PWRIN_UPDATE: die 0's register. -/
def execPwrinUpdate (value : BitVec 64) (s : State) : Out :=
  .next (s.updDie 0 fun d => { d with pwrin := value.extractLsb' 0 16 })

/-- SHUNT_USE_CHANGE: sensors 0-2 are the rows, 3-8 the engine switches; a report is at most 100. -/
def execShuntUseChange (cluster sensor : Nat) (value : BitVec 64) (s : State) : Out :=
  let u := min 100 value.toNat
  onCluster cluster (fun s => s.updCluster cluster fun c =>
    if sensor < 3 then { c with shunt := c.shunt.setIfInBounds sensor u }
    else { c with eshunt := c.eshunt.setIfInBounds (sensor - 3) u }) s

end Sys2Proof.Machine
end

