-- ==== Sys2Proof/Machine/Links.lean ====
section
/-!
DEFINITION. Sys2Proof/Machine/Links.lean: the package network (R381, R382), links, their registers, training and lane
failures (R385 to R387).
-/
namespace Sys2Proof.Machine

/-! ### Geometry (R16, R381, R382) -/

/-- The die at the other end of link `l` of a die: 0 X+, 1 X-, 2 Y. -/
def linkEnd (d l : Nat) : Nat :=
  match l with
  | 0 => d / 4 * 4 + (d % 4 + 1) % 4
  | 1 => d / 4 * 4 + (d % 4 + 3) % 4
  | _ => (d + 4) % 8

/-- The number that the other end gives the same link. -/
def linkBack (l : Nat) : Nat :=
  match l with
  | 0 => 1
  | 1 => 0
  | _ => 2

/-- A die owns a link: it is the lower-numbered of its two ends (R385). -/
def ownsLink (d l : Nat) : Bool := decide (d < linkEnd d l)

/-- The route of R382 from a die to another as the links crossed. -/
def route (d e : Nat) : List (Nat × Nat) :=
  let dx := (e % 4 + 4 - d % 4) % 4
  let xs := match dx with
    | 0 => []
    | 1 => [(d, 0)]
    | 2 => [(d, 0), (linkEnd d 0, 0)]
    | _ => [(d, 1)]
  xs ++ (if d / 4 = e / 4 then [] else [(d / 4 * 4 + e % 4, 2)])

/-! ### Link state -/

/-- A link as one of its ends has it. -/
def State.link (s : State) (d l : Nat) : Link := ((s.die d).links[l]?).getD Link.init

/-- Change one end. -/
def State.updEnd (s : State) (d l : Nat) (f : Link → Link) : State :=
  s.updDie d fun x => { x with links := x.links.setIfInBounds l (f ((x.links[l]?).getD Link.init)) }

/-- Change both ends of a link. -/
def State.updLink (s : State) (d l : Nat) (f : Link → Link) : State :=
  (s.updEnd d l f).updEnd (linkEnd d l) (linkBack l) f

/-- Lanes of a width code. -/
def lanesOf (w : BitVec 2) : Nat := 64 / 2 ^ w.toNat

/-- The widest width that some good lanes allow. -/
def widest (good : Nat) : BitVec 2 := if 64 ≤ good then 0 else if 32 ≤ good then 1 else 2

/-- A link that carries traffic: at least 16 good lanes (R387). -/
def Link.open? (l : Link) : Bool := decide (16 ≤ l.good)

/-- Every link of a route carries traffic; a die's own traffic crosses none. -/
def State.routeOpen (s : State) (d e : Nat) : Bool := d == e || (route d e).all fun x => (s.link x.1 x.2).open?

/-! ### LINKCTL and its changes (R386) -/

/-- A write of LINKCTL: an accepted one that changes a field makes the link busy. -/
def State.writeLinkctl (s : State) (d l : Nat) (v : Word) : State :=
  let x := s.link d l
  let w : BitVec 2 := v.extractLsb' 0 2
  let r : BitVec 2 := v.extractLsb' 2 2
  if !ownsLink d l || x.busy || w == 3 || r == 3 || decide (x.good < lanesOf w) then
    s.updEnd d l fun x => { x with ignored := true }
  else if w = x.reqWidth ∧ r = x.reqRate then s
  else
    let s := s.updEnd d l fun x => { x with reqWidth := w, reqRate := r }
    s.updLink d l fun y =>
      { y with busy := true, wpend := w != x.reqWidth || w != x.width, rpend := r != x.reqRate || r != x.rate }

/-- The width that a link with some good lanes has when it asks for one (R387). -/
def fitWidth (good : Nat) (w : BitVec 2) : BitVec 2 := if good < lanesOf w ∧ 16 ≤ good then widest good else w

/-- The width change of a request completes. -/
def State.widthChange (s : State) (d l : Nat) : State :=
  let x := s.link d l
  if ownsLink d l && x.busy && x.wpend then
    s.updLink d l fun y => { y with width := fitWidth y.good x.reqWidth, wdone := true, wpend := false, busy := x.rpend }
  else s

/-- The rate change of a request completes, after its width change. -/
def State.rateChange (s : State) (d l : Nat) : State :=
  let x := s.link d l
  if ownsLink d l && x.busy && !x.wpend && x.rpend then
    s.updLink d l fun y => { y with rate := x.reqRate, rdone := true, rpend := false, busy := false }
  else s

/-- A lane fails: it is mapped out, or the link drops its width (R387). -/
def State.laneFails (s : State) (d l : Nat) : State :=
  let good := (s.link d l).good - 1
  s.updLink d l fun y =>
    let y := { y with good := good }
    let w := fitWidth good y.width
    if w = y.width then y else { y with width := w, wdone := true }

/-- A link trains at the widest width its good lanes allow, at full rate. -/
def State.trainLink (s : State) (d l : Nat) : State :=
  if ownsLink d l then
    let good := min 64 (Config.trainedLanes d l)
    s.updLink d l fun y => { y with good := good, width := widest good, reqWidth := widest good, rate := 0, reqRate := 0 }
  else s

/-- The links of the package as end and number. -/
def allLinks : List (Nat × Nat) := allDies.flatMap fun d => [(d, 0), (d, 1), (d, 2)]

/-- Every link trains. -/
def State.trainLinks (s : State) : State := allLinks.foldl (fun s x => s.trainLink x.1 x.2) s

/-- LINKSTAT (Table 16.2). -/
def linkstat (d l : Nat) (x : Link) : Word :=
  BitVec.ofNat 64 (bit x.busy 63 + x.good % 256 * 2 ^ 16 + bit (ownsLink d l) 11 + bit x.ignored 10 + bit x.wdone 9 +
    bit x.rdone 8 + x.width.toNat * 16 + x.rate.toNat)

/-- A write of LINKSTAT clears flags. -/
def Link.clear (v : Word) (x : Link) : Link :=
  { x with
    ignored := x.ignored && !v.getLsbD 10
    wdone := x.wdone && !v.getLsbD 9
    rdone := x.rdone && !v.getLsbD 8 }

/-! ### The events -/

/-- A link that exists. -/
def onLink (d l : Nat) (f : State → State) (s : State) : Out := .next (if d < 8 ∧ l < 3 then f s else s)

/-- LINKCTL_WRITE. -/
def execLinkctlWrite (die link : Nat) (value : BitVec 64) (s : State) : Out := onLink die link (fun s => s.writeLinkctl die link value) s

/-- LINK_WIDTH_CHANGE. -/
def execLinkWidthChange (die link : Nat) (s : State) : Out := onLink die link (fun s => s.widthChange die link) s

/-- LINK_RATE_CHANGE. -/
def execLinkRateChange (die link : Nat) (s : State) : Out := onLink die link (fun s => s.rateChange die link) s

/-- LANE_FAILURE. -/
def execLaneFailure (die link : Nat) (s : State) : Out := onLink die link (fun s => s.laneFails die link) s

end Sys2Proof.Machine
end

