-- ==== Sys2Proof/Machine/Registers.lean ====
section
/-!
DEFINITION. Sys2Proof/Machine/Registers.lean: the device registers of the die supervisor blocks (R347, Tables 13.12, 14.1,
15.5, 16.2, 18.2, 18.3), control space (R372), whole and half accesses, and an access's action at a register.
-/
namespace Sys2Proof.Machine

/-! ### Host queue registers (Table 18.2) -/

/-- A host queue by key. -/
def State.hostQueue (s : State) (q : Nat) : HostQueue := Table.get HostQueue.zero s.queues q

/-- Change a host queue. -/
def State.updQueue (s : State) (q : Nat) (f : HostQueue → HostQueue) : State :=
  { s with queues := Table.set HostQueue.zero q (f (s.hostQueue q)) s.queues }

/-- QCTL as it reads. -/
def HostQueue.ctl (x : HostQueue) : Word := BitVec.ofNat 64 (bit x.en 63 + x.ctx.toNat * 2 ^ 20 + x.log2n.toNat)

/-- A write of QCTL: CTX only from the supervisor block; EN with a bad configuration sets BADCFG and clears EN (R419). -/
def HostQueue.setCtl (sup : Bool) (v : Word) (x : HostQueue) : HostQueue :=
  let ctx := if sup then v.extractLsb' 20 12 else x.ctx
  let n : BitVec 5 := v.extractLsb' 0 5
  let bad := v.getLsbD 63 && (n == 0 || decide (16 < n.toNat) || ctx == 0)
  { x with en := v.getLsbD 63 && !bad, ctx := ctx, log2n := n, badcfg := x.badcfg || bad }

/-- A notify (R421): a TAIL more than a ring ahead of HEAD is ignored and sets OVER. -/
def HostQueue.notify (v : Word) (x : HostQueue) : HostQueue :=
  let t : BitVec 32 := v.extractLsb' 0 32
  if 2 ^ x.log2n.toNat < (t - x.head).toNat then { x with ovr := true } else { x with tail := t }

/-- A queue register by its offset. -/
def HostQueue.read (x : HostQueue) (off : Nat) : Word :=
  match off with
  | 0x00 => x.base
  | 0x08 => x.ctl
  | 0x18 => x.head.setWidth 64
  | 0x20 => BitVec.ofNat 64 (bit x.badcfg 1 + bit x.ovr 0)
  | _ => 0

/-- A write of a queue register. -/
def HostQueue.write (sup : Bool) (off : Nat) (v : Word) (x : HostQueue) : HostQueue :=
  match off with
  | 0x00 => { x with base := v &&& 0x000FFFFFFFFFFFC0#64 }
  | 0x08 => x.setCtl sup v
  | 0x20 => { x with badcfg := x.badcfg && !v.getLsbD 1, ovr := x.ovr && !v.getLsbD 0 }
  | _ => x

/-- The BAR2 writes of a function that are still to be performed. -/
def State.hostOwed (s : State) (fn : Nat) : List Nat :=
  s.chans.flatMap fun ch => ch.2.filterMap fun x => match x with
    | .hostWrite f id _ _ => if f = fn then some id else none
    | _ => none

/-- A write of QTAIL: it is acted on once the earlier BAR2 writes of its function have been performed (R421). -/
def State.qtail (s : State) (k : Nat) (v : Word) : State :=
  let left := s.hostOwed (k / 16)
  if left = [] then s.updQueue k (HostQueue.notify v) else { s with notifies := s.notifies ++ [⟨k, v, left⟩] }

/-- Notifies that wait for nothing are acted on, in order. -/
def State.actNotifies (s : State) : List Notify → State
  | [] => s
  | n :: ns => (if n.left = [] then s.updQueue n.queue (HostQueue.notify n.tail) else s).actNotifies ns

/-- A BAR2 write has been performed. -/
def State.hostWrote (s : State) (id : Nat) : State :=
  let ns := s.notifies.map fun (n : Notify) => { n with left := n.left.filter (· != id) }
  { s with notifies := ns.filter fun (n : Notify) => n.left != [] }.actNotifies ns

/-- A write of a register of a host queue. -/
def State.writeQueue (s : State) (sup : Bool) (k off : Nat) (v : Word) : State :=
  if off = 0x10 then s.qtail k v else s.updQueue k (HostQueue.write sup off v)

/-- A function that the endpoint presents (R417): 0, the physical one, and 1 to 32 virtual ones, how many is not stated (log 73). -/
def hasFunction (fn : Nat) : Bool := fn == 0 || decide (fn ≤ max 1 (min 32 Config.vfCount))

/-- The offset of a register of a host queue in die 0's supervisor block (R419). -/
def onQueueReg (d off : Nat) : Bool := d == 0 && decide (0x5000 ≤ off) && hasFunction ((off - 0x5000) / 0x400)

/-! ### Peers (Table 18.3) -/

/-- The key of the stream of a class toward a package. -/
def streamKey (pkg cls : Nat) : Nat := pkg * 4 + cls

/-- A peer table entry. -/
def State.peer (s : State) (p : Nat) : Peer := Table.get ⟨0, 0⟩ s.peers p

/-- Rewriting an entry makes its package reachable again (R423). -/
def State.setPeer (s : State) (p : Nat) (x : Peer) : State :=
  let s := { s with peers := Table.set ⟨0, 0⟩ p x s.peers }
  let revive (s : State) (cls : Nat) : State :=
    let k := streamKey (bits x.a 14 0) cls
    { s with streams := Table.set Stream.zero k { Table.get Stream.zero s.streams k with dead := false } s.streams }
  revive (revive s 0) 1

/-- The entry of a package, if valid (R422). -/
def State.peerOf (s : State) (pkg : Nat) : Option Peer :=
  (s.peers.find? fun e => e.2.a.getLsbD 63 && bits e.2.a 14 0 == pkg).map (·.2)

/-! ### The supervisor block -/

/-- ROWSTAT of a cluster. -/
def State.rowstat (s : State) (k : Nat) : Word :=
  BitVec.ofNat 64 ((List.range 3).map fun r =>
    let x := (s.cluster k).rowOf r
    (bit x.dark 3 + x.failed % 8) * 2 ^ (4 * r)).sum

/-- SCHSTAT of a die: launch records in use are those with units still to place (R392). -/
def State.schstat (s : State) (d : Nat) : Word :=
  let x := s.die d
  let used := (x.launches.filter fun e => match e.2 with
    | some r => !r.ready || !r.toPlace.isEmpty
    | none => false).length
  BitVec.ofNat 64 (x.arrivals.length * 2 ^ 40 + used * 2 ^ 24 + x.packets)

/-- A 64-bit register of a die's supervisor block; where no register stands it reads 0. -/
def State.supRead (s : State) (d off : Nat) : Word :=
  let x := s.die d
  if off < 0x1000 then
    match off with
    | 0x000 => x.suptid
    | 0x008 => x.cecnt.get 0
    | 0x010 => x.cecnt.get 1
    | 0x018 => x.cecnt.get 2
    | 0x020 => x.cecnt.get 3
    | 0x028 => x.uelast
    | 0x030 => x.drops
    | 0x038 => x.hdrops
    | 0x040 => x.rdrops
    | _ => 0
  else if off < 0x1800 then
    let p := s.pond d ((off - 0x1000) / 0x20)
    match off % 0x20 with
    | 0x00 => BitVec.ofNat 64 p.cap
    | 0x08 => BitVec.ofNat 64 p.fill
    | 0x10 => BitVec.ofNat 64 (p.waiting.length * 2 ^ 32 + p.reserved)
    | _ => 0
  else if off < 0x2080 then
    match off with
    | 0x1800 => BitVec.ofNat 64 x.rtrip
    | 0x1808 => BitVec.ofNat 64 x.rsense
    | 0x1810 => BitVec.ofNat 64 x.rhyst
    | 0x1818 => ofBool x.tripped
    | _ => 0
  else if off = 0x2080 then x.engidle.setWidth 64
  else if 0x2100 ≤ off ∧ off < 0x2160 then s.rowstat (d * 16 + (off - 0x2100) / 8)
  else if off = 0x2180 then (if d = 0 then x.pwrin.setWidth 64 else 0)
  else if 0x3000 ≤ off ∧ off < 0x3018 then
    let l := s.link d ((off - 0x3000) / 8)
    BitVec.ofNat 64 (l.reqRate.toNat * 4 + l.reqWidth.toNat)
  else if 0x3040 ≤ off ∧ off < 0x3058 then linkstat d ((off - 0x3040) / 8) (s.link d ((off - 0x3040) / 8))
  else if 0x3100 ≤ off ∧ off < 0x3160 then (Config.vbRatio (d * 16 + (off - 0x3100) / 8)).setWidth 64
  else if off = 0x3200 then s.schstat d
  else if d = 7 ∧ off = 0x4000 then s.pkgid.setWidth 64
  else if d = 7 ∧ off = 0x4008 then s.lostmsg
  else if d = 7 ∧ 0x4800 ≤ off ∧ off < 0x5800 then
    let p := s.peer ((off - 0x4800) / 16)
    if off % 16 = 0 then p.a else p.mac
  else if onQueueReg d off then
    (s.hostQueue ((off - 0x5000) / 0x40)).read (off % 0x40)
  else 0

/-- A write of a whole register of a die's supervisor block; where no register stands it is ignored. -/
def State.supWrite (s : State) (d off : Nat) (v : Word) : State :=
  if off < 0x1000 then
    match off with
    | 0x000 => s.updDie d fun x => { x with suptid := v &&& 0x800000000001FFFF#64 }
    | 0x008 => s.updDie d fun x => { x with cecnt := x.cecnt.set 0 v }
    | 0x010 => s.updDie d fun x => { x with cecnt := x.cecnt.set 1 v }
    | 0x018 => s.updDie d fun x => { x with cecnt := x.cecnt.set 2 v }
    | 0x020 => s.updDie d fun x => { x with cecnt := x.cecnt.set 3 v }
    | 0x030 => s.updDie d fun x => { x with drops := v }
    | 0x038 => s.updDie d fun x => { x with hdrops := v }
    | 0x040 => if d = 7 then s.updDie d fun x => { x with rdrops := v } else s
    | _ => s
  else if off < 0x1800 then
    match off % 0x20 with
    | 0x00 => s.writePcap d ((off - 0x1000) / 0x20) v
    | 0x18 => s.writePdrain d ((off - 0x1000) / 0x20) v
    | _ => s
  else if off = 0x1800 then s.writeRtrip d v
  else if off = 0x1808 then s.writeRsense d v
  else if off = 0x1810 then s.writeRhyst d v
  else if 0x2000 ≤ off ∧ off < 0x2060 then
    (if v.getLsbD 0 then s.setWake (d * 16 + (off - 0x2000) / 8) .sup else s)
  else if off = 0x2080 then s.updDie d fun x => { x with engidle := v.extractLsb' 0 32 }
  else if 0x3000 ≤ off ∧ off < 0x3018 then s.writeLinkctl d ((off - 0x3000) / 8) v
  else if 0x3040 ≤ off ∧ off < 0x3058 then s.updEnd d ((off - 0x3040) / 8) (Link.clear v)
  else if d = 7 ∧ off = 0x4000 then { s with pkgid := v.extractLsb' 0 15 }
  else if d = 7 ∧ off = 0x4008 then { s with lostmsg := v }
  else if d = 7 ∧ 0x4800 ≤ off ∧ off < 0x5800 then
    let p := (off - 0x4800) / 16
    if off % 16 = 0 then s.setPeer p { s.peer p with a := v &&& 0xC000000000007FFF#64 }
    else s.setPeer p { s.peer p with mac := v &&& 0x0000FFFFFFFFFFFF#64 }
  else if onQueueReg d off then
    s.writeQueue true ((off - 0x5000) / 0x40) (off % 0x40) v
  else s

/-- The value that a half write leaves in the other half: the current one for RW fields, 0 for W1C and WO fields. -/
def State.supKeep (s : State) (d off : Nat) : Word :=
  if 0x3040 ≤ off ∧ off < 0x3058 then 0
  else if onQueueReg d off ∧ off % 0x40 = 0x20 then 0
  else s.supRead d off

/-! ### Accesses (R213, R347, R372) -/

/-- A die whose supervisor block holds a device-register address, and the offset, if any. -/
def supAt (pa : Nat) : Option (Nat × Nat) :=
  let d := (pa - devBase) / 2 ^ 32
  if devBase ≤ pa ∧ d < 8 then some (d, (pa - devBase) % 2 ^ 32) else none

/-- A power block of control space and the offset, if any: cluster and offset. -/
def powerAt (pa : Nat) : Option (Nat × Nat) :=
  if 2 ^ 54 ≤ pa ∧ pa < 2 ^ 55 then
    let die := (pa - 2 ^ 54) / 2 ^ 32
    let off := (pa - 2 ^ 54) % 2 ^ 32 - 0xF0000000
    if off / 0x1000 < 12 then some (die * 16 + off / 0x1000, off % 0x1000) else none
  else none

/-- The whole register that holds an address. -/
def State.regRead (s : State) (pa : Nat) : Word :=
  let a := pa / 8 * 8
  match supAt a with
  | some (d, off) => s.supRead d off
  | none =>
    match powerAt a with
    | some (k, off) => s.powerRead k off
    | none => 0

/-- A write of the whole register. -/
def State.regWrite (s : State) (pa : Nat) (v : Word) : State :=
  let a := pa / 8 * 8
  match supAt a with
  | some (d, off) => s.supWrite d off v
  | none =>
    match powerAt a with
    | some (k, off) => s.powerWrite k off v
    | none => s

/-- The whole value that a write of `size` bytes makes. -/
def State.merged (s : State) (pa size : Nat) (v : Word) : Word :=
  if size = 8 then v
  else
    let keep := match supAt (pa / 8 * 8) with
      | some (d, off) => s.supKeep d off
      | none => 0
    if pa % 8 = 0 then (keep &&& 0xFFFFFFFF00000000#64) ||| (v &&& 0xFFFFFFFF#64)
    else (keep &&& 0xFFFFFFFF#64) ||| (v <<< 32)

/-- What a read of `size` bytes of a register gives. -/
def State.regValue (s : State) (pa size : Nat) (signed : Bool) : Word :=
  let w := s.regRead pa
  if size = 8 then w
  else extendTo signed 4 (if pa % 8 = 0 then bits w 31 0 else bits w 63 32)

/-- An access's action at a device register; a read with a nonzero `value` is sign-extended. -/
def State.actDevice (s : State) (a : Access) (write : Bool) (value : Word) (rd : Reg) : State :=
  if write then (s.regWrite a.pa (s.merged a.pa a.size value)).finish a
  else ((s.wr a.tid rd (s.regValue a.pa a.size (value != 0))).acquireOf a).complete a.tid

/-! ### BAR0 (Table 18.1) -/

/-- The model's address of BAR0 of a function, for REGISTER_WRITE by the host (log 14). -/
def bar0Pa (fn off : Nat) : Nat := 2 ^ 55 + fn * 65536 + off

/-- The function and offset of a BAR0 address. -/
def bar0At (pa : Nat) : Option (Nat × Nat) :=
  let fn := (pa - 2 ^ 55) / 65536
  if 2 ^ 55 ≤ pa ∧ hasFunction fn then some (fn, (pa - 2 ^ 55) % 65536) else none

/-- BOOTSTAT (Table 18.6). -/
def State.bootstat (s : State) : Word := BitVec.ofNat 64 (s.err.toNat * 256 + s.stage.toNat)

/-- What the host reads in BAR0. -/
def State.bar0Read (s : State) (fn off : Nat) : Word :=
  if off = 0 then (if fn = 0 then s.bootstat else 0)
  else if off = 0x10 then Table.get 0 s.bar2base fn
  else if 0x1000 ≤ off ∧ off < 0x1400 then (s.hostQueue (queueKey fn ((off - 0x1000) / 0x40))).read (off % 0x40)
  else 0

/-- A write by the host in BAR0 other than BOOTCMD. -/
def State.bar0Write (s : State) (fn off : Nat) (v : Word) : State :=
  if off = 0x10 then { s with bar2base := Table.set 0 fn v s.bar2base }
  else if 0x1000 ≤ off ∧ off < 0x1400 then
    s.writeQueue false (queueKey fn ((off - 0x1000) / 0x40)) (off % 0x40) v
  else s

/-- REGISTER_WRITE: a store to a device register, or a host write in BAR0. -/
def execRegisterWrite (pa : Nat) (value : BitVec 64) (s : State) : Out :=
  .next (match bar0At pa with
    | some (fn, off) => s.bar0Write fn off value
    | none => s.regWrite pa value)

end Sys2Proof.Machine
end

