-- ==== Sys2Proof/Machine/Records.lean ====
section
/-!
DEFINITION. Sys2Proof/Machine/Records.lean: context records (R323, R324, Table 13.5): where a record lies, a thread written
out as its words and read back, and the reservations, jobs and helpers of a saved thread.
-/
namespace Sys2Proof.Machine

/-! ### Where a record lies (R214, R323) -/

/-- The homes of a record's 256 words: it may cover two pages. -/
structure RecLoc where
  lo  : Nat
  cut : Nat
  hi  : Nat
  deriving DecidableEq, Repr

/-- The home of word `i`. -/
def RecLoc.word (l : RecLoc) (i : Nat) : Nat := if i < l.cut then l.lo + 8 * i else l.hi + 8 * (i - l.cut)

/-- The words of a record. -/
def State.recWords (s : State) (l : RecLoc) : List Word := (List.range 256).map fun i => s.word (l.word i)

/-- Where a record lies, or the trap that an access to it raises: 256-aligned, in device memory, two pages that agree. -/
inductive FindRec where
  | at (l : RecLoc)
  | trap (cause : Nat) (addr : Word) (info : Nat)
  deriving DecidableEq, Repr

/-- The refusals of two pages by policy, in the order 3, 4, 2, 1 of R403. -/
def worseOf (x y : Option (Nat × Nat)) : Option (Nat × Nat) :=
  let at? (n : Nat) : Option (Nat × Nat) := [x, y].findSome? fun z => z.bind fun r => if r.1 = n then some r else none
  [3, 4, 2, 1].findSome? at?

/-- The checks of R339 and R340 on a record's address. -/
def State.findRec (s : State) (tid : Nat) (va : Word) (need : Need) : FindRec :=
  let t := s.thread tid
  let trap (c : Nat) (a : Word) : FindRec := .trap c a 0
  if 2 ^ 48 ≤ va.toNat ∨ va.toNat % 256 ≠ 0 then trap 3 va
  else if va.toNat < 0x100000000 then trap 5 va
  else
    match s.check tid t.ctx t.tsr.priv va 1 need with
    | .trap c a => trap c a
    | .ok x =>
      if storageOf x.pa ≠ .device then trap 5 va
      else
        let first := 65536 - va.toNat % 65536
        if 2048 ≤ first then
          (match s.policy t.codeid x with
           | some r => .trap 17 va (policyInfo r)
           | none => .at ⟨x.pa, 256, 0⟩)
        else
          match s.check tid t.ctx t.tsr.priv (va + BitVec.ofNat 64 first) 1 need with
          | .trap c a => trap c a
          | .ok y =>
            if !x.agrees y then trap 6 va
            else if storageOf y.pa ≠ .device then trap 5 va
            else
              match worseOf (s.policy t.codeid x) (s.policy t.codeid y) with
              | some r => .trap 17 va (policyInfo r)
              | none => .at ⟨x.pa, first / 8, y.pa⟩

/-! ### A thread as words -/

/-- The context as words w1-w15, the five middle ones by the thread. -/
def Thread.ctxWords (t : Thread) : List Word :=
  [t.ctx.tenant.setWidth 64, t.ctx.pondmap, t.ctx.ptbase, t.ctx.stvec, t.ctx.rankset.setWidth 64, t.codeid.setWidth 64,
   t.privst, t.ctx.ttbase, t.ctx.ttsize, t.ctx.rtbase, t.ctx.rtsize, t.ctx.tiles, t.ctx.ringmask, t.ctx.spbase, t.ctx.spstride]

/-- The two words of a vector register, lane 0 first. -/
def vWords (v : VWord) : List Word := [v.extractLsb' 0 64, v.extractLsb' 64 64]

/-- w136 and w137 of a pending sync job. -/
def jobWords : Option PendJob → List Word
  | none => [0, 0]
  | some j =>
    [BitVec.ofNat 64 (2 ^ 63 + bit j.done 62 + j.status % 65536 * 2 ^ 32 + j.id % 65536),
     BitVec.ofNat 64 (j.cluster / 16 * 2 ^ 8 + j.cluster % 16 * 2 ^ 4 + j.octet)]

/-- w138 of a pending cause 10 or 11. -/
def trapWord : Option (Nat × Nat) → Word
  | none => 0
  | some (c, u) => BitVec.ofNat 64 (2 ^ 63 + u % 2 ^ 40 * 2 ^ 8 + c)

/-- w139 and w140 of an interrupted BAR wait. -/
def barWords : Option (Word × Word) → List Word
  | none => [0, 0]
  | some (a, p) => [(a &&& 0x0000FFFFFFFFFFE0#64) ||| (1#64 <<< 63), p]

/-- A held message as five words. -/
def msgWords (m : Msg) : List Word := m.header :: m.payload.toList

/-- w0 of a saved record. -/
def recHead (ctx : BitVec 12) (ndrain nheld last : Nat) : Word :=
  BitVec.ofNat 64 (2 ^ 63 + ctx.toNat * 2 ^ 48 + ndrain % 65536 * 2 ^ 32 + nheld * 2 ^ 24 + last % 131072)

/-- The words of a record that a thread is saved into, but for its reserved tail. -/
def State.toRecord (s : State) (tid ndrain : Nat) (held : List Msg) : List Word :=
  let t := s.thread tid
  let head := recHead t.ctx.id ndrain held.length tid :: t.ctxWords ++ [t.pc]
  let sregs := (List.range 19).map fun i => s.sreg tid (i + 1)
  let regs := 0 :: t.regs.toList.drop 1
  let tail := [t.sepc, t.scause, t.saddr, t.sinfo] ++ jobWords t.pendJob ++ [trapWord t.pendTrap] ++ barWords t.barWait
  let all := head ++ sregs ++ regs ++ t.vregs.toList.flatMap vWords ++ tail ++ [0, 0, 0] ++ held.flatMap msgWords
  all ++ List.replicate (256 - all.length) 0

/-- Write the words of a record at their homes, for a context at a virtual address: a whole word is repaired (R207), and one in
a protected range is lost (R402). -/
def State.putRecord (s : State) (l : RecLoc) (ctx : BitVec 12) (va : Word) (i : Nat) : List Word → State
  | [] => s
  | w :: ws =>
    (s.devWord ctx va (l.word i) w).putRecord l ctx (va + 8) (i + 1) ws

/-- The context that a record gives (w0-w15). -/
def ctxOfWords (ws : List Word) : Ctx where
  id := BitVec.ofNat 12 (bits (nth ws 0) 59 48)
  tenant := (nth ws 1).extractLsb' 0 16
  pondmap := nth ws 2
  ptbase := nth ws 3 &&& 0x000FFFFFFFFFF000#64
  stvec := nth ws 4 &&& 0x0000FFFFFFFFFFFE#64
  rankset := (nth ws 5).extractLsb' 0 3
  ttbase := nth ws 8 &&& 0x0000FFFFFFFFFFE0#64
  ttsize := nth ws 9 &&& 0x1FFFFFF#64
  rtbase := nth ws 10 &&& 0x0000FFFFFFFFFF00#64
  rtsize := nth ws 11 &&& 0x1FFFFF#64
  tiles := nth ws 12 &&& 0x1FFFF#64
  ringmask := nth ws 13
  spbase := nth ws 14 &&& 0x0000FFFFFFFFFF80#64
  spstride := nth ws 15 &&& 0x0000FFFFFFFFFF80#64

/-- PRIVST bits that stay: SHTID, SADOPT, SBUSY, PPRIV (Table 13.4). -/
def privstMask : Word := 0x01FFFF000000000B#64

/-- TSR from its word. -/
def tsrOf (w : Word) : Tsr := ⟨w.getLsbD 5, w.getLsbD 4, w.getLsbD 3, w.getLsbD 2, w.getLsbD 1, w.getLsbD 0⟩

/-- A reservation state from its code. -/
def rsvStateOf (n : Nat) : RsvState :=
  match n with
  | 1 => .waiting
  | 2 => .admitted
  | 3 => .active
  | 4 => .displaced
  | _ => .none

/-- LEAPH from its word. -/
def leaphOf (w : Word) : LeapH := ⟨rsvStateOf (bits w 63 61), bits w 60 58, bits w 57 50, bits w 49 36, bits w 35 14, bits w 13 0⟩

/-- The pending job of w136 and w137; its group is the one at the resume point. -/
def jobOfWords (ws : List Word) (depth : Nat) : Option PendJob :=
  let a := nth ws 136
  let b := nth ws 137
  if a.getLsbD 63 then
    some ⟨nth ws 16, depth, a.getLsbD 62, bits a 47 32, bits a 15 0, bits b 10 8 * 16 + bits b 7 4, bits b 2 0⟩
  else none

/-- The pending trap of w138. -/
def trapOfWord (w : Word) : Option (Nat × Nat) := if w.getLsbD 63 then some (bits w 5 0, bits w 47 8) else none

/-- The BAR wait of w139 and w140. -/
def barOfWords (a p : Word) : Option (Word × Word) := if a.getLsbD 63 then some (a &&& 0x0000FFFFFFFFFFE0#64, p) else none

/-- A register file from record words `i` on. -/
def regsOfWords (ws : List Word) (i : Nat) : Vector Word 32 := Vector.ofFn fun k => if k.val = 0 then 0 else nth ws (i + k.val)

/-- The vector registers from record words `i` on. -/
def vregsOfWords (ws : List Word) (i : Nat) : Vector VWord 32 :=
  Vector.ofFn fun k => nth ws (i + 2 * k.val + 1) ++ nth ws (i + 2 * k.val)

/-- The fields of TCAUSE and SCAUSE (Tables 3.5, 13.4), of TINFO, of MHDR (Table 6.2) and of WSP (Table 3.4): reserved bits of a
record or frame are not taken (R7). -/
def causeMask : Word := 0x3F#64

/-- The fields of TINFO. -/
def tinfoMask : Word := 0x81FFFFFFFFFFFFFF#64

/-- The fields of MHDR. -/
def mhdrMask : Word := 0xFFFFF000FFFFFFFF#64

/-- The fields of WSP. -/
def wspMask : Word := 0x0000FFFFFFFFFF80#64

/-- A saved record's thread, with what the device kept beside it. -/
def threadOfRecord (ws : List Word) (x : Saved) : Thread :=
  let depth := bits (nth ws 28) 31 0
  { Thread.free with
    state := .running
    pc := BitVec.ofNat 64 (bits (nth ws 16) 47 0)
    regs := regsOfWords ws 36
    vregs := vregsOfWords ws 68
    depth := depth
    wsp := nth ws 27 &&& wspMask
    tsr := tsrOf (nth ws 17)
    fctl := nth ws 18 &&& fctlMask
    vtype := nth ws 19 &&& 0x1F#64
    fmt := nth ws 20 &&& fmtMask
    scp := nth ws 21 &&& scpMask
    taskh := nth ws 22
    mhdr := nth ws 23 &&& mhdrMask
    rank := (nth ws 25).extractLsb' 0 3
    leaph := leaphOf (nth ws 26)
    tvec := nth ws 30 &&& 0x0000FFFFFFFFFFFF#64
    tcause := nth ws 31 &&& causeMask
    taddr := nth ws 32
    tepc := nth ws 33
    tinfo := nth ws 34 &&& tinfoMask
    adepth := bits (nth ws 35) 2 0
    scause := nth ws 133 &&& causeMask
    saddr := nth ws 134
    sepc := nth ws 132
    sinfo := nth ws 135
    privst := nth ws 7 &&& privstMask
    codeid := (nth ws 6).extractLsb' 0 16
    ctx := ctxOfWords ws
    pendTrap := trapOfWord (nth ws 138)
    barWait := barOfWords (nth ws 139) (nth ws 140)
    pendJob := (jobOfWords ws depth).map fun j => match x.job with
      | some k => { j with pc := k.pc, depth := k.depth }
      | none => j
    frames := x.frames
    reserve := x.spare
    parent := x.parent
    unit := x.unit
    levels := x.levels }

/-- The held messages of a record (w144 on), for a slot. -/
def heldOf (ws : List Word) (tid : Nat) : List Msg :=
  (List.range (min 22 (bits (nth ws 0) 31 24))).map fun i =>
    ⟨tid, nth ws (144 + 5 * i),
      payload (nth ws (145 + 5 * i)) (nth ws (146 + 5 * i)) (nth ws (147 + 5 * i)) (nth ws (148 + 5 * i)), 3⟩

/-! ### What moves with a saved thread -/

/-- Stores and puts of a slot that are still to be performed count in NDRAIN of a record from now on (R325). -/
def Store.mark (tid r : Nat) (e : Store) : Store :=
  if e.owners.contains tid then { e with saved := r :: e.saved, owners := e.owners.filter (· != tid) } else e

/-- Mark what stands in Q, W and channels. -/
def State.markStores (s : State) (tid r : Nat) : State :=
  let s := s.updCore (coreOf tid) fun c => { c with q := c.q.map (Store.mark tid r) }
  let s := s.updCluster (clusterOf tid) fun c => { c with w := c.w.map (Store.mark tid r) }
  let markItem : ChanItem → ChanItem := fun x => match x with
    | .store e => .store (e.mark tid r)
    | .put p => if p.owner = tid ∧ p.saved = none then .put { p with saved := some r } else x
    | .update u => if u.owner = tid ∧ u.saved = none then .update { u with saved := some r } else x
    | _ => x
  { s with chans := s.chans.map fun ch => (ch.1, ch.2.map markItem) }

/-- Stores and puts in Q, W and channels that count in NDRAIN of a record. -/
def State.drainsLeft (s : State) (tid r : Nat) : Nat :=
  let store (e : Store) : Nat := e.saved.count r
  let item : ChanItem → Nat := fun x => match x with
    | .store e => store e
    | .put p => if p.saved = some r then 1 else 0
    | .update u => if u.saved = some r then 1 else 0
    | _ => 0
  ((s.core (coreOf tid)).q.map store).sum + ((s.cluster (clusterOf tid)).w.map store).sum +
    (s.chans.map fun ch => (ch.2.map item).sum).sum

/-- Change the owner of every job of a party (R305, R324). -/
def State.mapOwners (s : State) (f : JobOwner → JobOwner) : State :=
  let s := (s.clusters.map (·.1)).foldl (fun s k => s.updCluster k fun c =>
    { c with
      engines := c.engines.map fun e => { e with queue := e.queue.map fun j => { j with owner := f j.owner } }
      copies := c.copies.map fun u => { u with queue := u.queue.map fun j => { j with owner := f j.owner } } }) s
  allDies.foldl (fun s d => s.updDie d fun x =>
    { x with stack := { x.stack with queue := x.stack.queue.map fun j => { j with owner := f j.owner } } }) s

/-- The jobs of a slot belong to a saved thread from now on. -/
def State.saveJobs (s : State) (tid r : Nat) : State :=
  s.mapOwners fun o => if o.tid = tid ∧ o.saved = none then { o with saved := some r } else o

/-- The jobs of a saved thread belong to a slot again. -/
def State.loadJobs (s : State) (r tid level : Nat) : State :=
  s.mapOwners fun o => if o.saved = some r then { o with saved := none, tid := tid, adepth := o.adepth + level } else o

/-- Change the holder of every request and reservation of a die. -/
def State.mapHolders (s : State) (d : Nat) (f : Resv → Resv) : State :=
  s.updDie d fun x => { x with ponds := x.ponds.map fun e =>
    (e.1, { e.2 with admitted := e.2.admitted.map f, waiting := e.2.waiting.map f }) }

/-- The requests and reservations of a slot belong to a saved thread. -/
def State.saveResvs (s : State) (tid r : Nat) : State :=
  s.mapHolders (dieOf tid) fun v => if v.saved = none ∧ v.tid = tid then { v with saved := some r } else v

/-- They belong to a slot of the same die again. -/
def State.loadResvs (s : State) (d r tid level : Nat) : State :=
  s.mapHolders d fun v => if v.saved = some r then { v with saved := none, tid := tid, level := v.level + level } else v

/-- Requests and reservations of a saved thread end, all units returned (Table 14.8). -/
def State.dropSaved (s : State) (d r : Nat) : State :=
  let keys := (s.pondKeys d).filter fun p => ((s.pond d p).admitted ++ (s.pond d p).waiting).any fun v => v.saved == some r
  (keys.foldl (fun s p => s.updPond d p fun x =>
    { x with
      fill := x.fill + ((x.admitted.filter fun v => v.saved == some r).map (·.used)).sum
      admitted := x.admitted.filter fun v => v.saved != some r
      waiting := x.waiting.filter fun v => v.saved != some r }) s).passAll d keys

/-- STATE of a request read back from its pond: the entry of the holder at a depth, if it is still there; of one that is gone, what
the pond last made of it: DISPLACED, or NONE (Table 14.8). -/
def State.readBack (s : State) (d tid level : Nat) (kept : RsvState) (l : LeapH) : LeapH :=
  let p := s.pond d l.pond
  if (p.admitted.any fun v => v.heldBy tid level && v.active) then { l with state := .active }
  else if (p.admitted.any fun v => v.heldBy tid level) then { l with state := .admitted }
  else if (p.waiting.any fun v => v.heldBy tid level) then { l with state := .waiting }
  else { l with state := if kept = .displaced then .displaced else .none }

/-! ### Completions for a slot or a saved thread (R158, R324) -/

/-- The location of the record at a key. -/
def State.savedLoc (s : State) (r : Nat) : RecLoc :=
  let x := Table.get Saved.none s.saves r
  ⟨r, x.cut, x.hi⟩

/-- Append a completion to the held area of a record, while it holds fewer than 22 messages. -/
def State.holdMsg (s : State) (r : Nat) (m : Msg) : Option State :=
  let l := s.savedLoc r
  let w0 := s.word (l.word 0)
  let n := bits w0 31 24
  let va := (Table.get Saved.none s.saves r).va
  if n < 22 then
    some ((s.putRecord l (s.savedCtx r) (va + BitVec.ofNat 64 (8 * (144 + 5 * n))) (144 + 5 * n) (msgWords m)).devWord (s.savedCtx r) va
      (l.word 0) (w0 + 0x1000000#64))
  else none

/-- MS for any party. -/
def State.takeMsg (s : State) (m : Msg) : Option State :=
  if 2 ^ 56 ≤ m.dest then s.holdMsg (m.dest - 2 ^ 56) m else s.accept m

/-- Two completions of one unit for one party: a copy unit or engine is known by the core that issued the job, a stack engine by its
die. They arrive in the order in which they were sent, which is that of acceptance (R292). -/
def Msg.sameUnit (m x : Msg) : Bool :=
  let k := kindOf m.header
  let src := bits m.header 63 47
  let by' := bits x.header 63 47
  m.dest == x.dest && k == kindOf x.header &&
    ((k == 3 && dieOf src == dieOf by') ||
      ((k == 1 || k == 2) && clusterOf src == clusterOf by' && octetOf src == octetOf by'))

/-- The die at which a message arrives: its slot's, or that of the record of a saved thread. -/
def Msg.die (m : Msg) : Nat := if 2 ^ 56 ≤ m.dest then homeDie (m.dest - 2 ^ 56) else dieOf m.dest

/-- The die that a completion or a reply of the Ramov core comes from (R383; the Ramov core stands at die 0, R16). -/
def Msg.source (m : Msg) : Nat :=
  let k := kindOf m.header
  if 1 ≤ k ∧ k ≤ 3 then dieOf (bits m.header 63 47) else if k = 5 then 0 else m.die

/-- MS: message `n` of those under way, counted from 0, is accepted if the links to its target carry traffic (R387), its target has
room and no earlier completion of its unit is still under way to it. -/
def execMs (n : Nat) (s : State) : Out :=
  .next (match s.outbox[n]? with
    | some m =>
      if (s.outbox.take n).any m.sameUnit ∨ !s.routeOpen m.source m.die then s
      else match ({ s with outbox := s.outbox.eraseIdx n }).takeMsg m with
      | some s' => s'
      | none => s
    | none => s)

/-- EC: a job's completion message leaves for its owner (R236). -/
def State.sendDone (s : State) (o : JobOwner) (kind tag status : Nat) (p : Vector Word 4) : State :=
  let dest := match o.saved with
    | some r => recDest r
    | none => o.tid
  s.post ⟨dest, header o.slot kind tag status, p, 3⟩

/-! ### Loading (R340) -/

/-- VALID of a record. -/
def State.recValid (s : State) (l : RecLoc) : Bool := (s.word (l.word 0)).getLsbD 63

/-- Whether a record can be loaded into a slot's core now: NDRAIN 0 and mailbox room for its held messages. -/
def State.recReady (s : State) (l : RecLoc) (core : Nat) : Bool :=
  let w0 := s.word (l.word 0)
  bits w0 47 32 == 0 && decide (min 22 (bits w0 31 24) ≤ (s.core core).mailFree)

/-- Messages enter a slot's mailbox one after another. -/
def State.arriveAll (s : State) (tid : Nat) : List Msg → State
  | [] => s
  | m :: ms => (s.arrive { m with dest := tid }).arriveAll tid ms

/-- A message for one destination, sent on to another. -/
def Msg.redirect (from_ to_ : Nat) (m : Msg) : Msg := if m.dest = from_ then { m with dest := to_ } else m

/-- VALID of a record is cleared, for a context (R340). -/
def State.clearValid (s : State) (l : RecLoc) (by' : BitVec 12) (va : Word) : State :=
  s.devWord by' va (l.word 0) (s.word (l.word 0) &&& 0x7FFFFFFFFFFFFFFF#64)

/-- The helpers below a saved thread that is loaded on another die: a suspended reservation has ended, and its frame pops with LOST
set; each of them has migrated (R203, Table 14.8). -/
def State.levelsMoved (s : State) (d r : Nat) (t : Thread) : List Level :=
  t.levels.mapIdx fun i x =>
    let gone := (s.pond d x.leap.pond).admitted.any fun v => v.saved == some r && v.level == t.adepth - 1 - i
    { x with lost := x.lost || gone, migrated := true, leap := { x.leap with state := .none } }

/-- The thread of a record takes a slot at an adoption depth: VALID is cleared, held messages and then the completions
that engines held are placed, its jobs, and on the pond's die its reservations, are the slot's. -/
def State.takeRecord (s : State) (l : RecLoc) (by' : BitVec 12) (va : Word) (tid level : Nat) (t : Thread) : State :=
  let ws := s.recWords l
  let last := bits (nth ws 0) 16 0
  let kept := (Table.get Saved.none s.saves l.lo).rsv
  let s := s.clearValid l by' va
  let s := s.setThread tid t
  let s := { s with ctxs := Table.set none t.ctx.id.toNat (some t.ctx) s.ctxs, saves := Table.set Saved.none l.lo .none s.saves }
  let s := s.arriveAll tid (heldOf ws tid)
  let s := { s with outbox := s.outbox.map (Msg.redirect (recDest l.lo) tid) }
  let s := s.acceptFor tid s.outbox
  let s := s.loadJobs l.lo tid level
  let d := dieOf tid
  if dieOf last = d then
    let s := s.loadResvs d l.lo tid level
    s.upd tid fun t => { t with leaph := s.readBack d tid t.adepth kept t.leaph }
  else
    let moved := s.levelsMoved (dieOf last) l.lo t
    let s := s.dropSaved (dieOf last) l.lo
    s.upd tid fun t =>
      { t with leaph := { t.leaph with state := .none }, levels := if level = 0 then moved else t.levels }

end Sys2Proof.Machine
end

