-- ==== Sys2Proof/Machine/Helping.lean ====
section
/-!
DEFINITION. Sys2Proof/Machine/Helping.lean: helping and adoption (R193 to R203).
-/
namespace Sys2Proof.Machine

/-! ### Adoption frames (Table 7.7) -/

/-- The 128 words of an adoption frame. -/
def Thread.adoptionFrame (t : Thread) : List Word :=
  [t.pc, t.taskh, BitVec.ofNat 64 t.depth, t.fctl, t.vtype, t.fmt, t.scp,
   BitVec.ofNat 64 (t.rank.toNat + bit t.tsr.lost 10 + bit t.tsr.cut 9 + bit t.tsr.leap 8),
   t.codeid.setWidth 64, t.qbnd.setWidth 64, t.tvec, t.tepc, t.tcause, t.taddr, t.tinfo, t.leaph.word, 0]
  ++ t.regs.toList.drop 1 ++ t.vregs.toList.flatMap vWords ++ List.replicate 16 0

/-- Where an adoption frame lies for an access: both pages agree (R214). -/
def State.frameLoc (s : State) (tid : Nat) (va : Word) (need : Need) : Option RecLoc :=
  match s.framePa tid va 1024 need with
  | none => none
  | some pa =>
    let first := 65536 - va.toNat % 65536
    if 1024 ≤ first then some ⟨pa, 128, 0⟩
    else
      match s.framePa tid (va + BitVec.ofNat 64 first) 128 need with
      | some pa' => some ⟨pa, first / 8, pa'⟩
      | none => none

/-- Store the words of a frame. -/
def State.putFrame (s : State) (tid : Nat) (va : Word) (l : RecLoc) (ws : List Word) : State :=
  let s := s.putWords tid va l.lo (ws.take l.cut)
  s.putWords tid (va + BitVec.ofNat 64 (8 * l.cut)) l.hi (ws.drop l.cut)

/-- The helper's state from its frame (R198): every item of Table 7.7, its level and MIGRATED mark as the device kept them
(log 68); the slot goes on at the waiting group. Bindings to queues that another context has taken meanwhile are not restored. A
cause 10 or 11 that the adopted task still had pending passes to the helper, unless the helper has one of its own held (log 70:
DESIGN CHOICE, the spec does not say what becomes of it). -/
def Thread.unframe (ws : List Word) (l : Level) (t : Thread) : Thread :=
  let a := nth ws 7
  { t with
    pc := nth ws 0
    taskh := nth ws 1
    frames := []
    reserve := none
    depth := bits (nth ws 2) 31 0
    fctl := nth ws 3 &&& fctlMask
    vtype := nth ws 4 &&& 0x1F#64
    fmt := nth ws 5 &&& fmtMask
    scp := nth ws 6 &&& scpMask
    rank := a.extractLsb' 0 3
    tsr := { t.tsr with
      priv := l.priv
      migrated := l.migrated
      adopted := decide (1 < t.adepth)
      lost := a.getLsbD 10 || l.lost
      cut := a.getLsbD 9
      leap := a.getLsbD 8 }
    codeid := (nth ws 8).extractLsb' 0 16
    qbnd := 0
    tvec := nth ws 10 &&& 0x0000FFFFFFFFFFFF#64
    tepc := nth ws 11
    tcause := nth ws 12 &&& causeMask
    taddr := nth ws 13
    tinfo := nth ws 14 &&& tinfoMask
    leaph := leaphOf (nth ws 15)
    regs := regsOfWords ws 16
    vregs := vregsOfWords ws 48
    wsp := t.wsp - 1024
    adepth := t.adepth - 1
    parent := l.parent
    unit := l.unit
    levels := t.levels.drop 1
    pendTrap := l.held.orElse fun _ => t.pendTrap
    park := none
    g6 := none }

/-! ### Whom a wait helps (R193) -/

/-- DETAIL's kind of a wait. -/
def waitKind (op : HomeOp) : Nat :=
  match op with
  | .fwait _ => 1
  | .lock _ => 2
  | _ => 3

/-- A wait joins the list of its word as a fresh arrival: FWAIT and LOCK are performed from it, QPOP re-executes. -/
def State.waitOn (s : State) (a : Access) (word : Nat) : State :=
  match a.op with
  | .fwait _ | .lock _ =>
    let s := s.enlist ⟨[word], .full, .perform a⟩
    s.upd a.tid fun t => { t with park := t.park.map fun p => { p with why := .word a } }
  | _ =>
    let s := s.enlist ⟨[word], .full, .again a.tid⟩
    let s := s.upd a.tid fun t => { t with park := t.park.map fun p => { p with why := .queueWord } }
    s.unclaim a.tid

/-- The depth mark of an owner among the slot's own tasks: 0 for the current one, else the ADEPTH its frame was written
to (R193). -/
def Thread.ownTask (t : Thread) (h : Word) : Option Nat :=
  if h = t.taskh then some 0
  else (t.levels.findIdx? fun l => l.taskh == h).map fun i => t.adepth - i

/-- The packet of an unstarted task, in the queue its entry names. -/
def State.packetOfTask (s : State) (w1 h : Word) (ctx : BitVec 12) : Option Packet :=
  let here : Packet → Bool := fun p => p.handle == h && p.ctx.id == ctx
  if bits w1 63 60 = 1 then
    ((s.core (bits w1 47 0 / 16)).taskq.findSome? fun x => match x with
      | .packet p => if here p then some p else none
      | _ => none)
  else
    (s.die (bits w1 50 48)).fifos.toList.flatten.findSome? fun x => match x with
      | .packet p => if here p then some p else none
      | _ => none

/-! ### Adopting (R195, R196, R201) -/

/-- What a suspension comes to: the helper stands below, or a spill or the frame has failed at an address, the spills before it
performed (R68). -/
inductive Suspended where
  | ok (s : State)
  | failed (s : State) (addr : Word)

/-- The helper's side of an adoption: frames spilled, the adoption frame written, its leap suspended, its bindings
dropped, a pending leap trap held. -/
def State.suspend (s : State) (tid : Nat) : Suspended :=
  let s := s.abandon tid
  if (s.thread tid).wsp = 0 then .failed s 0
  else
    match s.spillAll tid with
    | (s, false) =>
      let va := (s.thread tid).wsp
      .failed (s.noteFrame tid va 128) va
    | (s, true) =>
      let t := s.thread tid
      match s.frameLoc tid t.wsp .write with
      | none => .failed (s.noteFrame tid t.wsp 1024) t.wsp
      | some l =>
        let s := (s.putFrame tid t.wsp l t.adoptionFrame).unbind tid
        let level : Level :=
          ⟨t.pc, t.taskh, t.parent, t.unit, t.leaph, t.leaph.state == .active, false, t.pendTrap, t.tsr.priv, t.tsr.migrated⟩
        let s := s.upd tid fun t =>
          { t with
            levels := level :: t.levels
            adepth := t.adepth + 1
            wsp := t.wsp + 1024
            depth := 0
            reserve := none
            spillBad := false
            pendTrap := none
            pendJob := none
            barWait := none
            leaph := LeapH.zero }
        .ok (if level.held.isSome then s.cutDone tid else s)

/-- A failed suspension: cause 18 at the waiting group with the failing address; nothing has been claimed. -/
def State.adoptFault (s : State) (tid : Nat) (addr : Word) : State :=
  s.deliver tid ⟨18, (s.thread tid).pc, addr, 1⟩

/-- Start an unstarted owner in the helper's slot, as a dispatched task starts (R71, R195, R196). -/
def State.adoptPacket (s : State) (tid : Nat) (p : Packet) : State :=
  match s.suspend tid with
  | .failed s a => s.adoptFault tid a
  | .ok s' =>
    match s'.claim p.ctx p.handle .unstarted true tid with
    | none => s.wake tid
    | some s =>
      let entry := BitVec.ofNat 64 (bits (p.words.get 0) 47 0)
      let s := s.upd tid fun t =>
        { t with
          pc := entry
          regs := startRegs #v[p.words.get 1, p.words.get 2, p.words.get 3, p.words.get 4]
          vregs := Vector.replicate 32 0
          fctl := 0
          vtype := 0
          fmt := p.words.get 5 &&& fmtMask
          scp := p.words.get 6 &&& scpMask
          rank := p.rank
          taskh := p.handle
          tvec := 0
          tcause := 0
          taddr := 0
          tepc := 0
          tinfo := 0
          mhdr := 0
          scause := 0
          saddr := 0
          sepc := 0
          sinfo := 0
          privst := 0
          codeid := s.codeFor p.ctx.id entry
          tsr := ⟨false, false, true, false, false, false⟩
          parent := p.parent
          unit := none
          wokenAt := s.now }
      s.acquire tid p.scope

/-- Resume an owner that was set aside with a context record, in the helper's slot: the record is loaded as CTXL loads it, but for
WSP, DEPTH, the context and CODEID (R195, R196). -/
def State.adoptRecord (s : State) (tid : Nat) (h w1 : Word) (epa : Nat) : State :=
  let l := s.savedLoc (bits w1 47 0)
  if !s.recReady l (coreOf tid) then
    (s.unclaim tid).upd tid fun t => { t with park := t.park.map fun p => { p with why := .ctxLoad } }
  else
    match s.suspend tid with
    | .failed s a => s.adoptFault tid a
    | .ok s' =>
      match s'.claim (s.thread tid).ctx h .parked true tid with
      | none => s.wake tid
      | some s =>
        let old := s.thread tid
        let ws := s.recWords l
        let last := bits (nth ws 0) 16 0
        let r := threadOfRecord ws (Table.get Saved.none s.saves l.lo)
        let entry := s.word (epa + 16)
        let t : Thread :=
          { r with
            ctx := old.ctx
            pondid := old.pondid
            codeid := s.codeFor old.ctx.id entry
            wsp := old.wsp
            depth := 0
            frames := []
            reserve := none
            adepth := old.adepth
            levels := old.levels
            tsr := { r.tsr with adopted := true, migrated := r.tsr.migrated || dieOf last != dieOf tid }
            preempts := old.preempts
            migr := old.migr
            issuedAt := old.issuedAt
            wokenAt := s.now }
        (s.takeRecord l old.ctx.id (Table.get Saved.none s.saves l.lo).va tid old.adepth t).acquire tid 3

/-! ### Helping (R193) -/

/-- What a wait does once its word was found not ready and the owner word `h` was read in the same action. -/
def State.help (s : State) (a : Access) (word : Nat) (h : Word) : State :=
  let t := s.thread a.tid
  let kind := waitKind a.op
  let c := t.ctx
  if !c.validHandle h then s.waitOn a word
  else
    match t.ownTask h with
    | some d => s.trapOf a.tid 19 h (kind + d * 8)
    | none =>
      match s.taskPa c (handleIndex h) with
      | none => (s.noteTask c (handleIndex h)).waitOn a word
      | some pa =>
        if s.badEntry pa then (s.noteBad pa 16).trapOf a.tid 14 (c.taskVa (handleIndex h)) 0
        else
        let w0 := s.word pa
        let w1 := s.word (pa + 8)
        let st := if bits w0 63 48 = bits h 63 48 then taskStateOf w0 else .done
        let here := bits w1 50 48 == dieOf a.tid
        match st with
        | .unstarted =>
          if here && decide (t.adepth < 4) then
            match s.packetOfTask w1 h c.id with
            | some p => s.adoptPacket a.tid p
            | none => s.waitOn a word
          else s.waitOn a word
        | .parked =>
          if bits w1 63 60 == 4 && here && decide (t.adepth < 4) && s.recValid (s.savedLoc (bits w1 47 0)) then
            s.adoptRecord a.tid h w1 pa
          else s.waitOn a word
        | .done => s.trapOf a.tid 12 h (kind + 4 * 8)
        | .failed => s.trapOf a.tid 12 h (kind + 5 * 8)
        | _ => s.waitOn a word

end Sys2Proof.Machine
end

