-- ==== Sys2Proof/Machine/Engines.lean ====
section
/-!
DEFINITION. Sys2Proof/Machine/Engines.lean: tiles, matrix engines, copy units and lead stack engines as units that read and write at
homes: the stream of a job and its parts, and one read (ER) or write (EW) of a job, of a chain, or of another package, at its home
or into the channel to it (R224, R234, R383, R384).
-/
namespace Sys2Proof.Machine

/-! ### Tiles (R244, R245, R247) -/

/-- The physical number of tile `n` of a context, or none at TCOUNT or above. -/
def Ctx.tile? (c : Ctx) (n : Nat) : Option Nat := if n < bits c.tiles 16 8 then some (bits c.tiles 7 0 + n) else none

/-- OFFSET. -/
def Tile.offset (t : Tile) : Nat := bits t.w0 23 0

/-- ROWS. -/
def Tile.rows (t : Tile) : Nat := bits t.w1 8 0

/-- ROWBYTES. -/
def Tile.rowBytes (t : Tile) : Nat := bits t.w1 31 16

/-- PITCH. -/
def Tile.pitch (t : Tile) : Nat := bits t.w1 47 32

/-- LAYOUT. -/
def Tile.layout (t : Tile) : Nat := bits t.w1 56 56

/-- A valid descriptor (R245). -/
def Tile.valid (t : Tile) : Bool :=
  decide (1 ≤ t.rows) && decide (t.rows ≤ 256) && decide (1 ≤ t.rowBytes) && decide (t.rowBytes ≤ 4096) &&
    decide (t.offset % 16 = 0) && decide (t.pitch % 16 = 0) && decide (t.rowBytes ≤ t.pitch) &&
    decide (t.offset + (t.rows - 1) * t.pitch + t.rowBytes ≤ 2 ^ 24)

/-- A tile of a cluster. -/
def State.tile (s : State) (k t : Nat) : Tile := Table.get Tile.zero (s.cluster k).tiles t

/-- A copy that drains a tile (R285), as the physical number of its source. -/
def CopyJob.drains (j : CopyJob) : Option Nat :=
  let w := (j.record[10]?).getD 0
  match j.kind with
  | .copy | .handle _ => if w.getLsbD 47 then j.owner.ctx.tile? (bits w 55 48) else none
  | _ => none

/-- Whether a job of the cluster drains a tile. -/
def ClusterSt.copyDrains (c : ClusterSt) (t : Nat) : Bool := c.copies.toList.any fun u => u.queue.any fun j => j.drains == some t

/-- The slots parked in TEMPTY on a tile. -/
def State.drainers (s : State) (k t : Nat) : List Nat :=
  (s.threads.filter fun e => e.2.park.any fun p => p.why == .drain k t).map (·.1)

/-- Complete several parked slots. -/
def State.completeAll (s : State) : List Nat → State
  | [] => s
  | t :: ts => (s.complete t).completeAll ts

/-- Write an entry; one that is EMPTY has no tag, and the TEMPTYs that wait for it complete. -/
def State.putTile (s : State) (k t : Nat) (x : Tile) : State :=
  let x := if x.state = 0 then { x with tagv := false, tag := 0 } else x
  let s := s.updCluster k fun c => { c with tiles := Table.set Tile.zero t x c.tiles }
  if x.state = 0 then s.completeAll (s.drainers k t) else s

/-- A DRAINING tile without pins, which no copy drains, becomes EMPTY. -/
def State.settleTile (s : State) (k t : Nat) : State :=
  let x := s.tile k t
  if x.state = 3 ∧ x.pins = 0 ∧ !(s.cluster k).copyDrains t then s.putTile k t { x with state := 0 } else s

/-- Pin a tile. -/
def State.pin (s : State) (k t : Nat) : State :=
  let x := s.tile k t
  s.putTile k t { x with pins := x.pins + 1 }

/-- Unpin a tile. -/
def State.unpin (s : State) (k t : Nat) : State :=
  let x := s.tile k t
  (s.putTile k t { x with pins := x.pins - 1 }).settleTile k t

/-- Change the state of a tile. -/
def State.setTileState (s : State) (k t : Nat) (st : BitVec 2) (latch : Bool) : State :=
  s.putTile k t { s.tile k t with state := st, latch := latch }

/-- The home address of a row. -/
def Tile.rowPa (x : Tile) (k r : Nat) : Nat := spadPa k (x.offset + r * x.pitch)

/-- The bytes of a row. -/
def State.rowBytes (s : State) (k : Nat) (x : Tile) (r : Nat) : List Byte := s.bytesAt (x.rowPa k r) x.rowBytes

/-- Some word of a row cannot be corrected. -/
def State.rowBad (s : State) (k : Nat) (x : Tile) (r : Nat) : Bool := s.anyBad (x.rowPa k r) x.rowBytes

/-! ### Matrix engines -/

/-- An engine of a cluster. -/
def State.engine (s : State) (k o : Nat) : Engine := ((s.cluster k).engines[o]?).getD Engine.zero

/-- Change an engine. -/
def State.updEngine (s : State) (k o : Nat) (f : Engine → Engine) : State :=
  s.updCluster k fun c => { c with engines := c.engines.setIfInBounds o (f ((c.engines[o]?).getD Engine.zero)) }

/-! ### Units and their jobs (R276) -/

/-- A job unit by number: the copy unit of octet o of cluster k is 8 k + o, the lead stack engine of die d is 1024 + d. -/
def State.copyUnit (s : State) (u : Nat) : CopyUnit :=
  if u < 1024 then ((s.cluster (u / 8)).copies[u % 8]?).getD ⟨[], 0⟩ else (s.die (u - 1024)).stack

/-- Change a job unit. -/
def State.updUnit (s : State) (u : Nat) (f : CopyUnit → CopyUnit) : State :=
  if u < 1024 then
    s.updCluster (u / 8) fun c => { c with copies := c.copies.setIfInBounds (u % 8) (f ((c.copies[u % 8]?).getD ⟨[], 0⟩)) }
  else s.updDie (u - 1024) fun d => { d with stack := f d.stack }

/-- A job unit that exists. -/
def goodUnit (u : Nat) : Bool :=
  if u < 1024 then goodCluster (u / 8) && decide (u % 8 < 6) else decide (u < 1032)

/-- The job at the head of a unit's queue. -/
def State.headJob (s : State) (u : Nat) : Option CopyJob := (s.copyUnit u).queue.head?

/-- Change a job of a unit. -/
def State.updJob (s : State) (u id : Nat) (f : CopyJob → CopyJob) : State :=
  s.updUnit u fun x => { x with queue := x.queue.map fun (j : CopyJob) => if j.id = id then f j else j }

/-- Entries of a queue that are taken: a job leaves its queue when it ends. -/
def CopyUnit.used (x : CopyUnit) : Nat := (x.queue.filter fun j => j.ended.isNone).length

/-! ### Records (Tables 11.1, 11.7, 12.1) -/

/-- Word `i` of a job's record. -/
def CopyJob.w (j : CopyJob) (i : Nat) : Word := nth j.record i

/-- A region record, rather than a stencil or gather record. -/
def CopyKind.isRegion : CopyKind → Bool
  | .copy | .handle _ | .convert => true
  | _ => false

/-- A stencil job. -/
def CopyKind.isStencil : CopyKind → Bool
  | .restrict | .prolong => true
  | _ => false

/-- The word that holds the formats. -/
def CopyJob.fmtWord (j : CopyJob) : Word := if j.kind.isRegion then j.w 10 else j.w 7

/-- SFMT. -/
def CopyJob.sfmt (j : CopyJob) : Nat := bits j.fmtWord 4 0

/-- DFMT. -/
def CopyJob.dfmt (j : CopyJob) : Nat := bits j.fmtWord 9 5

/-- RM. -/
def CopyJob.rm (j : CopyJob) : Rm := rmOf (bits j.fmtWord 11 10)

/-- DKIND; TILE of a gather record is kind 1. -/
def CopyJob.dkind (j : CopyJob) : Nat :=
  if j.kind.isRegion then bits (j.w 10) 45 44 else if j.kind = .gather then bits (j.w 5) 55 55 else 0

/-- DRAIN. -/
def CopyJob.drain (j : CopyJob) : Bool := j.kind.isRegion && (j.w 10).getLsbD 47

/-- REMOTE. -/
def CopyJob.isRemote (j : CopyJob) : Bool := j.kind.isRegion && (j.w 15).getLsbD 63

/-- PKG. -/
def CopyJob.pkg (j : CopyJob) : Nat := bits (j.w 15) 62 48

/-- NOTIFY. -/
def CopyJob.notify (j : CopyJob) : Bool :=
  match j.kind with
  | .gather => (j.w 5).getLsbD 54
  | _ => j.fmtWord.getLsbD 46

/-- TAG. -/
def CopyJob.tag (j : CopyJob) : Nat :=
  match j.kind with
  | .gather => bits (j.w 5) 15 0
  | .restrict | .prolong => bits (j.w 10) 15 0
  | _ => bits (j.w 13) 15 0

/-- BARRIER. -/
def CopyJob.barrier (j : CopyJob) : Nat :=
  match j.kind with
  | .gather => bits (j.w 6) 47 0
  | .restrict | .prolong => bits (j.w 9) 47 0
  | _ => bits (j.w 12) 47 0

/-- The physical number of the destination tile. -/
def CopyJob.dtile (j : CopyJob) : Option Nat :=
  if j.dkind = 1 then j.owner.ctx.tile? (bits (if j.kind = .gather then j.w 5 else j.w 10) 63 56) else none

/-- The physical number of the drained tile. -/
def CopyJob.stile (j : CopyJob) : Option Nat := if j.drain then j.owner.ctx.tile? (bits (j.w 10) 55 48) else none

/-- The cluster whose tiles and windows a job names (R27). -/
def CopyJob.cluster (j : CopyJob) : Nat := clusterOf j.owner.slot

/-- DIMS, and a coarse extent of a stencil record. -/
def CopyJob.dims (j : CopyJob) : Nat := bits (j.w 2) 49 48

/-- Coarse extent `k`; 1 for an inactive dimension (R296). -/
def CopyJob.coarse (j : CopyJob) (k : Nat) : Nat := if k < j.dims then bits (j.w 2) (16 * k + 15) (16 * k) else 1

/-- Fine extent `k`. -/
def CopyJob.fine (j : CopyJob) (k : Nat) : Nat := 2 * j.coarse k - 1

/-- The extents of the destination, dimension 0 first. -/
def CopyJob.dstExt (j : CopyJob) : List Nat :=
  match j.kind with
  | .restrict => (List.range 3).map j.coarse
  | .prolong => (List.range 3).map j.fine
  | .gather => []
  | _ => [bits (j.w 2) 31 0, bits (j.w 2) 63 32, bits (j.w 3) 31 0, bits (j.w 3) 63 32]

/-- The extents of the source. -/
def CopyJob.srcExt (j : CopyJob) : List Nat :=
  match j.kind with
  | .restrict => (List.range 3).map j.fine
  | .prolong => (List.range 3).map j.coarse
  | _ => j.dstExt

/-- The strides of the source, from dimension 1. -/
def CopyJob.srcStr (j : CopyJob) : List Word := if j.kind.isStencil then [j.w 3, j.w 4] else [j.w 4, j.w 5, j.w 6]

/-- The strides of the destination. -/
def CopyJob.dstStr (j : CopyJob) : List Word := if j.kind.isStencil then [j.w 5, j.w 6] else [j.w 7, j.w 8, j.w 9]

/-! ### The destination stream (R277) -/

/-- Elements of one unit of the stream: no part of an element, 6-bit group or MX block on either side is split. -/
def CopyJob.elems (j : CopyJob) : Nat := if j.kind.isRegion then max (unitElems j.sfmt) (unitElems j.dfmt) else 1

/-- Bytes that a unit writes. -/
def CopyJob.outLen (j : CopyJob) : Nat := if j.kind = .gather then 8 else bytesFor j.dfmt j.elems

/-- Bytes that a unit reads. -/
def CopyJob.inLen (j : CopyJob) : Nat := bytesFor j.sfmt j.elems

/-- ROWBYTES and COUNT of a gather record. -/
def CopyJob.gRow (j : CopyJob) : Nat := bits (j.w 2) 63 48

/-- COUNT. -/
def CopyJob.gCount (j : CopyJob) : Nat := bits (j.w 2) 31 0

/-- Units in a run along dimension 0. -/
def CopyJob.perRun (j : CopyJob) : Nat := j.dstExt.headD 0 / j.elems

/-- Units in the stream. -/
def CopyJob.count (j : CopyJob) : Nat :=
  if j.kind = .gather then j.gCount * (j.gRow / 8) else j.perRun * (j.dstExt.drop 1).prod

/-- Bytes of the stream. -/
def CopyJob.total (j : CopyJob) : Nat := j.count * j.outLen

/-- The units of chunk `k`: those whose first byte it holds. -/
def CopyJob.unitsOf (j : CopyJob) (k : Nat) : List Nat :=
  let first (k : Nat) : Nat := min j.count ((4096 * k + j.outLen - 1) / j.outLen)
  (List.range (first (k + 1) - first k)).map (first k + ·)

/-- The indices from dimension 1 of run `r`. -/
def runIx : List Nat → Nat → List Nat
  | [], _ => []
  | e :: es, r => r % e :: runIx es (r / e)

/-- An address of R280: base, offset in the run, indices and strides, modulo 2^48. -/
def at48 (base : Word) (off : Nat) (ix : List Nat) (str : List Word) : Nat :=
  (bits base 47 0 + off + (List.zipWith (fun i (w : Word) => i * w.toNat) ix str).sum) % 2 ^ 48

/-- The bytes of a stream of a tile's footprint, as ranges of the scratchpad window. -/
def tileRanges (x : Tile) (q n : Nat) : List (Nat × Nat) :=
  if n = 0 ∨ x.rowBytes = 0 then []
  else (List.range ((q + n - 1) / x.rowBytes - q / x.rowBytes + 1)).map fun i =>
    let r := q / x.rowBytes + i
    let lo := max q (r * x.rowBytes)
    let hi := min (q + n) ((r + 1) * x.rowBytes)
    (0x1000000 + x.offset + r * x.pitch + (lo - r * x.rowBytes), hi - lo)

/-- Where element `e` of unit `u` of a distributed destination goes (R284): core, offset in its TCM, and bit of that byte. An MX block
goes where its first element goes (log 40). -/
def CopyJob.distPlace (j : CopyJob) (u e : Nat) : Nat × Nat × Nat :=
  let f := j.w 11
  let blk := bits f 63 48
  let dim := bits f 47 46
  let wide := bits f 7 4 + 1 - bits f 11 8
  let p := (bits f 13 12 + 1 - bits f 15 14) * wide
  let ix := ((u % j.perRun) * j.elems + e) :: runIx (j.dstExt.drop 1) (u / j.perRun)
  let i := (ix[dim]?).getD 0
  let rank := i / blk % p
  let ix := ix.set dim (i / (blk * p) * blk + i % blk)
  let bit := ix.headD 0 * (if isMx j.dfmt then 8 * bytesFor j.dfmt 32 / 32 else (fmtOfCode j.dfmt).width)
  ((bits f 15 14 + rank / wide) * 16 + bits f 11 8 + rank % wide, at48 (j.w 1) (bit / 8) (ix.drop 1) j.dstStr, bit % 8)

/-- The elements of a unit that are placed one by one: those of a distributed destination that is not MX. -/
def CopyJob.scatters (j : CopyJob) : Bool := j.dkind == 2 && !isMx j.dfmt

/-- The bytes that element `e` of a distributed unit touches: the number of bytes, its virtual address, and its bit in the first. -/
def CopyJob.spot (j : CopyJob) (u e : Nat) : Nat × Nat × Nat :=
  let (c, off, b) := j.distPlace u e
  ((b + (fmtOfCode j.dfmt).width + 7) / 8, 0x800000 + c * 0x20000 + off, b)

/-- Where a unit is written, as ranges of virtual addresses. -/
def CopyJob.dest (s : State) (j : CopyJob) (u : Nat) : List (Nat × Nat) :=
  match j.dtile with
  | some t => tileRanges (s.tile j.cluster t) (u * j.outLen) j.outLen
  | none =>
    if j.kind = .gather then
      [((bits (j.w 4) 47 0 + u / (j.gRow / 8) * bits (j.w 5) 47 32 + u % (j.gRow / 8) * 8) % 2 ^ 48, 8)]
    else if j.scatters then
      (List.range j.elems).map fun e => let x := j.spot u e; (x.2.1, x.1)
    else if j.dkind = 2 then
      let x := j.distPlace u 0
      [(0x800000 + x.1 * 0x20000 + x.2.1, j.outLen)]
    else [(at48 (j.w 1) (u % j.perRun * j.outLen) (runIx (j.dstExt.drop 1) (u / j.perRun)) j.dstStr, j.outLen)]

/-- The bytes at which a unit is written, in order. -/
def CopyJob.places (s : State) (j : CopyJob) (u : Nat) : List Nat :=
  (j.dest s u).flatMap fun r => (List.range r.2).map fun i => (r.1 + i) % 2 ^ 48

/-! ### Stencils (R295 to R298) -/

/-- A term of a table: offsets and numerator. -/
structure Term where
  d   : List Int
  num : Int
  deriving DecidableEq, Repr

/-- A term from its word. -/
def termOf (w : Word) : Term :=
  ⟨[(w.extractLsb' 0 8).toInt, (w.extractLsb' 8 8).toInt, (w.extractLsb' 16 8).toInt], (w.extractLsb' 32 16).toInt⟩

/-- NCLASS of a table. -/
def tableClasses (ws : List Word) : Nat := bits (nth ws 0) 3 0

/-- COUNT of a class. -/
def classCount (ws : List Word) (k : Nat) : Nat := bits (nth ws (1 + 33 * k)) 5 0

/-- The terms of a class. -/
def classTerms (ws : List Word) (k : Nat) : List Term :=
  (List.range (classCount ws k)).map fun t => termOf (nth ws (2 + 33 * k + t))

/-- The three indices of an output point. -/
def CopyJob.point (j : CopyJob) (u : Nat) : List Nat := runIx j.dstExt u

/-- The class of an output point. -/
def CopyJob.classOf (j : CopyJob) (o : List Nat) : Nat :=
  if j.kind = .prolong then ((List.range j.dims).map fun k => (o[k]?).getD 0 % 2 * 2 ^ k).sum else 0

/-- An index after the boundary mode of its dimension; none takes +0. -/
def bounded (mode : Nat) (n : Nat) (i : Int) : Option Nat :=
  if 0 ≤ i ∧ i < n then some i.toNat
  else
    match mode with
    | 0 => none
    | 1 => some (if i < 0 then 0 else n - 1)
    | _ => some (if n = 1 then 0 else (i % ((n - 1 : Nat) : Int)).toNat)

/-- The source index of a term at an output point, or none. -/
def CopyJob.sourceIx (j : CopyJob) (o : List Nat) (t : Term) : Option (List Nat) :=
  (List.range 3).mapM fun k =>
    if k < j.dims then
      let x : Int := ((o[k]?).getD 0 : Nat)
      let d := (t.d[k]?).getD 0
      let i := if j.kind = .restrict then 2 * x + d else (x + d) / 2
      bounded (bits (j.w 7) (17 + 2 * k) (16 + 2 * k)) ((j.srcExt[k]?).getD 1) i
    else some 0

/-- The reads of an output point: a term's number and its source index. -/
def CopyJob.termReads (j : CopyJob) (u : Nat) : List (Nat × List Nat) :=
  let o := j.point u
  let ts := classTerms j.table (j.classOf o)
  (List.range ts.length).filterMap fun n => ((ts[n]?).bind (j.sourceIx o)).map fun ix => (n, ix)

/-- What the parts of a read gave, end to end. -/
def CopyJob.gotOf (j : CopyJob) (key : Nat) : List Byte := (List.range 64).flatMap fun i => Table.get [] j.got (key * 64 + i)

/-- The value of an output point from what its reads gave (R298). -/
def CopyJob.pointValue (j : CopyJob) (u : Nat) : FVal :=
  let ts := classTerms j.table (j.classOf (j.point u))
  let shift : Nat := bits (nth j.table 0) 13 8
  (List.range ts.length).foldl (fun acc n =>
    let num := ((ts[n]?).map Term.num).getD 0
    let x : FVal :=
      match j.gotOf (u * 32 + n) with
      | [] => .fin false 0 0
      | bs => elemVal j.sfmt (natOfBytes bs)
    let w : FVal := .fin (decide (num < 0)) num.natAbs (-(shift : Int))
    decodeF .fp64 (encodeRound .fp64 .rne false false (exactFma .rne w x acc).v).bits) (.fin false 0 0)

/-! ### Reads -/

/-- The row of a gather's source (R308). -/
def CopyJob.rowVa (j : CopyJob) (idx : Nat) : Nat := (bits (j.w 0) 47 0 + idx * (j.w 3).toNat) % 2 ^ 48

/-- The reads that a unit needs, by number: a unit of a region is one; a term of an output point u is 32 u + its place; a gather
reads the index of row r as 2 r and unit u as 2 u + 1. -/
def CopyJob.keysOf (j : CopyJob) (u : Nat) : List Nat :=
  match j.kind with
  | .gather => [2 * u + 1]
  | .restrict | .prolong => (j.termReads u).map fun x => u * 32 + x.1
  | _ => [u]

/-- The bytes that a read gives. -/
def CopyJob.keyLen (j : CopyJob) (key : Nat) : Nat :=
  match j.kind with
  | .gather => if key % 2 = 0 then 4 else 8
  | _ => j.inLen

/-- Every read that a unit needs has been performed. -/
def CopyJob.unitReady (j : CopyJob) (u : Nat) : Bool := (j.keysOf u).all fun k => (j.gotOf k).length == j.keyLen k

/-- What a read reads, as ranges of virtual addresses; none while its index is not known. -/
def CopyJob.ranges (s : State) (j : CopyJob) (key : Nat) : List (Nat × Nat) :=
  match j.kind with
  | .gather =>
    if key % 2 = 0 then [((bits (j.w 1) 47 0 + 4 * (key / 2)) % 2 ^ 48, 4)]
    else
      let u := key / 2
      match j.gotOf (2 * (u / (j.gRow / 8))) with
      | [] => []
      | bs => [((j.rowVa (natOfBytes bs) + u % (j.gRow / 8) * 8) % 2 ^ 48, 8)]
  | .restrict | .prolong =>
    ((j.termReads (key / 32)).find? (·.1 == key % 32)).toList.map fun x =>
      (at48 (j.w 0) (x.2.headD 0 * j.inLen) (x.2.drop 1) j.srcStr, j.inLen)
  | _ =>
    match j.stile with
    | some t => tileRanges (s.tile j.cluster t) (key * j.inLen) j.inLen
    | none =>
      [(at48 (j.w 0) (key % j.perRun * j.inLen) (runIx (j.dstExt.drop 1) (key / j.perRun)) j.srcStr, j.inLen)]

/-- A range cut at words. -/
def wordPieces (a n : Nat) : List (Nat × Nat) :=
  (wordsTouched a n).map fun w => let lo := max a w; (lo, min (a + n) (w + 8) - lo)

/-- The reads of a number, each within one word, which stands at one home. -/
def CopyJob.readsOf (s : State) (j : CopyJob) (key : Nat) : List JobRead :=
  let ps := (j.ranges s key).flatMap fun r => wordPieces r.1 r.2
  (List.range ps.length).map fun i => let p := (ps[i]?).getD (0, 0); ⟨key, i, p.1 % 2 ^ 48, p.2⟩

/-- The reads that a chunk starts with: of a gather, those of rows whose index is known, and the other rows' indices. -/
def CopyJob.startReads (s : State) (j : CopyJob) : List JobRead :=
  let us := j.unitsOf j.chunk
  match j.kind with
  | .gather =>
    let rows := (us.map fun u => 2 * (u / (j.gRow / 8))).eraseDups
    (rows.filter fun k => (j.gotOf k).isEmpty).flatMap (j.readsOf s) ++ us.flatMap fun u => j.readsOf s (2 * u + 1)
  | _ => us.flatMap fun u => (j.keysOf u).flatMap (j.readsOf s)

/-- The reads of a gather's row in the present chunk, once its index is known. -/
def CopyJob.rowReads (s : State) (j : CopyJob) (row : Nat) : List JobRead :=
  ((j.unitsOf j.chunk).filter fun u => u / (j.gRow / 8) == row).flatMap fun u => j.readsOf s (2 * u + 1)

/-! ### Translation (R290, R309, R332) -/

/-- What the check of a footprint has found: the translations, the first refusal (statuses 1 and 4, or 0), the table entry that cannot
be corrected, the first target, whether two pages disagree, and whether policy refuses a page. -/
structure Foot where
  held   : List TlbEntry
  status : Nat
  bad    : Option Nat
  first  : Option Target
  span   : Bool
  refused : Bool
  deriving DecidableEq, Repr

/-- Nothing checked yet, with translations held. -/
def Foot.start (held : List TlbEntry) : Foot := ⟨held, 0, none, none, false, false⟩

/-- A translation that is held once. -/
def addHeld (e : TlbEntry) (l : List TlbEntry) : List TlbEntry := if l.contains e then l else l ++ [e]

/-- Take a target into a footprint. -/
def Foot.take (s : State) (o : JobOwner) (read : Bool) (t : Target) (f : Foot) : Foot :=
  { f with
    first := some (f.first.getD t)
    span := f.span || f.first.any fun x => !x.agrees t
    refused := f.refused || (read && !t.isLocal && (s.policy o.codeid t).isSome) }

/-- The target of a translation that a job holds. -/
def TlbEntry.target (e : TlbEntry) (va : Nat) : Target :=
  ⟨leafPa e.leaf + (va - e.va), bits e.leaf 8 6, bits e.leaf 63 52, bits e.leaf 5 2, false, false, leafPa e.leaf, e.span⟩

/-- One piece within a 64 KiB page. A page of a scratchpad is storage like any other (R26). -/
def State.footPiece (s : State) (o : JobOwner) (need : Need) (only : Storage → Bool) (f : Foot) (va n : Nat) : Foot :=
  if f.status ≠ 0 then f
  else if va < 2 ^ 32 then
    match localPa o.slot va, localPa o.slot (va + n - 1) with
    | some p, some q =>
      if q = p + n - 1 ∧ only (storageOf p) then f.take s o (need == Need.read) (.window p 0 false) else { f with status := 4 }
    | _, _ => { f with status := 4 }
  else
    match s.xlate o.slot o.ctx va with
    | .bad pa => { (f : Foot) with status := 1, bad := some pa }
    | .absent => { f with status := 4 }
    | .leaf e span =>
      let h : TlbEntry := ⟨o.ctx.id, va / span * span, span, e⟩
      let t := h.target va
      let st := storageOf t.pa
      if st = .nothing ∨ t.kind = 4 ∨ !permits e o.priv need ∨ !only st then { f with status := 4 }
      else ({ f with held := addHeld h f.held }).take s o (need == Need.read) t

/-- A range of addresses, which wraps modulo 2^48. -/
def State.footRange (s : State) (o : JobOwner) (need : Need) (only : Storage → Bool) (f : Foot) (r : Nat × Nat) : Foot :=
  (pagePieces r.1 r.2).foldl (fun f x => s.footPiece o need only f (x.1 % 2 ^ 48) x.2) f

/-- UELAST after a walk that met an entry that cannot be corrected (R330). -/
def State.noteFoot (s : State) (f : Foot) : State :=
  match f.bad with
  | some pa => s.noteBad pa 8
  | none => s

/-- Where a job's address leads, by its windows and the translations it holds (R332). -/
def CopyJob.place (j : CopyJob) (va : Nat) : Option Target :=
  if va < 2 ^ 32 then (localPa j.owner.slot va).map fun p => .window p 0 false
  else (j.held.find? fun e => decide (e.va ≤ va) && decide (va < e.va + e.span)).map fun e => e.target va

/-- The source row that a gather's index names: translated as it is read (R309). -/
def State.rowFoot (s : State) (j : CopyJob) (idx : Nat) : Foot :=
  s.footRange j.owner .read (· == .device) (Foot.start j.held) (j.rowVa idx, j.gRow)

/-- The status of a row's check. -/
def Foot.rowStatus (f : Foot) : Nat := if f.status ≠ 0 then f.status else if f.span then 5 else if f.refused then 6 else 0

/-! ### Homes that engines reach (R377, R383) -/

/-- The die of a unit: of a copy unit, a lead stack engine, the scale-out port (1032), a matrix engine (2048 + 8 k + o) (log 72). -/
def unitDie (u : Nat) : Nat :=
  if u < 1024 then u / 128 else if u < 1032 then u - 1024 else if u < 2048 then 7 else (u - 2048) / 128

/-- The cluster whose array rail an access of an engine waits for: that of a TCM or scratchpad which is not ON (R377). -/
def State.asleep (s : State) (pa : Nat) : Option Nat :=
  let k := match storageOf pa with
    | .tcm => some ((pa - 2 ^ 52) / 2 ^ 23)
    | .spad => some (pa / 2 ^ 40 % 256 * 16 + pa / 2 ^ 32 % 256)
    | _ => none
  k.filter fun k => (s.cluster k).railSpad != 2

/-! ### Reads of a copy or stack job (R234, R304, R310) -/

/-- The job fails in its present chunk: what it has not issued is not issued. -/
def State.failJob (s : State) (u id st : Nat) : State :=
  s.updJob u id fun j => { j with ended := some (j.ended.getD st), reads := [], pieces := [] }

/-- Count what a read delivered: a stencil each home byte once; a drained tile's tag where the destination is no tile. -/
def State.countRead (s : State) (u : Nat) (j : CopyJob) (pa n : Nat) (region : Option Nat) : State :=
  let slot := j.owner.slot
  let fresh := !j.kind.isStencil || !j.counted.contains pa
  let s := if fresh then s.count region false n slot else s
  let s := match j.stile with
    | some t =>
      let x := s.tile j.cluster t
      if x.tagv && j.dkind != 1 then s.count (some x.tag.toNat) false n slot else s
    | none => s
  if j.kind.isStencil && fresh && region.isSome then s.updJob u j.id fun j => { j with counted := j.counted ++ [pa] } else s

/-- The region that a destination tile takes from a read: a metered source page's, or the drained tile's (R283, R285, R310). -/
def CopyJob.tagFrom (s : State) (j : CopyJob) (region : Option Nat) : Option Nat :=
  match j.stile with
  | some t => let x := s.tile j.cluster t; if x.tagv then some x.tag.toNat else none
  | none => region

/-- A destination tile takes its tag at the first read that has one. -/
def State.tagTile (s : State) (j : CopyJob) (tag : Option Nat) : State :=
  match j.dtile, tag with
  | some t, some r => s.putTile j.cluster t { s.tile j.cluster t with tagv := true, tag := BitVec.ofNat 12 r }
  | _, _ => s

/-- A gather's index is known: its row is checked, and the row's reads of the present chunk stand ready. -/
def State.rowKnown (s : State) (u id row : Nat) : State :=
  match (s.copyUnit u).queue.find? (·.id == id) with
  | none => s
  | some j =>
    let bs := j.gotOf (2 * row)
    if bs.length ≠ 4 then s
    else
      let f := s.rowFoot j (natOfBytes bs)
      let st := f.rowStatus
      if st ≠ 0 then (s.noteFoot f).failJob u id st
      else s.updJob u id fun j => { j with held := f.held, reads := j.reads ++ j.rowReads s row }

/-- One read of a job is performed at its home. A job that has ended takes nothing more, but the read counts (R304); a read that finds
its region no longer OPEN is refused (R403, R411). -/
def State.readAt (s : State) (u : Nat) (j : CopyJob) (pa : Nat) (r : JobRead) : State :=
  if s.anyBad pa r.n then (if j.ended.isSome then s else (s.noteBad pa r.n).failJob u j.id 1)
  else
    let region := (j.place r.va).bind fun t => if t.kind = 3 then some t.region else none
    let shut := region.any fun n => (s.region n).state != .opened
    let bs := s.bytesAt pa r.n
    let s := if shut then s else s.countRead u j pa r.n region
    let index := j.kind == .gather && r.key % 2 == 0
    let tag := if index then none else j.tagFrom s region
    if j.ended.isSome then s
    else if shut then s.failJob u j.id 6
    else if tag.isSome ∧ j.tagged.isSome ∧ tag ≠ j.tagged then s.failJob u j.id 5
    else
      let s := s.updJob u j.id fun j =>
        { j with got := Table.set [] (r.key * 64 + r.part) bs j.got, tagged := j.tagged.orElse fun _ => tag }
      let s := s.tagTile j tag
      if index then s.rowKnown u j.id (r.key / 2) else s

/-- ER of a copy or stack job: read `n` of those left in the present chunk. -/
def State.engineRead (s : State) (u : Nat) (j : CopyJob) (n : Nat) : State :=
  match j.reads[n]? with
  | none => s
  | some r =>
    match j.place r.va with
    | none => s.failJob u j.id 4
    | some t =>
      if !t.isLocal && (s.policy j.owner.codeid t).isSome then s.failJob u j.id 6
      else if homeDie t.pa = unitDie u then
        match s.asleep t.pa with
        | some k => s.setWake k .access
        | none => (s.updJob u j.id fun j => { j with reads := j.reads.eraseIdx n }).readAt u j t.pa r
      else
        (s.updJob u j.id fun j => { j with reads := j.reads.eraseIdx n, away := j.away ++ [r] }).enqueue (unitDie u) (homeDie t.pa)
          (.jobRead u j.id t.pa j.owner.ctx.id r)

/-- A read that comes out of a channel. -/
def State.readHere (s : State) (u id pa : Nat) (r : JobRead) : State :=
  match (s.copyUnit u).queue.find? (·.id == id) with
  | none => s
  | some j => (s.updJob u id fun j => { j with away := j.away.erase r }).readAt u j pa r

/-! ### Writes at a home -/

/-- The bytes of a write as they stand once the bits that it keeps are taken from the home (R284). -/
def JobWrite.merged (s : State) (w : JobWrite) : List (Option Byte) :=
  (List.range w.bytes.length).map fun i =>
    match (w.bytes[i]?).join, w.part.find? (·.1 == i) with
    | some b, some (_, m) => some ((b &&& m) ||| (s.byte (w.pa + i) &&& ~~~m))
    | x, _ => x

/-- One write of an engine at its home: performed, or lost whole. A word of which it changes only some bits must be readable. -/
def State.jobWrite (s : State) (ctx : BitVec 12) (w : JobWrite) : State × Bool :=
  if (s.seal? w.pa ctx).isNone ∧ w.part.any fun x => s.uncorrectable (w.pa + x.1) then
    ((s.noteBad w.pa w.bytes.length).addLoss w.pa ctx w.va, false)
  else s.engineWrite ctx w.va w.pa (w.merged s)

/-- Change what an engine is doing. -/
def State.updWork (s : State) (k o : Nat) (f : MatWork → MatWork) : State :=
  s.updEngine k o fun e => { e with work := e.work.map f }

/-- The number of an incoming frame among the writes of unit 1032. -/
def Incoming.key (x : Incoming) : Nat := x.pkg * 2 ^ 32 + x.seq

/-- The frames of a package that have come in order and are not yet acknowledged. -/
def State.unansweredOf (s : State) (pkg : Nat) : List Incoming := s.incoming.filter (·.pkg == pkg)

/-- An acknowledgement of everything that has come in order on a stream and, for writes, has been performed (R423, R424); `dest` names
the class that it acknowledges. None leaves for a package without a valid entry or while PKGID is unset (R422, log 42). -/
def State.sendAck (s : State) (pkg cls : Nat) : State :=
  match s.peerOf pkg with
  | none => s
  | some peer =>
    if s.pkgid = 0x7FFF then s
    else
      let x := Table.get Stream.zero s.streams (streamKey pkg cls)
      let left := if cls = 0 then (s.unansweredOf pkg).length else 0
      let upTo := (x.expect + 2 ^ 33 - 1 - left) % 2 ^ 32
      let f : Frame := ⟨peer.a.getLsbD 62, peer.mac.setWidth 48, s.pkgid.toNat, pkg, 2, 0, upTo, BitVec.ofNat 64 cls, 0, [], 0⟩
      { s with sent := s.sent ++ [f] }

/-- The frames of a package whose writes have all been performed or lost, oldest first, are acknowledged. -/
def State.ackPort (s : State) (pkg : Nat) : State :=
  let done := (s.unansweredOf pkg).takeWhile fun x => x.writes.isEmpty && x.flying == 0
  if done = [] then s
  else ({ s with incoming := s.incoming.filter fun x => !done.contains x } : State).sendAck pkg 0

/-- What a unit learns when one of its writes has been performed or lost; `sent` says that it came out of a channel. -/
def State.wrote (s : State) (u id : Nat) (sent ok : Bool) : State :=
  let less (n : Nat) : Nat := if sent then n - 1 else n
  if u = 1032 then
    ({ s with incoming := s.incoming.map fun x => if x.key = id then { x with flying := less x.flying } else x } : State).ackPort
      (id / 2 ^ 32)
  else if 2048 ≤ u then
    s.updWork ((u - 2048) / 8) ((u - 2048) % 8) fun w =>
      if w.id = id then { w with flying := less w.flying, lost := w.lost || !ok } else w
  else
    let s := s.updJob u id fun j => { j with flying := less j.flying }
    if ok then s else s.failJob u id 2

/-- Perform a write of a unit at its home. -/
def State.writeHere (s : State) (u id : Nat) (ctx : BitVec 12) (w : JobWrite) (sent : Bool) : State :=
  let (s, ok) := s.jobWrite ctx w
  s.wrote u id sent ok

/-- A byte credit at a barrier's home (R293); a barrier that cannot be written loses it, and its job has lost a write. -/
def State.creditHere (s : State) (u id pa : Nat) (ctx : BitVec 12) (va : Word) (n : Nat) (sent : Bool) : State :=
  if (s.seal? pa ctx).isSome ∨ s.guarded pa 32 ∨ s.anyBad pa 32 then
    let s := ((s.noteBad pa 32).addLoss pa ctx va).wrote u id sent true
    s.updJob u id fun j => { j with ended := some (if j.ended = some 0 then 2 else j.ended.getD 2), reads := [], pieces := [] }
  else (s.barrierCredit pa n).wrote u id sent true

/-- A write that enters a channel is one more that its unit waits for. -/
def State.launched (s : State) (u id : Nat) : State :=
  if u = 1032 then
    { s with incoming := s.incoming.map fun x => if x.key = id then { x with flying := x.flying + 1 } else x }
  else if 2048 ≤ u then
    s.updWork ((u - 2048) / 8) ((u - 2048) % 8) fun w => if w.id = id then { w with flying := w.flying + 1 } else w
  else s.updJob u id fun j => { j with flying := j.flying + 1 }

/-- EW of one write: `take` removes it from its unit. At a home of the unit's die it is performed, to another it enters the channel;
one that must wait for an array rail stays (R377). -/
def State.issueWrite (s : State) (u id : Nat) (ctx : BitVec 12) (w : JobWrite) (take : State → State) : State :=
  if homeDie w.pa = unitDie u then
    match s.asleep w.pa with
    | some k => s.setWake k .access
    | none => (take s).writeHere u id ctx w false
  else ((take s).launched u id).enqueue (unitDie u) (homeDie w.pa) (.jobWrite u id ctx w)

/-! ### Writes of a copy or stack job -/

/-- The elements that a unit writes and their scales, from the bytes read (R281, R311): copied, or converted; the bits 12-0 of an FP19
container are written 0 (R101). -/
def CopyJob.converted (j : CopyJob) (bs : List Byte) : List Nat × List Nat :=
  let sf := j.sfmt
  let df := j.dfmt
  let sat := j.fmtWord.getLsbD 12
  let (xs, sc) := readPlain sf j.elems bs
  if sf = df then (if sf = 2 then xs.map fun x => x / 2 ^ 13 * 2 ^ 13 else xs, sc)
  else
    let vs := if isMx sf then xs.map (scaled sf (sc.headD 127)) else xs.map (elemVal sf)
    if isMx df then toMx df j.rm sat vs else (vs.map (toElem df j.rm sat), [])

/-- The bytes that a unit writes, from what the reads gave. -/
def CopyJob.output (j : CopyJob) (u : Nat) : List Byte :=
  match j.kind with
  | .gather => j.gotOf (2 * u + 1)
  | .restrict | .prolong => bytesOf (toElem j.dfmt j.rm false (j.pointValue u)) j.outLen
  | _ => let (es, sc) := j.converted (j.gotOf u); writePlain j.dfmt es sc

/-- A byte that a unit writes: its virtual address, value and the bits that are written. -/
structure OutByte where
  va   : Nat
  b    : Byte
  mask : Byte
  deriving DecidableEq, Repr

/-- The bytes of an element that starts at a bit of a byte. -/
def elemBytes (va bit width n : Nat) (v : Nat) : List OutByte :=
  (List.range n).map fun i =>
    ⟨va + i, BitVec.ofNat 8 (v % 2 ^ width * 2 ^ bit / 256 ^ i), BitVec.ofNat 8 ((2 ^ width - 1) * 2 ^ bit / 256 ^ i)⟩

/-- The bytes of one unit, in order. -/
def CopyJob.outBytes (s : State) (j : CopyJob) (u : Nat) : List OutByte :=
  if j.scatters then
    let es := (j.converted (j.gotOf u)).1
    (List.range j.elems).flatMap fun e =>
      let (n, va, b) := j.spot u e
      elemBytes va b (fmtOfCode j.dfmt).width n ((es[e]?).getD 0)
  else (List.zip (j.places s u) (j.output u)).map fun x => ⟨x.1, x.2, 0xFF⟩

/-- The byte at an address of the destination space of a job: a home address, or an address of another package. -/
def CopyJob.destPa (j : CopyJob) (va : Nat) : Option Nat := if j.isRemote then some va else (j.place va).map (·.pa)

/-- What a piece has of one byte so far: address, virtual address, value and bits written. -/
abbrev PieceByte := Nat × Nat × Byte × Byte

/-- Put a byte into a piece; a later element wins (R280). -/
def addByte (j : CopyJob) (p : Piece) (t : Table (Option PieceByte)) (x : OutByte) : Table (Option PieceByte) :=
  match j.destPa x.va with
  | some pa =>
    if p.lo ≤ pa ∧ pa < p.lo + p.len then
      let new : PieceByte := match Table.get none t pa with
        | some (_, _, b, m) => (pa, x.va, (b &&& ~~~x.mask) ||| (x.b &&& x.mask), m ||| x.mask)
        | none => (pa, x.va, x.b &&& x.mask, x.mask)
      Table.set none pa (some new) t
    else t
  | none => t

/-- The bytes of a piece, by address. -/
def CopyJob.pieceBytes (s : State) (j : CopyJob) (p : Piece) : List PieceByte :=
  ((p.units.flatMap (j.outBytes s)).foldl (addByte j p) []).filterMap (·.2)

/-- One write from the bytes of a pair. -/
def pairWrite (xs : List PieceByte) : JobWrite :=
  let lo := ((xs.head?).map (·.1)).getD 0
  let hi := ((xs.getLast?).map (·.1)).getD 0
  let find (a : Nat) : Option PieceByte := xs.find? (·.1 == a)
  { va := BitVec.ofNat 64 (((xs.head?).map (·.2.1)).getD 0)
    pa := lo
    bytes := (List.range (hi + 1 - lo)).map fun i => (find (lo + i)).map (·.2.2.1)
    part := xs.filterMap fun x => if x.2.2.2 = 0xFF then none else some (x.1 - lo, x.2.2.2) }

/-- A unit of the stream that touches some bytes of a table of pieces. -/
def addUnit (u : Nat) (t : Table (List Nat)) (key : Nat) : Table (List Nat) :=
  let old := Table.get [] t key
  if old.getLast? = some u then t else Table.set [] key (old ++ [u]) t

/-- Runs of consecutive addresses of at most 4,096 bytes, with their units. -/
def runsOf : List (Nat × List Nat) → List Piece → List Piece
  | [], acc => acc.reverse
  | (a, us) :: rest, [] => runsOf rest [⟨a, 1, us⟩]
  | (a, us) :: rest, p :: ps =>
    if a = p.lo + p.len ∧ p.len < 4096 then
      runsOf rest ({ p with len := p.len + 1, units := p.units ++ us.filter fun u => !p.units.contains u } :: ps)
    else runsOf rest (⟨a, 1, us⟩ :: p :: ps)

/-- A run as frames of whole words and what is left (Table 18.4, log 41). -/
def Piece.frames (p : Piece) : List Piece :=
  let n := p.len / 8 * 8
  (if n = 0 then [] else [{ p with len := n }]) ++ if n = p.len then [] else [{ p with lo := p.lo + n, len := p.len - n }]

/-- The writes of the present chunk: one for each pair of words (R234), or for a frame to another package. -/
def CopyJob.plan (s : State) (j : CopyJob) : List Piece :=
  let us := j.unitsOf j.chunk
  let group (f : Nat → Nat) : Table (List Nat) :=
    us.foldl (fun t u => ((j.places s u).filterMap j.destPa).foldl (fun t pa => addUnit u t (f pa)) t) []
  if j.isRemote then (runsOf (group fun a => a) []).flatMap Piece.frames
  else (group (· / 16)).map fun e => ⟨e.1 * 16, 16, e.2⟩

/-- A write may be issued once every read that its units need has been performed, and no read of the chunk that is still to come reads
what it writes (R277, R303). -/
def CopyJob.mayWrite (j : CopyJob) (p : Piece) : Bool :=
  p.units.all j.unitReady &&
    (j.isRemote || (j.reads ++ j.away).all fun r => match j.place r.va with
      | some t => !overlaps t.pa r.n p.lo p.len
      | none => true)

/-! ### Requests of the host at a home (R418) -/

/-- Send something to the host. -/
def State.toHost (s : State) (x : HostOut) : State := { s with hostOut := s.hostOut ++ [x] }

/-- The bytes of one word that a host read gives; those of a word that cannot be corrected are free (log 22). -/
def State.hostBytes (s : State) (pa n : Nat) : State × List Byte :=
  if s.uncorrectable pa then
    let v := Config.freeWord s.fresh
    ({ s.noteBad pa n with fresh := s.fresh + 1 }, (List.range n).map fun i => BitVec.ofNat 8 (v.toNat / 256 ^ ((pa + i) % 8)))
  else (s, s.bytesAt pa n)

/-- Part of a host read is performed at its home, whatever the word's bit or hold (mode ignore, R216); the last part sends the
answer. A word that is protected by now gives no data (R402). -/
def State.hostReadHere (s : State) (id pa n : Nat) : State :=
  match s.hostReads.find? (·.id == id) with
  | none => s
  | some x =>
    let rest := s.hostReads.filter (·.id != id)
    if s.guarded pa n then { s with hostReads := rest }.toHost .abort
    else
      let (s, bs) := s.hostBytes pa n
      let x : HostRead := { x with got := Table.set [] pa bs x.got, left := x.left - 1 }
      if x.left = 0 then { s with hostReads := rest }.toHost (.data (x.got.flatMap fun (e : Nat × List Byte) => e.2))
      else { s with hostReads := rest ++ [x] }

/-- A host write of one word: its bytes are written, and its bit stays (mode ignore); a part of a word that cannot be corrected is lost,
and a whole word repairs it (R207). A write to a protected word is discarded and counted (R402). -/
def State.hostWriteHere (s : State) (id pa : Nat) (bs : List Byte) : State :=
  let part := bs.map some
  let s :=
    if s.guarded pa bs.length then s.updDie (homeDie pa) fun d => { d with hdrops := sat64 d.hdrops }
    else if s.uncorrectable pa && !coversWord pa (wordOf pa) part then s.noteBad pa 1
    else ((s.putBytes pa part).settleBits false pa part [wordOf pa]).serveAll [wordOf pa]
  s.hostWrote id

/-! ### Matrix engines' reads and writes -/

/-- The phase ends early with a status. -/
def MatWork.fail (st : Nat) (w : MatWork) : MatWork := { w with phase := .done st, reads := [] }

/-- ER of a matrix engine: one word of an operand. -/
def State.matRead (s : State) (k o n : Nat) : State :=
  match (s.engine k o).work with
  | none => s
  | some w =>
    match w.reads[n]? with
    | none => s
    | some pa =>
      if s.uncorrectable pa then (s.noteBad pa 8).updWork k o (MatWork.fail 1)
      else
        let v := s.word pa
        s.updWork k o fun w => { w with reads := w.reads.eraseIdx n, got := Table.set 0 pa v w.got }

/-- EW of a matrix engine, in the context of its first job. -/
def State.matWrite (s : State) (k o n : Nat) (ctx : BitVec 12) : State :=
  match (s.engine k o).work with
  | none => s
  | some w =>
    match w.writes[n]? with
    | none => s
    | some x => s.issueWrite (2048 + 8 * k + o) w.id ctx x fun s => s.updWork k o fun w => { w with writes := w.writes.eraseIdx n }

/-- An engine can run: its switch, the clocks and the array rail are on (R271, R374, R377). -/
def State.engineOn (s : State) (k o : Nat) : Bool :=
  let c := s.cluster k
  c.railEng.getLsbD o && !c.gate && !(s.engine k o).gated && c.railSpad == 2

/-- A number of a matrix engine among the units. -/
def matUnit (u : Nat) : Option (Nat × Nat) :=
  let k := (u - 2048) / 8
  if 2048 ≤ u ∧ goodCluster k ∧ u % 8 < 6 then some (k, u % 8) else none

end Sys2Proof.Machine
end

