-- ==== Sys2Proof/Machine/Access.lean ====
section
/-!
DEFINITION. Sys2Proof/Machine/Access.lean: an access on its way (R223, R224): its action at the home or its entry into a
channel, channels (ND), releases and the seal check (R227, R228, R241), the checks of Table 3.6 with R213, R218, R394 and
R403 in their order, window fills (R67) and the pop of an adoption frame (R198).
-/
namespace Sys2Proof.Machine

/-! ### The action at a home -/

/-- Change why a slot is parked. -/
def State.repark (s : State) (tid : Nat) (why : Park) : State :=
  s.upd tid fun t => { t with park := t.park.map fun p => { p with why := why } }

/-- An access that has reached its home acts there, and what follows for its parked thread. -/
def State.actHere (s : State) (a : Access) : State :=
  match a.op with
  | .device w v rd => s.actDevice a w v rd
  | _ =>
    match s.act a with
    | .done s ws => (s.dropAt (clusterOf a.tid) ws).serveAll ws
    | .sweep ws => (s.emptyWords a ws).finish a
    | .wait ws w => (s.enlist ⟨ws, w, .perform a⟩).repark a.tid (.word a)
    | .park ws w => ((s.enlist ⟨ws, w, .again a.tid⟩).unclaim a.tid).repark a.tid .queueWord
    | .help word owner s => s.help a word owner
    | .phase p s _ => s.repark a.tid (.barWait a p)
    | .trap c addr => s.accessTrap a c addr

/-! ### Channels -/

/-- One item of a channel is performed at its home. -/
def State.performItem (s : State) (x : ChanItem) : State :=
  match x with
  | .store e => s.performStore e
  | .access a => s.actHere a
  | .put p => s.performPut p
  | .update u => s.performUpdate u
  | .jobRead u id pa _ r => s.readHere u id pa r
  | .jobWrite u id ctx w => s.writeHere u id ctx w true
  | .jobCredit u id pa ctx va n => s.creditHere u id pa ctx va n true
  | .hostRead id pa n => s.hostReadHere id pa n
  | .hostWrite _ id pa bs => s.hostWriteHere id pa bs

/-- The home of an engine's request (R377). -/
def ChanItem.enginePa : ChanItem → Option Nat
  | .jobRead _ _ pa _ _ => some pa
  | .jobWrite _ _ _ w => some w.pa
  | .jobCredit _ _ pa _ _ _ => some pa
  | _ => none

/-- A channel's items, oldest first. -/
def State.chan (s : State) (d e : Nat) : List ChanItem := Table.get [] s.chans (chanKey d e)

/-- ND: the head of a channel is performed, where the route carries traffic (R387); an engine's request waits there for the array rail
of its home (R377). -/
def State.deliverHead (s : State) (d e : Nat) : State :=
  match s.chan d e with
  | [] => s
  | x :: rest =>
    if s.routeOpen d e then
      match x.enginePa.bind s.asleep with
      | some k => s.setWake k .access
      | none => ({ s with chans := Table.set [] (chanKey d e) rest s.chans }).performItem x
    else s

/-- ND several times. -/
def State.deliverTimes (s : State) (d e : Nat) : Nat → State
  | 0 => s
  | n + 1 => (s.deliverHead d e).deliverTimes d e n

/-- ND until what a channel holds now has been performed. -/
def State.drainChan (s : State) (d e : Nat) : State := s.deliverTimes d e (s.chan d e).length

/-- ND (R384). -/
def execNd (src dst : Nat) (s : State) : Out := .next (if src < 8 ∧ dst < 8 then s.deliverHead src dst else s)

/-- The die whose home an access acts at: a register block that no die has is answered where it is asked. -/
def homeFor (tid pa : Nat) : Nat := if homeDie pa < 8 then homeDie pa else dieOf tid

/-! ### Releases (R227, R428) -/

/-- An item of a channel that a release of package scope by a slot waits for. -/
def ChanItem.owedBy (tid : Nat) : ChanItem → Bool
  | .store e => e.cluster == clusterOf tid
  | .put p => p.owner == tid
  | .update u => u.owner == tid
  | _ => false

/-- A position after the last item that a release waits for. -/
def lastOwed (tid : Nat) : List ChanItem → Nat
  | [] => 0
  | x :: xs =>
    let n := lastOwed tid xs
    if n ≠ 0 then n + 1 else if x.owedBy tid then 1 else 0

/-- The channels of a die deliver up to the last item that a release waits for. -/
def State.flush (s : State) (tid : Nat) : List Nat → State
  | [] => s
  | e :: es => (s.deliverTimes (dieOf tid) e (lastOwed tid (s.chan (dieOf tid) e))).flush tid es

/-- Something that a release of package scope waits for is still under way. -/
def State.owing (s : State) (tid : Nat) : Bool := allDies.any fun e => (s.chan (dieOf tid) e).any (·.owedBy tid)

/-- A release of a scope by a slot; the flag says whether it is complete (log 15). -/
def State.release (s : State) (tid scope : Nat) : State × Bool :=
  if isCtl tid then
    let s := s.flush tid allDies
    (s, !s.owing tid)
  else if scope = 0 then (s, true)
  else
    let s := s.qdAll (coreOf tid)
    if scope = 1 then (s, true)
    else
      let s := s.bdAll (clusterOf tid)
      if scope = 2 then (s, true)
      else
        let s := s.flush tid allDies
        (s, !s.owing tid && (scope == 3 || !s.remoteOwing (s.thread tid).ctx.id))

/-- Whether a scope of a slot holds the home named by HKIND and HOME of Table 9.7. R241 does not say which homes scope co holds: the
model takes the own core's TCM, or a control core's own memories (log 71: DESIGN CHOICE). -/
def homeInScope (tid scope kindHome : Nat) : Bool :=
  let kind := kindHome / 65536
  let home := kindHome % 65536
  let die := match kind with
    | 0 => home / 576
    | 1 => home / 12
    | 3 => home / 2
    | _ => home
  if 3 ≤ scope then true
  else if scope = 2 then die == dieOf tid
  else if isCtl tid then kind == 4 && home == dieOf tid
  else
    let k := clusterOf tid / 16 * 12 + clusterOf tid % 16
    if scope = 1 then (kind == 0 && home / 48 == k) || (kind == 1 && home == k)
    else kind == 0 && home == k * 48 + coreIn tid

/-- The seal of a slot's context that covers a home in a scope, with its key. -/
def State.sealIn (s : State) (tid scope : Nat) : Option (Nat × Seal) :=
  (s.seals.find? fun e => e.2.isSome && e.1 % 4096 == (s.thread tid).ctx.id.toNat && homeInScope tid scope (e.1 / 4096)).bind
    fun e => e.2.map fun x => (e.1 / 4096, x)

/-- Cause 13 of the issuing slot for a seal (Table 9.7). -/
def State.sealTrap (s : State) (k : Nat) (x : Seal) : State :=
  s.deliver s.cur ⟨13, s.me.pc, x.addr, BitVec.ofNat 64 (x.count * 2 ^ 32 + k)⟩

/-- The issuing slot releases a scope, takes cause 13 where a seal covers a home of it (R241), and goes on as given. A
release that waits for other parties parks the group, which re-executes. -/
def State.releasing (s : State) (scope : Nat) (k : State → State) : State :=
  let (s, complete) := s.release s.cur scope
  if complete then
    match s.sealIn s.cur scope with
    | some (key, x) => s.sealTrap key x
    | none => k s
  else s.parkAgain (.release scope)

/-- A release that only some groups make. -/
def State.releasingOpt (s : State) (scope : Option Nat) (k : State → State) : State :=
  match scope with
  | some sc => s.releasing sc k
  | none => k s

/-! ### Issuing an access -/

/-- An access that a group makes: address, size, alignment, need and operation; the releases and acquires around it;
strong or not; its mode; whether it is an atomic or an object instruction (R218), and whether it migrates (R394). -/
structure Request where
  va     : Word
  size   : Nat
  align  : Nat
  need   : Need
  op     : HomeOp
  rel    : Option Nat
  acq    : Option Nat
  strong : Bool
  cached : Bool
  fe     : BitVec 2
  object : Bool
  roams  : Bool
  deriving DecidableEq, Repr

/-- The release that an order makes (R228, R229). -/
def relOf (order : BitVec 2) (scope : Nat) : Option Nat :=
  if order = 0 then some 4 else if order = 3 then some scope else none

/-- The acquire that an order makes. -/
def acqOf (order : BitVec 2) (scope : Nat) : Option Nat :=
  if order = 0 then some 4 else if order = 2 then some scope else none

/-- A request of a group with its PFX.M. -/
def accessOf (m : Option MPfx) (va : Word) (size align : Nat) (need : Need) (op : HomeOp) (object roams : Bool) : Request where
  va := va
  size := size
  align := align
  need := need
  op := op
  rel := relOf (orderOf m) (scopeOfM m)
  acq := acqOf (orderOf m) (scopeOfM m)
  strong := orderOf m == 0
  cached := orderOf m == 1
  fe := feOf m
  object := object
  roams := roams

/-- A load, plain or vector. -/
def HomeOp.isLoad : HomeOp → Bool
  | .load _ _ | .loadV _ => true
  | _ => false

/-- A store. -/
def HomeOp.isStore : HomeOp → Bool
  | .store _ => true
  | _ => false

/-- The refusals of R213, R218 and R372: causes 5 and 7. -/
def Request.refused (q : Request) (t : Target) : Option Nat :=
  if q.object then (if atomicTarget t then none else some 7)
  else if t.isReg then
    (if q.size = 8 ∨ (q.size = 4 ∧ !t.ctl) then (if q.fe = 0 then none else some 7) else some 5)
  else none

/-- Which clusters a migrating thread prefers (Table 16.5). -/
def homePref (pa : Nat) : Nat :=
  match storageOf pa with
  | .device => pa / 256 % 2
  | _ => 2

/-- What an access does at device registers. -/
def HomeOp.atRegs : HomeOp → HomeOp
  | .load signed rd => .device false (if signed then 1 else 0) rd
  | .store v => .device true (BitVec.ofNat 64 v) 0
  | op => op

/-- The index that names the entry of a queue instruction. -/
def HomeOp.indexWord (op : HomeOp) (pa : Nat) : Option Nat :=
  match op with
  | .qpush _ | .qres _ _ => some (pa + 8)
  | .qpop _ => some pa
  | _ => none

/-- Drain what the words of a direct access still have in the buffers: its own, then the entry that a queue header names
(R223). -/
def State.drainFor (s : State) (a : Access) : State :=
  let s := s.drainWords a.tid a.words
  match a.op.indexWord a.pa with
  | none => s
  | some w =>
    match s.queueEntry a (s.word w).toNat with
    | .ok y => s.drainWords a.tid [y.pa, y.pa + 8]
    | .trap _ _ => s

/-- The thread parks for the reply; the access acts at its home or enters the channel there. -/
def State.direct (s : State) (q : Request) (t : Target) (drops : Nat) (op : HomeOp) (got : Table Byte) : State :=
  let reg := t.isReg
  let forwarding := op.isLoad && q.fe == 0 && !q.strong && !reg && !isCtl s.cur
  let a : Access :=
    { tid := s.cur, va := q.va, pa := t.pa, size := q.size, fe := q.fe, op := if reg then op.atRegs else op, got := got
      acq := if reg then some 4 else q.acq, strong := q.strong || reg
      region := if t.kind = 3 then some t.region else none, ctx := s.me.ctx.id }
  let s := if forwarding ∨ reg then s else s.drainFor a
  let s := s.parkMe (.reply a) drops
  if homeFor a.tid a.pa = dieOf a.tid ∨ (forwarding && a.missing.isEmpty) then s.actHere a
  else s.enqueue (dieOf a.tid) (homeFor a.tid a.pa) (.access a)

/-- DA, QS, LF and LH: a checked access leaves the core. -/
def State.send (s : State) (q : Request) (t : Target) (drops : Nat) : State :=
  let reg := t.isReg
  let loose := q.fe == 0 && !q.strong && !reg && !isCtl s.cur
  match q.op with
  | .store v =>
    if loose then (s.pushStore s.cur q.va t.pa ((bytesOf v q.size).map some)).retire drops
    else s.direct q t drops (.store v) []
  | op =>
    if loose && op.isLoad then s.direct q t drops op (s.forward s.cur (q.cached && t.kind == 1) t.pa q.size)
    else s.direct q t drops op []

/-- An access whose address checks have passed: R218 or R213, migration, policy, the release, and the access itself. -/
def State.sendChecked (s : State) (q : Request) (t : Target) (drops : Nat) : State :=
  match q.refused t with
  | some c => s.trap c q.va 0
  | none =>
    if q.roams && t.kind == 2 && homeDie t.pa != dieOf s.cur && !isCtl s.cur then
      s.parkAgain (.migration (homeDie t.pa) (homePref t.pa) false)
    else
      match s.policy s.me.codeid t with
      | some r => s.trap 17 q.va (policyInfo r)
      | none => s.releasingOpt (if t.isReg then some 4 else q.rel) fun s => s.send q t drops

/-- A memory access of the issuing slot. -/
def State.access (s : State) (q : Request) (drops : Nat) : State :=
  match s.check s.cur s.me.ctx s.me.tsr.priv q.va q.align q.need with
  | .trap c a => (s.note14 s.cur s.me.ctx c a 8).trap c a 0
  | .ok t => s.sendChecked q t drops

/-! ### Window fills (R67, R68) -/

/-- What stands in the channel toward a home on another die is performed first: a fill enters the channel behind it. -/
def State.reachHome (s : State) (tid pa : Nat) : State × Bool :=
  let d := dieOf tid
  let e := homeFor tid pa
  if d = e then (s, true) else (s.drainChan d e, s.routeOpen d e)

/-- A fill fails: cause 18 at the popping group (Table 3.1). -/
def State.fillFault (s : State) (tid : Nat) (addr : Word) : State :=
  let s := s.abandon tid
  s.deliver tid ⟨18, (s.thread tid).pc, addr, 2⟩

/-- WINDOW_FILL: the demanded fill of a spilled frame is done, and the return that waits for it completes (R67, R152). -/
def execWindowFill (tid : Nat) (s : State) : Out :=
  let t := s.thread tid
  let va := t.wsp - 128
  .next (match t.park with
    | some ⟨.frameFill target how, _, drops, leapt⟩ =>
      if t.wsp = 0 then s.fillFault tid va
      else
        match s.framePa tid va 128 .read with
        | none => (s.noteFrame tid va 128).fillFault tid va
        | some pa =>
          let (s, there) := s.reachHome tid pa
          if !there then s
          else if s.anyBad pa 128 then (s.noteBad pa 128).fillFault tid va
          else
            let ws := s.peekWords tid pa 16
            let f : WFrame := Vector.ofFn fun i => (ws[i.val]?).getD 0
            let s := (s.debit tid drops leapt).upd tid fun t => { t with frames := [f], wsp := va, park := none, wokenAt := s.now }
            s.finishRet tid target how
    | _ => s)

/-! ### Records read by a group -/

/-- What the relaxed loads of a record give: its words and the METERED region they count in; a trap; or a home that no route
reaches now. -/
inductive GotRec where
  | ok (ws : List Word) (region : Option Nat) (s : State)
  | trap (cause : Nat) (addr : Word) (info : Nat) (s : State)
  | wait (s : State)

/-- The reads of `n` words of a record by the issuing slot, whose address has the given alignment (R166, R171, R394, R403). -/
def State.readRec (s : State) (va : Word) (n align : Nat) : GotRec :=
  match s.check s.cur s.me.ctx s.me.tsr.priv va align .read with
  | .trap c a => .trap c a 0 (s.note14 s.cur s.me.ctx c a 8)
  | .ok t =>
    if t.isReg then .trap 5 va 0 s
    else
      match s.policy s.me.codeid t with
      | some r => .trap 17 va (policyInfo r) s
      | none =>
        let (s, there) := s.reachHome s.cur t.pa
        if !there then .wait s
        else if (wordsTouched t.pa (8 * n)).any fun w =>
            s.uncorrectable w && (List.range 8).any fun i => (s.forwardByte s.cur false (w + i)).isNone then
          .trap 14 va 0 (s.noteBad t.pa (8 * n))
        else .ok (s.peekWords s.cur t.pa n) (if t.kind = 3 then some t.region else none) s

/-- A group that reads a record and goes on with its words. -/
def State.withRec (s : State) (va : Word) (n align : Nat) (k : List Word → Option Nat → State → State) : State :=
  match s.readRec va n align with
  | .trap c a i s => s.trap c a i
  | .wait s => s.parkAgain (.release 3)
  | .ok ws region s => k ws region s

/-! ### The pop of an adoption frame (R198) -/

/-- The bindings of a frame, as far as their queues are free or the context's (R175). -/
def State.rebind (s : State) (tid : Nat) (b : BitVec 8) : State :=
  let ctx := (s.thread tid).ctx.id
  let ok := (boundBy b).all fun q => match (s.hwq (coreOf tid) q).owner with
    | none => true
    | some c => c == ctx
  if ok then s.bind tid b else s

/-- The helper's state comes back: frames of the adopted task are gone, the spilled ones from the spill area too, every item of Table
7.7 is restored, STATE of its request is read back from the pond, and the waiting group re-executes. A frame that cannot be read
raises cause 18 with the waiting group as return point; then the window frames are gone, while ADEPTH, TASKH and the registers
stay those of the task that is over (log 70: DESIGN CHOICE, the spec does not say what a failed pop leaves). -/
def State.popAdoption (s : State) (tid : Nat) : State :=
  let s := s.upd tid fun t =>
    { t with wsp := t.wsp - BitVec.ofNat 64 (128 * (t.depth - t.frames.length)), frames := [], depth := 0, reserve := none }
  let t := s.thread tid
  let va := t.wsp - 1024
  let level := (t.levels.head?).getD ⟨0, 0, none, none, LeapH.zero, false, false, none, false, false⟩
  let fault (s : State) : State := s.deliver tid ⟨18, level.pc, va, 2⟩
  match s.frameLoc tid va .read with
  | none => fault (s.noteFrame tid va 1024)
  | some l =>
    let (s, _) := s.reachHome tid l.lo
    let (s, _) := if l.cut < 128 then s.reachHome tid l.hi else (s, true)
    let rest := if l.cut < 128 then 1024 - 8 * l.cut else 0
    if s.anyBad l.lo (8 * l.cut) || s.anyBad l.hi rest then fault ((s.noteBad l.hi rest).noteBad l.lo (8 * l.cut))
    else
      let ws := s.peekWords tid l.lo l.cut ++ s.peekWords tid l.hi (128 - l.cut)
      let s := s.upd tid (Thread.unframe ws level)
      let s := s.rebind tid ((nth ws 9).extractLsb' 0 8)
      s.upd tid fun t =>
        let leap := s.readBack (dieOf tid) tid t.adepth level.leap.state t.leaph
        { t with leaph := leap, tsr := { t.tsr with leap := leap.state == .active }, wokenAt := s.now }

end Sys2Proof.Machine
end

