-- ==== Sys2Proof/Machine/Atomics.lean ====
section
/-!
DEFINITION. Sys2Proof/Machine/Atomics.lean: the AMO family, CAS and VAMO (R215 to R221); EMPTY (R157); future cells, locks
and queue objects (R184 to R192); JOINI, BARI and BAR (R168, R172 to R174).
-/
namespace Sys2Proof.Machine

/-! ### Takes (R217, R220, R221) -/

/-- An atomic on one word: op6 of Table 8.4. -/
def State.amo (s : State) (op : Nat) (a b : Reg) (r : Option RPfx) (is : IPfx) (m : Option MPfx) : State :=
  s.access (accessOf m (s.addrOf b is) 8 8 .rmw (.amo op (s.r a) (destOf a r)) true true) 1

/-- AMOADD. -/
def execAmoadd (a b : Reg) (r : Option RPfx) (is : IPfx) (m : Option MPfx) (s : State) : Out := .next (s.amo 16 a b r is m)

/-- AMOAND. -/
def execAmoand (a b : Reg) (r : Option RPfx) (is : IPfx) (m : Option MPfx) (s : State) : Out := .next (s.amo 17 a b r is m)

/-- AMOOR. -/
def execAmoor (a b : Reg) (r : Option RPfx) (is : IPfx) (m : Option MPfx) (s : State) : Out := .next (s.amo 18 a b r is m)

/-- AMOXOR. -/
def execAmoxor (a b : Reg) (r : Option RPfx) (is : IPfx) (m : Option MPfx) (s : State) : Out := .next (s.amo 19 a b r is m)

/-- AMOMIN. -/
def execAmomin (a b : Reg) (r : Option RPfx) (is : IPfx) (m : Option MPfx) (s : State) : Out := .next (s.amo 20 a b r is m)

/-- AMOMAX. -/
def execAmomax (a b : Reg) (r : Option RPfx) (is : IPfx) (m : Option MPfx) (s : State) : Out := .next (s.amo 21 a b r is m)

/-- AMOMINU. -/
def execAmominu (a b : Reg) (r : Option RPfx) (is : IPfx) (m : Option MPfx) (s : State) : Out := .next (s.amo 22 a b r is m)

/-- AMOMAXU. -/
def execAmomaxu (a b : Reg) (r : Option RPfx) (is : IPfx) (m : Option MPfx) (s : State) : Out := .next (s.amo 23 a b r is m)

/-- AMOSWP. -/
def execAmoswp (a b : Reg) (r : Option RPfx) (is : IPfx) (m : Option MPfx) (s : State) : Out := .next (s.amo 24 a b r is m)

/-- CAS: A is the expected value and receives the old one, E is the new one. -/
def execCas (a b : Reg) (r : Option RPfx) (is : IPfx) (m : Option MPfx) (s : State) : Out :=
  .next (s.access (accessOf m (s.addrOf b is) 8 8 .rmw (.cas (s.r a) (s.r (eOf r)) a) true true) 1)

/-- VAMO: an element type that VTYPE gives and that is no integer type raises cause 1. -/
def execVamo (a b : Reg) (r : Option RPfx) (is : IPfx) (m : Option MPfx) (s : State) : Out :=
  let t := s.elem (eOf r)
  .next (if isIntType t then
      s.access (accessOf m (s.addrOf b is) 16 16 .rmw (.vamo (dOf r).toNat (laneWidth t) (s.v a) a) true true) 1
    else s.illegalType r)

/-! ### EMPTY -/

/-- EMPTY (R157): at most 512 words within 4 KiB. -/
def execEmpty (a b : Reg) (is : IPfx) (m : Option MPfx) (s : State) : Out :=
  let va := s.addrOf b is
  let n := (s.r a).toNat
  .next (if n = 0 then s.retire 1
    else if va.toNat % 8 ≠ 0 ∨ 512 < n ∨ bits va 47 12 ≠ bits (va + BitVec.ofNat 64 (8 * n - 1)) 47 12 then s.trap 3 va 0
    else s.access (accessOf m va (8 * n) 8 .write (.empty n) true true) 1)

/-! ### Cells and locks (Table 7.5) -/

/-- FINIT. -/
def execFinit (a b : Reg) (is : IPfx) (m : Option MPfx) (s : State) : Out :=
  .next (s.access (accessOf m (s.addrOf b is) 16 16 .write (.finit (s.r a)) true true) 1)

/-- FWAIT. -/
def execFwait (a b : Reg) (is : IPfx) (m : Option MPfx) (s : State) : Out :=
  .next (s.access (accessOf m (s.addrOf b is) 16 16 .read (.fwait a) true true) 1)

/-- FPUT. -/
def execFput (a b : Reg) (is : IPfx) (m : Option MPfx) (s : State) : Out :=
  .next (s.access (accessOf m (s.addrOf b is) 8 8 .write (.fput (s.r a)) true true) 1)

/-- LOCK. -/
def execLock (a b : Reg) (is : IPfx) (m : Option MPfx) (s : State) : Out :=
  .next (s.access (accessOf m (s.addrOf b is) 16 16 .rmw (.lock a) true true) 1)

/-- UNLOCK. -/
def execUnlock (a b : Reg) (is : IPfx) (m : Option MPfx) (s : State) : Out :=
  .next (s.access (accessOf m (s.addrOf b is) 16 16 .write (.unlock (s.r a)) true true) 1)

/-- QPUSH. -/
def execQpush (a b : Reg) (is : IPfx) (m : Option MPfx) (s : State) : Out :=
  .next (s.access (accessOf m (s.addrOf b is) 32 32 .rmw (.qpush (s.r a)) true true) 1)

/-- QPOP. -/
def execQpop (a b : Reg) (is : IPfx) (m : Option MPfx) (s : State) : Out :=
  .next (s.access (accessOf m (s.addrOf b is) 32 32 .rmw (.qpop a) true true) 1)

/-- QRES: the owner is E with PFX.R, else the issuing thread's TASKH. -/
def execQres (a b : Reg) (r : Option RPfx) (is : IPfx) (m : Option MPfx) (s : State) : Out :=
  .next (s.access (accessOf m (s.addrOf b is) 32 32 .rmw (.qres (r.map fun x => s.r x.e) a) true true) 1)

/-! ### Join counters and barriers -/

/-- JOINI. -/
def execJoini (a b : Reg) (r : Option RPfx) (is : IPfx) (m : Option MPfx) (s : State) : Out :=
  .next (s.access (accessOf m (s.addrOf b is) 16 16 .write (.joini (s.r a) (s.r (eOf r))) true true) 1)

/-- BARI. -/
def execBari (a b : Reg) (r : Option RPfx) (is : IPfx) (m : Option MPfx) (s : State) : Out :=
  .next (s.access (accessOf m (s.addrOf b is) 32 32 .write (.bari (s.r a) (s.r (eOf r))) true true) 1)

/-- BAR: a release and an acquire of its scope around the arrival (R174). -/
def execBar (a b : Reg) (is : IPfx) (m : Option MPfx) (s : State) : Out :=
  let sc := scopeOfM m
  let q := accessOf m (s.addrOf b is) 32 32 .rmw (.bar a) true true
  .next (s.access { q with rel := some sc, acq := some sc } 1)

end Sys2Proof.Machine
end

