-- ==== Sys2Proof/Machine/Branch.lean ====
section
/-!
DEFINITION. Sys2Proof/Machine/Branch.lean: branches, jumps, calls and returns (R87 to R90, R95).
-/
namespace Sys2Proof.Machine

/-- A transfer to a computed target, which cannot be odd where the group's address is even; a target with any of bits
63-48 set raises cause 3 (R87). -/
def State.jumpTo (s : State) (target : Word) : State :=
  if badTarget target then s.trap 3 target 0 else (s.debit s.cur 0 s.me.tsr.leap).goto target

/-- A conditional branch (R87). -/
def State.branch (s : State) (taken : Bool) (off : Word) : State :=
  if taken then s.jumpTo (s.target off) else s.retire 0

/-- BEQZ. -/
def execBeqz (a b : Reg) (is : IPfx) (s : State) : Out := .next (s.branch (s.r a == 0) (immS is b))

/-- BNEZ. -/
def execBnez (a b : Reg) (is : IPfx) (s : State) : Out := .next (s.branch (s.r a != 0) (immS is b))

/-- BLTZ. -/
def execBltz (a b : Reg) (is : IPfx) (s : State) : Out := .next (s.branch (s.r a).msb (immS is b))

/-- BGEZ. -/
def execBgez (a b : Reg) (is : IPfx) (s : State) : Out := .next (s.branch (!(s.r a).msb) (immS is b))

/-- BEQ. -/
def execBeq (a b : Reg) (is : IPfx) (s : State) : Out := .next (s.branch (s.r a == s.r b) (offS is))

/-- BNE. -/
def execBne (a b : Reg) (is : IPfx) (s : State) : Out := .next (s.branch (s.r a != s.r b) (offS is))

/-- BLT. -/
def execBlt (a b : Reg) (is : IPfx) (s : State) : Out := .next (s.branch ((s.r a).slt (s.r b)) (offS is))

/-- BLTU. -/
def execBltu (a b : Reg) (is : IPfx) (s : State) : Out := .next (s.branch ((s.r a).ult (s.r b)) (offS is))

/-- J (R88). -/
def execJ (a b : Reg) (is : IPfx) (s : State) : Out := .next (s.jumpTo (s.target (immAB is a b)))

/-- CALL (R88). -/
def execCall (a b : Reg) (is : IPfx) (s : State) : Out :=
  let t := s.target (immAB is a b)
  .next (if badTarget t then s.trap 3 t 0 else s.call t)

/-- CALLR (R89). -/
def execCallr (_a b : Reg) (s : State) : Out :=
  let t := s.r b
  .next (if badTarget t then s.trap 3 t 0 else s.call t)

/-- JR (R89). -/
def execJr (_a b : Reg) (s : State) : Out := .next (s.jumpTo (s.r b))

/-- RET (R90): p7 is the target. -/
def execRet (_a _b : Reg) (s : State) : Out := .next (s.ret (s.r 15) .ret)

/-- TRET (R95): TEPC is the target; BUSY is cleared. -/
def execTret (_a _b : Reg) (s : State) : Out :=
  .next (s.ret s.me.tepc .tret)

end Sys2Proof.Machine
end

