-- ==== Sys2Proof/Machine/Threads.lean ====
section
/-!
DEFINITION. Sys2Proof/Machine/Threads.lean: page 4's messages, starts, tasks and launches (R161 to R171), FENCE (R232), QBIND
(R175), and the acceptance of launch blocks (R389 to R391).
-/
namespace Sys2Proof.Machine

/-! ### FENCE -/

/-- FENCE: order 11 releases, 10 acquires, 01 and 00 do both, 00 at system scope. -/
def execFence (_a _b : Reg) (m : Option MPfx) (s : State) : Out :=
  let sc := scopeOfM m
  let order := orderOf m
  let done (s : State) : State := (if order = 3 then s else s.acquire s.cur sc).retire 1
  .next (if order = 2 then
      (match s.sealIn s.cur sc with
       | some (k, x) => s.sealTrap k x
       | none => done s)
    else s.releasing sc done)

/-! ### Messages (R161 to R163) -/

/-- A frame enters the stream of its class toward a package, for the port and address of its peer entry (R422, R423); one to an
unreachable peer is lost, and a message is counted in LOSTMSG. -/
def State.sendFrame (s : State) (peer : Peer) (pkg cls : Nat) (dest : Word) (ctx : BitVec 12) (words : List Word) (bytes : Nat) :
    State :=
  let k := streamKey pkg cls
  let x := Table.get Stream.zero s.streams k
  if x.dead then (if cls = 1 then { s with lostmsg := sat64 s.lostmsg } else s)
  else
    let f : Frame :=
      ⟨peer.a.getLsbD 62, peer.mac.setWidth 48, s.pkgid.toNat, pkg, cls, x.nextSeq, 0, dest, ctx.toNat, words, bytes⟩
    let y : Stream := { x with nextSeq := (x.nextSeq + 1) % 2 ^ 32, unacked := x.unacked ++ [⟨f, s.now, 0⟩] }
    { s with streams := Table.set Stream.zero k y s.streams, sent := s.sent ++ [f] }

/-- Traffic of a die to and from the scale-out ports goes by die 7 (R381); none flows while PKGID is unset (R422). -/
def State.portOpen (s : State) (die : Nat) : Bool := s.routeOpen die 7 && s.pkgid != 0x7FFF

/-- SEND (R161, R425): a route that carries no traffic is back-pressure (R387). -/
def execSend (a b : Reg) (s : State) : Out :=
  let w := s.r a
  let tid := bits w 16 0
  let h := header s.cur 0 (bits w 47 32) 0
  let load := s.quad b
  .next (if !goodTid tid then s.trap 5 w 0
    else if w.getLsbD 63 then
      let pkg := bits w 62 48
      (match s.peerOf pkg with
       | none => s.trap 5 w 0
       | some peer =>
         s.releasing 4 fun s =>
           if !s.portOpen (dieOf s.cur) then s.parkAgain .backPressure
           else (s.sendFrame peer pkg 1 w s.me.ctx.id (h :: load.toList) 40).retire 1)
    else
      let sc := scopeOf s.cur tid
      s.releasing sc fun s =>
        match (if s.routeOpen (dieOf s.cur) (dieOf tid) then s.accept ⟨tid, h, load, sc⟩ else none) with
        | some s => s.retire 1
        | none => s.parkAgain .backPressure)

/-- RECV (R162). -/
def execRecv (a _b : Reg) (s : State) : Out :=
  .next (match s.msgsOf s.cur with
    | [] => s.parkAgain .mailbox
    | m :: _ =>
      let s := s.updCore (coreOf s.cur) fun c => { c with mailbox := c.mailbox.erase m }
      let s := s.refill (coreOf s.cur) 16
      let s := (s.updMe fun t => { t with mhdr := m.header }).wrQuad s.cur a m.payload
      (s.acquire s.cur m.scope).retire 1)

/-- PEEK (R163). -/
def execPeek (a _b : Reg) (r : Option RPfx) (s : State) : Out :=
  let ms := s.msgsOf s.cur
  let s := s.wr s.cur a (BitVec.ofNat 64 ms.length)
  .next ((match r with
    | some x => s.wr s.cur x.d ((ms.head?.map Msg.header).getD 0)
    | none => s).retire 0)

/-! ### SPAWN and TASK (R164, R166) -/

/-- A core whose row is dark (R379). -/
def State.darkCore (s : State) (core : Nat) : Bool := ((s.cluster (core / 64)).rowOf (core % 64 / 16)).dark

/-- A group that waits for a core of a quiesced cluster sets its CPWAKE bit (R373). -/
def State.waitQuiet (s : State) (core : Nat) (w : Wake) : State := (s.setWake (core / 64) w).parkAgain .backPressure

/-- What the handler table of a thread's code object gives for an index (R58, R165, log 55). -/
def State.handlerOf (s : State) (t : Thread) (k : Nat) : Option Word :=
  match Table.get none s.codes t.codeid.toNat with
  | some c => Config.handler t.ctx.id c.digest c.base k
  | none => Config.handler t.ctx.id [] 0 k

/-- SPAWN. The rank of the start is clamped to the ceiling (Tables 13.4 and 14.3). TADDR of a dark core is the TID (R379); that of a
TID which breaks R20 is not stated, and the model gives the whole of A (log 74: DESIGN CHOICE). -/
def execSpawn (a b : Reg) (is : IPfx) (s : State) : Out :=
  let v := s.r a
  let tid := bits v 16 0
  let core := tid / 16
  .next (if !goodTid tid then s.trap 5 v 0
    else if s.darkCore core then s.trap 5 (BitVec.ofNat 64 tid) 0
    else
      let sc := scopeOf s.cur (core * 16)
      s.releasing sc fun s =>
        if (s.cluster (core / 64)).qreq then s.waitQuiet core .start
        else if !s.routeOpen (dieOf s.cur) (dieOf tid) ∨ 8 ≤ (s.core core).startq.length then s.parkAgain .backPressure
        else
          let t := s.me
          let q (i : Nat) : Word := t.reg (BitVec.ofNat 5 (24 + i))
          let m : StartMsg :=
            { sender := s.cur, index := (immZ is b).toNat, entry := s.handlerOf t (immZ is b).toNat, regs := payload (q 0) (q 1) (q 2) (q 3)
              ctx := t.ctx, fmt := t.fmt, scp := t.scp, pondid := t.pondid
              rank := clampRank t.ctx t.rank.toNat, scope := sc }
          (s.updCore core fun c => { c with startq := c.startq ++ [m] }).retire 1)

/-- START_MESSAGE_ACCEPT: the core of a back-pressured SPAWN has room, and the sender re-executes. -/
def execStartMessageAccept (tid : Nat) (s : State) : Out :=
  .next (if (s.thread tid).park.any fun p => p.why == .backPressure then s.wake tid else s)

/-- The end of a TASK: with the target's room held, allocate an entry and enqueue the packet. -/
def State.enqueueTask (s : State) (a : Reg) (core : Option Nat) (die sc : Nat) (ws : Vector Word 8) : State :=
  let t := s.me
  let rank := clampRank t.ctx (bits (ws.get 7) 2 0)
  let w1 := match core with
    | some c => entryW1 1 die (c * 16)
    | none => entryW1 2 die 0
  match s.allocTask t.ctx rank.toNat w1 (ws.get 0) with
  | none => (s.noteTasks t.ctx (bits t.ctx.ttsize 24 0)).result a 0 1
  | some (s, h) =>
    let p := packetOf ws h (t.bound s.cur 0) t.pondid sc
    (match core with
      | some c => s.toCoreQueue c (.packet p)
      | none => s.toScheduler die p).result a h 1

/-- TASK. -/
def execTask (a b : Reg) (r : Option RPfx) (is : IPfx) (s : State) : Out :=
  let va := s.addrOf b is
  let e := s.r (eOf r)
  let tid := bits e 16 0
  let core := r.map fun _ => tid / 16
  let die := if r.isSome then dieOf tid else dieOf s.cur
  .next (if va.toNat % 64 ≠ 0 then s.trap 3 va 0
    else if r.isSome ∧ !goodTid tid then s.trap 5 e 0
    else if r.isSome ∧ s.darkCore (tid / 16) then s.trap 5 (BitVec.ofNat 64 tid) 0
    else
      let sc := if die = dieOf s.cur then 2 else 3
      s.releasing sc fun s =>
        s.withRec va 8 64 fun ws region s =>
          match core with
          | some c =>
            if (s.cluster (c / 64)).qreq then s.waitQuiet c .start
            else if !s.routeOpen (dieOf s.cur) die ∨ 64 ≤ (s.core c).taskq.length then s.parkAgain .backPressure
            else (s.count region false 64 s.cur).enqueueTask a core die sc (vec8 ws)
          | none =>
            if 8192 ≤ (s.die die).packets then s.parkAgain .backPressure
            else (s.count region false 64 s.cur).enqueueTask a core die sc (vec8 ws))

/-! ### Launches (R171, R389 to R391) -/

/-- The dies of a set, ascending. -/
def dieSet (w2 : Word) : List Nat := allDies.filter fun d => (w2.getLsbD (8 + d))

/-- The home die of a unit's argument under HOME (R391). -/
def State.homeOfArg (s : State) (c : Ctx) (a : Word) : Option Nat :=
  if 2 ^ 48 ≤ a.toNat ∨ a.toNat < 2 ^ 32 then none
  else
    match s.walk c.ptbase a.toNat with
    | .leaf e span =>
      let pa := leafPa e + a.toNat % span
      if bits e 8 6 = 4 then none
      else
        match storageOf pa with
        | .device | .sram => some (homeDie pa)
        | _ => none
    | _ => none

/-- The units of a block that belong to index `k` of its dies (Table 16.3). -/
def State.unitsOf (s : State) (c : Ctx) (ws : Vector Word 8) (k : Nat) : List Nat :=
  let n := (ws.get 1).toNat
  let set := dieSet (ws.get 2)
  let d := set.length
  match bits (ws.get 2) 1 0 with
  | 0 => (List.range (n * (k + 1) / d - n * k / d)).map fun i => n * k / d + i
  | 1 => (List.range ((n + d - 1 - k) / d)).map fun i => k + d * i
  | _ => (List.range n).filter fun i =>
      let home := (s.homeOfArg c (ws.get 3 + ws.get 4 * BitVec.ofNat 64 i)).bind fun e => set.findIdx? (· == e)
      home.getD (i % d) == k

/-- A launch record with units to place counts among a die's 64. -/
def DieSt.launchesUsed (x : DieSt) : Nat :=
  (x.launches.filter fun e => match e.2 with
    | some r => !r.ready || !r.toPlace.isEmpty
    | none => false).length

/-- The lowest record number that a die does not use. -/
def freeRecord (t : Table (Option LaunchRec)) (i : Nat) : Nat → Nat
  | 0 => i
  | n + 1 => if (Table.get none t i).isSome then freeRecord t (i + 1) n else i

/-- A die holds a record for a block. -/
def State.holdRecord (s : State) (d : Nat) (r : LaunchRec) : State × Nat :=
  let n := freeRecord (s.die d).launches 0 (s.die d).launches.length
  (s.updDie d fun x => { x with launches := Table.set none n (some r) x.launches }, n)

/-- The units of a die have all finished: its record goes, w7 is decremented, a host entry goes on (R171, R421). -/
def State.launchDone (s : State) (d n : Nat) : State :=
  match Table.get none (s.die d).launches n with
  | none => s
  | some r =>
    let s := s.updDie d fun x => { x with launches := Table.set none n none x.launches }
    let s := match r.ctr with
      | some b => s.decrement b d
      | none => s
    match r.queue with
    | some (f, q, e) => s.hostDone (queueKey f q) e d
    | none => s

/-- Every die has accepted: the units are computed and each record enters the FIFO of its rank; a die given none is done. -/
def State.startRecords (s : State) (k : Nat) : List (Nat × Nat) → State
  | [] => s
  | (d, n) :: rest =>
    match Table.get none (s.die d).launches n with
    | none => s.startRecords (k + 1) rest
    | some r =>
      let us := s.unitsOf r.ctx r.block k
      let r' : LaunchRec := { r with ready := true, toPlace := us, alive := us.length }
      let s := s.updDie d fun x => { x with launches := Table.set none n (some r') x.launches }
      let s := if us = [] then s.launchDone d n else s.toFifo d r.rank (.launch n)
      s.startRecords (k + 1) rest

/-- The bytes of a record that a parked group read count once it completes (R405). -/
def State.countRec (s : State) (tid : Nat) (va : Word) (n : Nat) : State :=
  let t := s.thread tid
  match s.check tid t.ctx t.tsr.priv va 8 .read with
  | .ok x => s.count (if x.kind = 3 then some x.region else none) false n tid
  | .trap _ _ => s

/-- A LAUNCH offers its block to the dies left, in ascending order, as far as they accept. -/
def State.offer (s : State) (tid : Nat) : Nat → State
  | 0 => s
  | fuel + 1 =>
    match (s.thread tid).park with
    | some ⟨.launch block va rest recs rd, _, _, _⟩ =>
      (match rest with
       | [] => (((s.countRec tid va 64).startRecords 0 recs).wr tid rd 0).complete tid
       | d :: ds =>
         if 64 ≤ (s.die d).launchesUsed ∨ !s.routeOpen (dieOf tid) d then s
         else
           let t := s.thread tid
           let ws := vec8 block
           let r : LaunchRec :=
             ⟨ws, va, t.ctx, tid, clampRank t.ctx (bits (ws.get 2) 18 16), false, [], 0, none, t.pondid,
               boundOf (ws.get 7) (t.bound tid 0)⟩
           let (s, n) := s.holdRecord d r
           (s.repark tid (.launch block va ds (recs ++ [(d, n)]) rd)).offer tid fuel)
    | _ => s

/-- LAUNCH. -/
def execLaunch (a b : Reg) (is : IPfx) (s : State) : Out :=
  let va := s.addrOf b is
  .next (if va.toNat % 64 ≠ 0 then s.trap 3 va 0
    else
      s.releasing 3 fun s =>
        s.withRec va 8 64 fun ws region s =>
          let early (st : Word) : State := (s.count region false 64 s.cur).result a st 1
          if 2 ^ 32 < (nth ws 1).toNat then early 1
          else if bits (nth ws 2) 1 0 = 3 then early 3
          else if dieSet (nth ws 2) = [] then early 2
          else (s.parkMe (.launch ws va (dieSet (nth ws 2)) [] a) 1).offer s.cur 9)

/-- LAUNCH_ACCEPT: the next die of a parked LAUNCH accepts its block if a record is free. -/
def execLaunchAccept (tid : Nat) (s : State) : Out := .next (s.offer tid 9)

/-! ### QUIT (R170, R198) -/

/-- A job that the running task of a slot issued. -/
def JobOwner.of (o : JobOwner) (tid level : Nat) : Bool := o.tid == tid && o.saved.isNone && o.adepth == level && !o.gone

/-- A job of a copy unit or stack engine that has not ended: a queued job that CANCEL ended counts until its completion is sent, and
not at all where it sends none (R292, R294). -/
def CopyJob.out (j : CopyJob) : Bool := !(j.settled && !j.notify)

/-- Whether jobs of a slot's running task are outstanding. -/
def State.jobsOut (s : State) (tid level : Nat) : Bool :=
  (s.clusters.any fun e =>
    (e.2.engines.toList.any fun x => x.queue.any fun j => j.owner.of tid level) ||
    (e.2.copies.toList.any fun x => x.queue.any fun j => j.owner.of tid level && j.out)) ||
  (s.dies.any fun e => e.2.stack.queue.any fun j => j.owner.of tid level)

/-- A unit of a launch has retired. -/
def State.unitDone (s : State) (u : Nat × Nat) : State :=
  match Table.get none (s.die u.1).launches u.2 with
  | none => s
  | some r =>
    let s := s.updDie u.1 fun x => { x with launches := Table.set none u.2 (some { r with alive := r.alive - 1 }) x.launches }
    if r.alive ≤ 1 then s.launchDone u.1 u.2 else s

/-- The steps of QUIT after its release: decrements, DONE, the end of its leap and of its bindings. -/
def State.quitTask (s : State) (ctr : Option Word) : State :=
  let t := s.me
  let die := dieOf s.cur
  let s := match ctr with
    | some c => s.decrement (t.bound s.cur c) die
    | none => s
  let s := match t.parent with
    | some b => s.decrement b die
    | none => s
  let s := match t.unit with
    | some u => s.unitDone u
    | none => s
  let s := if t.taskh = 0 then s else s.markTask t.ctx t.taskh .done
  ((s.lend s.cur).1).unbind s.cur

/-- The slot of a retired thread is free: its messages go, and the slots that waited for it are answered (R338). -/
def State.freeSlot (s : State) (tid : Nat) : State :=
  let s := (s.acceptFor tid s.outbox).discardMsgs tid
  let waiting := (s.thread tid).preempts
  let s := s.lapse tid
  ((s.setThread tid Thread.free).answerPreempts 1 waiting).cutDone tid

/-- QUIT from its release on, with the counter that it names. -/
def State.quitFrom (s : State) (ctr : Option Word) : State :=
  s.releasing 3 fun s =>
    let s := s.debit s.cur 1 s.me.tsr.leap
    let s := s.quitTask ctr
    if s.me.tsr.adopted then s.popAdoption s.cur else s.freeSlot s.cur

/-- QUIT: while jobs are outstanding it waits, and then goes on from its release (R152). -/
def execQuit (a _b : Reg) (s : State) : Out :=
  let v := s.r a
  let named := decide (a ≠ 0)
  .next (match (if named then s.check s.cur s.me.ctx s.me.tsr.priv v 16 .write else .ok (.window 0 0 false)) with
    | .trap c x => (s.note14 s.cur s.me.ctx c x 8).trap c x 0
    | .ok _ =>
      let ctr := if named then some v else none
      if s.jobsOut s.cur s.me.adepth then s.parkMe (.jobsEnd ctr) 0 else s.quitFrom ctr)

/-- A QUIT that waits for its jobs goes on once they have ended; while its release waits, it stays parked. -/
def State.quitAgain (s : State) (tid : Nat) : State :=
  match (s.thread tid).park with
  | some p => match p.why with
    | .jobsEnd ctr =>
      if s.jobsOut tid (s.thread tid).adepth then s
      else
        let s := ({ s with cur := tid }.upd tid fun t => { t with park := none }).quitFrom ctr
        match (s.thread tid).park.map (·.why) with
        | some (Park.release _) => s.upd tid fun t => { t with park := some p }
        | _ => s
    | _ => s
  | none => s

/-! ### QBIND (R175) -/

/-- QBIND: a queue that another context owns raises cause 5; R175 gives no TADDR, and the model gives the whole of A (log 74: DESIGN
CHOICE). -/
def execQbind (a _b : Reg) (s : State) : Out :=
  let v := s.r a
  let b : BitVec 8 := v.extractLsb' 0 8
  let free := (boundBy b).all fun q => match (s.hwq (coreOf s.cur) q).owner with
    | none => true
    | some c => c == s.me.ctx.id
  .next (if !free then s.trap 5 v 0
    else (s.bind s.cur b).retire 0)

end Sys2Proof.Machine
end

