-- ==== Sys2Proof/Machine/Matrix.lean ====
section
/-!
DEFINITION. Sys2Proof/Machine/Matrix.lean: tiles, matrix engines and amax rings (chapter 10): page 2 and the engines' events.
-/
namespace Sys2Proof.Machine

/-! ### Causes 15 and 16 (R272) -/

/-- Cause 15: physical tile number, code and role of Table 10.11. The table gives no role for TDEF, TSTAT, TREADY and TEMPTY, nor for
code 4, and the model gives 0 (log 75: DESIGN CHOICE). -/
def State.tileTrap (s : State) (phys code role : Nat) : State := s.trap 15 (BitVec.ofNat 64 phys) (code + role * 256)

/-- Cause 16. -/
def State.engineTrap (s : State) (code : Nat) : State := s.trap 16 0 code

/-- A group that names a tile goes on with its physical number. -/
def State.withTile (s : State) (n role : Nat) (k : Nat → State) : State :=
  match s.me.ctx.tile? n with
  | some t => k t
  | none => s.tileTrap (bits s.me.ctx.tiles 7 0 + n) 1 role

/-- A group that waits for a tile re-executes. -/
def State.tileWait (s : State) (t : Nat) : State := s.parkAgain (.tile (clusterOf s.cur) t)

/-! ### Tile instructions (R251 to R253) -/

/-- TDEF. The tile number is checked before the descriptor's address, which R251 leaves open (log 75: DESIGN CHOICE). -/
def execTdef (a b : Reg) (is : IPfx) (s : State) : Out :=
  let va := s.addrOf b is
  let k := clusterOf s.cur
  .next (s.withTile (bits (s.r a) 7 0) 0 fun t =>
    s.withRec va 4 32 fun ws region s =>
      let x := s.tile k t
      let y : Tile := { x with w0 := nth ws 0 &&& 0xFFFFFF#64, w1 := nth ws 1 &&& 0x0100FFFFFFFF01FF#64 }
      if !y.valid then s.tileTrap t 2 0
      else if x.state ≠ 0 then s.tileWait t
      else ((s.count region false 32 s.cur).putTile k t y).retire 1)

/-- TSTAT (Table 10.5). -/
def execTstat (a b : Reg) (s : State) : Out :=
  .next (s.withTile (bits (s.r b) 7 0) 0 fun t =>
    let x := s.tile (clusterOf s.cur) t
    s.result a (BitVec.ofNat 64 (bit x.tagv 44 + x.tag.toNat * 2 ^ 32 + x.pins % 65536 * 2 ^ 16 + bit x.latch 2 + x.state.toNat)) 0)

/-- TREADY. -/
def execTready (a _b : Reg) (s : State) : Out :=
  let k := clusterOf s.cur
  .next (s.withTile (bits (s.r a) 7 0) 0 fun t =>
    if (s.tile k t).rows = 0 then s.tileTrap t 3 0
    else
      s.releasing 2 fun s =>
        match (s.tile k t).state.toNat with
        | 0 => (s.setTileState k t 2 false).retire 0
        | 2 => s.retire 0
        | _ => s.tileWait t)

/-- TEMPTY. -/
def execTempty (a _b : Reg) (s : State) : Out :=
  let k := clusterOf s.cur
  .next (s.withTile (bits (s.r a) 7 0) 0 fun t =>
    let x := s.tile k t
    match x.state.toNat with
    | 0 => s.retire 0
    | 1 => s.tileWait t
    | 2 => ((s.parkMe (.drain k t) 0).setTileState k t 3 x.latch).settleTile k t
    | _ => s.parkMe (.drain k t) 0)

/-! ### Operand shapes (Table 10.1) -/

/-- A row of Table 10.1: K, row bytes of A and B, element code and bytes of D. -/
structure Shape where
  row   : Nat
  k     : Nat
  bytes : Nat
  dInt  : Bool
  dBytes : Nat
  deriving DecidableEq, Repr

/-- The row of a format code. -/
def shapeOf (code : Nat) : Shape :=
  match code with
  | 0 => ⟨0, 16, 128, false, 8⟩
  | 1 => ⟨1, 32, 128, false, 4⟩
  | 2 => ⟨2, 32, 128, false, 4⟩
  | 3 | 4 => ⟨3, 64, 128, false, 4⟩
  | 5 | 6 => ⟨4, 128, 128, false, 4⟩
  | 10 | 11 => ⟨5, 128, 128, true, 4⟩
  | 7 | 8 => ⟨6, 128, 96, false, 4⟩
  | 9 => ⟨7, 256, 128, false, 4⟩
  | 12 | 13 => ⟨8, 256, 128, true, 4⟩
  | 14 | 15 | 19 => ⟨9, 128, 132, false, 4⟩
  | 16 | 17 => ⟨10, 128, 100, false, 4⟩
  | _ => ⟨11, 256, 136, false, 4⟩

/-- AFMT, BFMT and OFMT of FMT. -/
def afmt (f : Word) : Nat := bits f 4 0
/-- BFMT. -/
def bfmt (f : Word) : Nat := bits f 9 5
/-- OFMT. -/
def ofmt (f : Word) : Nat := bits f 14 10

/-! ### Accumulation (R257 to R260) -/

/-- A decoded operand row: element values and scale bytes. -/
structure OpRow where
  xs     : List FVal
  scales : List Nat

/-- Decode a row of an operand tile. -/
def opRow (code layout k : Nat) (bs : List Byte) : OpRow :=
  let (es, sc) := readRow code layout k bs
  ⟨es.map (elemVal code), sc⟩

/-- One element by a chain of fused multiply-adds (R257). -/
def dotFma (f : Fmt) (a b : List FVal) (d : Nat) : Nat :=
  (List.zip a b).foldl (fun d x => (encodeRound f .rne false false (exactFma .rne x.1 x.2 (decodeF f d)).v).bits) d

/-- A product within a block: a zero times an infinity is +0 (R258). -/
def blockMul (x y : FVal) : FVal :=
  match x, y with
  | .nan _ _, _ | _, .nan _ _ => .nan false false
  | .inf _, .fin _ 0 _ | .fin _ 0 _, .inf _ => .fin false 0 0
  | x, y => (exactMul x y).v

/-- An exact sum; a finite sum that is zero is +0 (R258). -/
def blockSum (xs : List FVal) : FVal :=
  match xs.foldl (fun acc x => (exactAdd .rne acc x).v) (.fin false 0 0) with
  | .fin _ 0 _ => .fin false 0 0
  | x => x

/-- T after scale overflow (R259). -/
def scaleOver (sat : Bool) (t : FVal) : FVal :=
  match t with
  | .fin neg m e =>
    if (encodeRound .fp32 .rne false false t).fl.of then (if sat then .fin neg (2 ^ 24 - 1) 104 else .inf neg) else .fin neg m e
  | x => x

/-- One block of R258 added to d. -/
def addBlock (sat : Bool) (a b : List FVal) (sa sb d : Nat) : Nat :=
  let p := blockSum (List.zipWith blockMul a b)
  let t : FVal := if sa = 255 ∨ sb = 255 then .nan false false else
    match p with
    | .fin neg m e => if m = 0 then .fin false 0 0 else scaleOver sat (.fin neg m (e + ((sa : Int) + sb - 254)))
    | x => x
  (encodeRound .fp32 .rne false false (exactAdd .rne (decodeF .fp32 d) t).v).bits

/-- The blocks of a row pair, one after another. -/
def dotBlocks (sat : Bool) : List (List FVal) → List (List FVal) → List Nat → List Nat → Nat → Nat
  | a :: as, b :: bs, sa :: sas, sb :: sbs, d => dotBlocks sat as bs sas sbs (addBlock sat a b sa sb d)
  | _, _, _, _, d => d

/-- An exact integer. -/
def FVal.toInt : FVal → Int
  | .fin neg m e => signedOf neg (m * pow2 e)
  | _ => 0

/-- The integer sum of R260, wrapping. -/
def mmaInt (a b : List FVal) (d : Nat) : Nat :=
  let x := (List.zipWith (fun x y => x.toInt * y.toInt) a b).sum
  (((d : Int) + x) % ((2 ^ 32 : Nat) : Int)).toNat

/-- One element of D. -/
def dotElem (shape : Shape) (sat : Bool) (a b : OpRow) (d : Nat) : Nat :=
  if shape.dInt then mmaInt a.xs b.xs d
  else if shape.row = 0 then dotFma .fp64 a.xs b.xs d
  else if shape.row = 1 then dotFma .fp32 a.xs b.xs d
  else dotBlocks sat (chunksOf 32 8 a.xs) (chunksOf 32 8 b.xs) a.scales b.scales d

/-- The new D: rows of A by rows of B, over the present 256 elements. -/
def accumulate (shape : Shape) (sat : Bool) (a b : List OpRow) (d : List Word) : List Word :=
  let cells := a.flatMap fun x => b.map fun y => (x, y)
  List.zipWith (fun (c : OpRow × OpRow) (v : Word) => BitVec.ofNat 64 (dotElem shape sat c.1 c.2 v.toNat)) cells d

/-! ### Engines -/

/-- Whether a job is an MMA or MMAG. -/
def MatJob.isMma (j : MatJob) : Bool :=
  match j.kind with
  | .mma | .mmag _ => true
  | _ => false

/-- The chain at the head of a queue (R262). -/
def Engine.chain (e : Engine) : List MatJob :=
  match e.queue with
  | [] => []
  | h :: _ => if h.isMma then e.queue.takeWhile fun j => j.isMma && j.td == h.td && j.owner.ctx.id == h.owner.ctx.id else []

/-- The party that issues a job. -/
def State.owner (s : State) : JobOwner := ⟨s.cur, s.me.adepth, s.me.ctx, s.me.codeid, s.me.tsr.priv, none, false, s.cur⟩

/-- A tag that the issuing thread's code may not use raises cause 17 (R273): the first such region. -/
def State.tagRefused (s : State) (k : Nat) : List Nat → Option Nat
  | [] => none
  | t :: ts =>
    let x := s.tile k t
    if x.tagv && !s.codeAllowed s.me.codeid (s.region x.tag.toNat) then some x.tag.toNat else s.tagRefused k ts

/-- The shape checks of R255 and R265 on an operand; `rows` is `none` for a row table. -/
def Tile.fits (x : Tile) (rows : Option Nat) (bytes : Nat) : Bool :=
  decide (x.rows ≠ 0) && (rows.all fun n => x.rows == n) && x.rowBytes == bytes

/-- The accepted job enters the queue (R263, R266, R270): its number, pins and debit. -/
def State.acceptMat (s : State) (k o : Nat) (kind : MatKind) (td ta tb : Nat) (pins : List Nat) (notify : Bool) (drops : Nat) :
    State × Nat :=
  let e := s.engine k o
  let t := s.me
  let j : MatJob := ⟨e.nextId, s.owner, kind, td, ta, tb, t.fmt, t.scp, notify, if t.tsr.leap then some t.leaph.seq else none, false, none⟩
  let s := s.updEngine k o fun e =>
    { e with queue := e.queue ++ [j], nextId := (e.nextId + 1) % 65536, waking := e.waking || e.gated }
  ((pins.foldl (fun s p => s.pin k p) s).debit s.cur drops true, e.nextId)

/-- Lane i of an index vector. -/
def gatherIndex (v : VWord) (i : Nat) : Nat := v.toNat / 2 ^ (8 * i) % 256

/-- The checks of R263 that trap, then the wait, the release and the acceptance; `k` goes on with the engine and the job's
number. -/
def State.mma (s : State) (w : Word) (index : Option VWord) (notify : Bool) (go : State → Nat → Nat → Nat → State) : State :=
  let k := clusterOf s.cur
  let o := octetOf s.cur
  s.withTile (bits w 23 16) 0 fun td => s.withTile (bits w 15 8) 1 fun ta => s.withTile (bits w 7 0) 2 fun tb =>
    let f := s.me.fmt
    let sh := shapeOf (afmt f)
    let xa := s.tile k ta
    if !goodFmt (afmt f) ∨ !goodFmt (bfmt f) then s.engineTrap 1
    else if sh.row ≠ (shapeOf (bfmt f)).row then s.engineTrap 2
    else if !(s.tile k td).fits (some 16) (16 * sh.dBytes) then s.tileTrap td 3 0
    else if !xa.fits (if index.isSome then none else some 16) sh.bytes then s.tileTrap ta 3 1
    else if !(s.tile k tb).fits (some 16) sh.bytes then s.tileTrap tb 3 2
    else if td = ta ∨ td = tb then s.tileTrap td 4 0
    else if index.any fun v => (List.range 16).any fun i => decide (xa.rows ≤ gatherIndex v i) then s.tileTrap ta 5 1
    else
      match s.tagRefused k [ta, tb] with
      | some r => s.trap 17 0 (policyInfo (1, r))
      | none =>
        let e := s.engine k o
        let d := s.tile k td
        let joins := d.state == 1 && d.latch && (match e.queue.getLast? with
          | some j => j.isMma && j.td == td && j.owner.ctx.id == s.me.ctx.id
          | none => false) && e.chain.all fun j => j.ended.isNone || j.td != td
        let starts := d.state == 2 && d.pins == 0
        if (s.tile k ta).state ≠ 2 then s.tileWait ta
        else if (s.tile k tb).state ≠ 2 then s.tileWait tb
        else if (!joins && !starts) ∨ 32 ≤ e.queue.length then s.tileWait td
        else
          s.releasing 2 fun s =>
            let s := if joins then s else s.setTileState k td 1 true
            let kind := match index with
              | some v => MatKind.mmag v
              | none => MatKind.mma
            let drops := if sh.row = 0 then 64 else if sh.row = 1 then 48 else 32
            let (s, id) := s.acceptMat k o kind td ta tb [ta, tb] notify drops
            go s k o id

/-- The queued forms: D takes the job's number. -/
def State.mmaQueued (s : State) (a : Reg) (index : Option VWord) (r : Option RPfx) : State :=
  s.mma (s.r a) index ((s.r a).getLsbD 24) fun s _ _ id => s.result (dOf r) (BitVec.ofNat 64 id) 0

/-- The waiting forms. -/
def State.mmaWait (s : State) (a : Reg) (index : Option VWord) : State :=
  s.mma (s.r a) index false fun s k o id => s.parkMe (.job k o id s.cur) 0

/-- MMA. -/
def execMma (a _b : Reg) (s : State) : Out := .next (s.mmaWait a none)

/-- MMAQ. -/
def execMmaq (a _b : Reg) (r : Option RPfx) (s : State) : Out := .next (s.mmaQueued a none r)

/-- MMAG. -/
def execMmag (a b : Reg) (s : State) : Out := .next (s.mmaWait a (some (s.v b)))

/-- MMAGQ. -/
def execMmagq (a b : Reg) (r : Option RPfx) (s : State) : Out := .next (s.mmaQueued a (some (s.v b)) r)

/-- MZERO (R266). -/
def execMzero (a _b : Reg) (s : State) : Out :=
  let k := clusterOf s.cur
  let o := octetOf s.cur
  .next (s.withTile (bits (s.r a) 7 0) 0 fun t =>
    let x := s.tile k t
    if x.rows = 0 then s.tileTrap t 3 0
    else if !(x.state == 0 || (x.state == 2 && x.pins == 0 && !x.latch)) ∨ 32 ≤ (s.engine k o).queue.length then s.tileWait t
    else
      s.releasing 2 fun s =>
        let s := s.setTileState k t 1 false
        let (s, id) := s.acceptMat k o .mzero t t t [] false 1
        s.parkMe (.job k o id s.cur) 0)

/-- Elements in a source row of MCVT, or none where they are no whole number or do not fit OFMT (R270). -/
def cvtCount (src dst rowBytes : Nat) : Option Nat :=
  let w := (fmtOfCode src).width / 8
  let c := rowBytes / w
  let multiple := if isMx dst then 32 else match (fmtOfCode dst).width with
    | 6 => 4
    | 4 => 2
    | _ => 1
  if rowBytes % w = 0 ∧ c % multiple = 0 then some c else none

/-- MCVT (R270). R270 gives no order to its checks and says not which tile a breach of the shapes names: the model takes formats, ring,
ROWS, C and then the destination, naming the source where C is no whole number or no multiple, else the destination (log 75: DESIGN
CHOICE). -/
def execMcvt (a _b : Reg) (s : State) : Out :=
  let k := clusterOf s.cur
  let o := octetOf s.cur
  let w := s.r a
  .next (s.withTile (bits w 23 16) 0 fun td => s.withTile (bits w 15 8) 1 fun ta =>
    let f := s.me.fmt
    let xd := s.tile k td
    let xa := s.tile k ta
    if !goodFmt (afmt f) ∨ !goodFmt (ofmt f) then s.engineTrap 1
    else if 4 < afmt f then s.engineTrap 2
    else if !(s.me.ctx.ringmask.getLsbD (bits s.me.scp 63 58)) then s.engineTrap 3
    else if xa.rows = 0 then s.tileTrap ta 3 1
    else if xd.rows = 0 then s.tileTrap td 3 0
    else
      match cvtCount (afmt f) (ofmt f) xa.rowBytes with
      | none => s.tileTrap ta 3 1
      | some c =>
        if xd.rows ≠ xa.rows ∨ xd.rowBytes ≠ bytesFor (ofmt f) c then s.tileTrap td 3 0
        else if td = ta then s.tileTrap td 4 0
        else if xa.state ≠ 2 then s.tileWait ta
        else if xd.state ≠ 0 ∨ 32 ≤ (s.engine k o).queue.length then s.tileWait td
        else
          s.releasing 2 fun s =>
            let s := s.setTileState k td 1 false
            let (s, id) := s.acceptMat k o .mcvt td ta ta [ta] false 32
            s.parkMe (.job k o id s.cur) 0)

/-! ### JWAIT, JPOLL, WHINT (R264, R271) -/

/-- The result word of Table 10.8 for a job of a context. -/
def Engine.outcome (e : Engine) (id : Nat) (ctx : BitVec 12) : Word :=
  match e.queue.find? fun j => j.id == id && j.owner.ctx.id == ctx with
  | some j => if j.run then 2 else 1
  | none =>
    match e.outcomes.find? fun x => x.id == id && x.ctx == ctx with
    | some x => BitVec.ofNat 64 (x.status * 65536 + (if x.status = 0 then 3 else 4))
    | none => 0

/-- A result of DONE or FAILED. -/
def finishedWord (w : Word) : Bool := decide (3 ≤ bits w 2 0)

/-- JWAIT. -/
def execJwait (a b : Reg) (s : State) : Out :=
  let k := clusterOf s.cur
  let o := octetOf s.cur
  let id := bits (s.r b) 15 0
  let w := (s.engine k o).outcome id s.me.ctx.id
  .next (if finishedWord w then (s.acquire s.cur 2).result a w 0
    else if w = 0 then s.result a 0 0
    else s.parkMe (.jobId k o id a) 0)

/-- JPOLL. -/
def execJpoll (a b : Reg) (s : State) : Out :=
  let w := (s.engine (clusterOf s.cur) (octetOf s.cur)).outcome (bits (s.r b) 15 0) s.me.ctx.id
  .next ((if finishedWord w then s.acquire s.cur 2 else s).result a w 0)

/-- WHINT: the switch-on of a gated engine starts (R271); ENGINE_SWITCH_ON ends it. -/
def execWhint (_a _b : Reg) (s : State) : Out :=
  .next ((s.updEngine (clusterOf s.cur) (octetOf s.cur) fun e => { e with waking := e.waking || e.gated }).retire 0)

/-! ### Rings (R268, R269) -/

/-- A ring of a cluster. -/
def State.ring (s : State) (k r : Nat) : Ring := Table.get Ring.zero (s.cluster k).rings r

/-- Change a ring. -/
def State.updRing (s : State) (k r : Nat) (f : Ring → Ring) : State :=
  s.updCluster k fun c => { c with rings := Table.set Ring.zero r (f (Table.get Ring.zero c.rings r)) c.rings }

/-- The ring maximum: entries are not negative, so their bits compare as numbers. -/
def Ring.maximum (x : Ring) : BitVec 32 := x.entries.toList.foldl (fun m e => if m.toNat < e.toNat then e else m) 0

/-- Record a value. -/
def Ring.record (v : BitVec 32) (x : Ring) : Ring :=
  { entries := x.entries.setIfInBounds x.next v, next := (x.next + 1) % 16, count := min (x.count + 1) 16 }

/-- The magnitude of FP32 bits, a NaN as +infinity. -/
def ringValue (w : Word) : BitVec 32 :=
  let m := w.toNat % 2 ^ 31
  BitVec.ofNat 32 (if 0x7F800000 < m then 0x7F800000 else m)

/-- AMAXR. -/
def execAmaxr (a b : Reg) (s : State) : Out :=
  let w := s.r b
  let x := s.ring (clusterOf s.cur) (bits w 5 0)
  .next (if !(s.me.ctx.ringmask.getLsbD (bits w 5 0)) then s.engineTrap 3
    else
      s.result a (match bits w 9 8 with
        | 0 => ((x.entries[bits w 15 12]?).getD 0).setWidth 64
        | 1 => x.maximum.setWidth 64
        | 2 => BitVec.ofNat 64 x.next
        | _ => BitVec.ofNat 64 x.count) 0)

/-- AMAXC. -/
def execAmaxc (a b : Reg) (s : State) : Out :=
  let w := s.r b
  let v := s.r a
  .next (if !(s.me.ctx.ringmask.getLsbD (bits w 5 0)) then s.engineTrap 3
    else
      (s.updRing (clusterOf s.cur) (bits w 5 0) fun x =>
        let x := if w.getLsbD 8 then Ring.zero else x
        if w.getLsbD 9 then x.record (ringValue v) else x).retire 0)

/-! ### The end of a job (R247, R264, R274) -/

/-- The slots that wait for a job. -/
def State.jobWaiters (s : State) (k o id : Nat) : List Nat :=
  (s.threads.filter fun e => match e.2.park with
    | some p => match p.why with
      | .job k' o' id' _ => k' == k && o' == o && id' == id
      | .jobId k' o' id' _ => k' == k && o' == o && id' == id
      | _ => false
    | none => false).map (·.1)

/-- What the slots waiting for a job do at its end: a sync form acquires and completes, or takes cause 16; JWAIT writes its
result. -/
def State.wakeJob (s : State) (id st : Nat) : List Nat → State
  | [] => s
  | tid :: rest =>
    let s := match (s.thread tid).park with
      | some p => match p.why with
        | .jobId _ _ _ rd =>
          (((s.wr tid rd (BitVec.ofNat 64 (st * 65536 + (if st = 0 then 3 else 4)))).acquire tid 2)).complete tid
        | .job _ _ _ _ => if st = 0 then (s.acquire tid 2).complete tid else s.trapOf tid 16 0 (4 + st * 65536)
        | _ => s
      | none => s
    s.wakeJob id st rest

/-- A pending sync job of a slot is done. -/
def Thread.jobDone (k o id st : Nat) (t : Thread) : Thread :=
  { t with pendJob := t.pendJob.map fun j => if j.cluster = k ∧ j.octet = o ∧ j.id = id then { j with done := true, status := st } else j }

/-- A pending sync job of a saved thread is done: PJDONE and PJSTATUS of its record (Table 13.5). -/
def State.savedJobDone (s : State) (r k o id st : Nat) : State :=
  let l := s.savedLoc r
  let a := s.word (l.word 136)
  let b := s.word (l.word 137)
  if a.getLsbD 63 && bits a 15 0 == id && bits b 10 8 * 16 + bits b 7 4 == k && bits b 2 0 == o then
    s.devWord (s.savedCtx r) ((Table.get Saved.none s.saves r).va + 1088) (l.word 136) (a ||| BitVec.ofNat 64 (2 ^ 62 + st * 2 ^ 32))
  else s

/-- A job is DONE or FAILED: it leaves the queue, its outcome is kept, its operands are unpinned, its message is sent and the
slots that wait for it go on. -/
def State.finishMat (s : State) (k o : Nat) (j : MatJob) (st : Nat) : State :=
  let s := s.updEngine k o fun e =>
    { e with
      queue := e.queue.filter fun x => x.id != j.id
      outcomes := ((⟨j.id, j.owner.ctx.id, st⟩ : Outcome64) :: e.outcomes).take 64
      work := none
      ahead := if st = 0 then e.ahead.filter (· != j.id) else []
      idle := s.now }
  let s := match j.kind with
    | .mma | .mmag _ => (s.unpin k j.ta).unpin k j.tb
    | .mcvt => s.unpin k j.ta
    | .mzero => s
  let s := s.applyOf j.owner.slot
  let s := if j.notify then s.sendDone j.owner 2 j.id st (payload 0 0 0 0) else s
  let s := match j.owner.saved with
    | some r => s.savedJobDone r k o j.id st
    | none => s.upd j.owner.tid (Thread.jobDone k o j.id st)
  s.wakeJob j.id st (s.jobWaiters k o j.id)

/-! ### The work of an engine (R234, R262) -/

/-- The job that an engine is at, or its first job that has not started. -/
def Engine.current (e : Engine) : Option MatJob :=
  match e.work with
  | some w => e.queue.find? fun j => j.id == w.id
  | none => e.queue.find? fun j => !j.run

/-- The leap of a job's tag is active (R380). -/
def State.leapOf (s : State) (j : MatJob) : Bool :=
  let t := s.thread j.owner.tid
  j.tag.any fun q => j.owner.saved.isNone && t.tsr.leap && t.leaph.seq == q && t.adepth == j.owner.adepth

/-- The base die asks for power (R380). -/
def State.askBase (s : State) (k : Nat) (leap : Bool) : State := s.updCluster k (ClusterSt.asked s.now true leap)

/-- A job starts: it is RUNNING, with reads and writes to perform. -/
def State.startWork (s : State) (k o : Nat) (j : MatJob) (phase : MatPhase) (reads : List Nat) (writes : List JobWrite) : State :=
  let leap := s.leapOf j
  (s.askBase k leap).updEngine k o fun e =>
    { e with
      work := some ⟨j.id, phase, reads, [], writes, 0, false, 0, leap⟩
      queue := e.queue.map fun x => if x.id = j.id then { x with run := true } else x }

/-- The present phase has nothing left to perform. -/
def MatWork.idle (w : MatWork) : Bool := w.reads.isEmpty && w.writes.isEmpty && w.flying == 0

/-- The words of some rows of a tile. -/
def Tile.rowWords (x : Tile) (k : Nat) (rows : List Nat) : List Nat := rows.flatMap fun r => wordsTouched (x.rowPa k r) x.rowBytes

/-- The bytes of a row, from the words read. -/
def MatWork.row (w : MatWork) (x : Tile) (k r : Nat) : List Byte :=
  (bytesOfWords ((x.rowWords k [r]).map fun pa => Table.get 0 w.got pa)).take x.rowBytes

/-- The writes of a tile's rows: 16 bytes each from the row's start, which is 16-aligned, so that a pair is one write (R234). -/
def Tile.rowWrites (x : Tile) (k : Nat) (rows : List (List Byte)) : List JobWrite :=
  (List.range rows.length).flatMap fun r =>
    let cs := chunksOf 16 256 ((rows[r]?).getD [])
    (List.range cs.length).map fun i =>
      ⟨BitVec.ofNat 64 (0x1000000 + x.offset + r * x.pitch + 16 * i), x.rowPa k r + 16 * i, ((cs[i]?).getD []).map some, []⟩

/-- An engine step that waits for the array rail sets CPWAKE.ACCESS (R377). -/
def onEngine (cluster octet : Nat) (f : State → MatJob → State) (s : State) : Out :=
  .next (if goodCluster cluster then
      match (s.engine cluster octet).current with
      | some j =>
        if s.engineOn cluster octet then f s j
        else if (s.cluster cluster).railSpad ≠ 2 then s.setWake cluster .access else s
      | none => s
    else s)

/-! ### MATRIX_JOB_RUN and CHAIN_WRITEBACK -/

/-- A job of a chain has failed at its operands: it and the later jobs of its chain are FAILED, and run-ahead work is discarded (R267,
R272). -/
def Engine.failChain (j : MatJob) (e : Engine) : Engine :=
  let chain := e.chain.map (·.id)
  { e with
    latched := some (e.latched.getD (j.td, []))
    work := none
    ahead := []
    queue := e.queue.map fun x =>
      if x.id = j.id then { x with ended := some 1 }
      else if !x.run && chain.contains x.id then { x with run := true, ended := some 3 } else x }

/-- The rows of A that a job takes (R265). -/
def MatJob.rows (j : MatJob) : List Nat :=
  match j.kind with
  | .mmag v => (List.range 16).map (gatherIndex v)
  | _ => List.range 16

/-- The words that a job reads: D where the chain starts, then its operands. -/
def State.mmaReads (s : State) (k o : Nat) (j : MatJob) : List Nat :=
  (if (s.engine k o).latched.isNone then (s.tile k j.td).rowWords k (List.range 16) else []) ++
    (s.tile k j.ta).rowWords k j.rows ++ (s.tile k j.tb).rowWords k (List.range 16)

/-- The regions whose tags are on some tiles and which are OPEN, once each (R273, R406). -/
def State.tagsOf (s : State) (k : Nat) (ts : List Nat) : List Nat :=
  ((ts.filterMap fun t => let x := s.tile k t; if x.tagv then some x.tag.toNat else none).filter
    fun r => (s.region r).state == .opened).eraseDups

/-- Every operand has been read: the job accumulates into the latched D (R257 to R261), and its MACs count (R273). -/
def State.runMma (s : State) (k o : Nat) (j : MatJob) (w : MatWork) : State :=
  let sh := shapeOf (afmt j.fmt)
  let xd := s.tile k j.td
  let xa := s.tile k j.ta
  let xb := s.tile k j.tb
  let d := match (s.engine k o).latched with
    | some (_, d) => d
    | none => (List.range 16).flatMap fun r => (unpack (8 * sh.dBytes) 16 (w.row xd k r)).map (BitVec.ofNat 64)
  let a := j.rows.map fun r => opRow (afmt j.fmt) xa.layout sh.k (w.row xa k r)
  let b := (List.range 16).map fun r => opRow (bfmt j.fmt) xb.layout sh.k (w.row xb k r)
  let d := accumulate sh (j.fmt.getLsbD 17) a b d
  let s := (s.tagsOf k [j.ta, j.tb]).foldl (fun s r => s.count (some r) true (256 * sh.k) j.owner.slot) s
  s.updEngine k o fun e => { e with latched := some (j.td, d), work := none }

/-- MATRIX_JOB_RUN: the first job that has not run starts, if it is of the latched chain or no chain is latched; once its operands have
been read it accumulates, or it fails where one could not be. -/
def execMatrixJobRun (cluster octet : Nat) (s : State) : Out :=
  onEngine cluster octet (fun s j =>
    let e := s.engine cluster octet
    if !j.isMma then s
    else
      match e.work with
      | none =>
        if e.chain.any (·.id == j.id) && (e.latched.all fun l => l.1 == j.td) then
          s.startWork cluster octet j .reading (s.mmaReads cluster octet j) []
        else s
      | some w =>
        match w.phase with
        | .reading => if w.idle then s.runMma cluster octet j w else s
        | .done _ => s.updEngine cluster octet (Engine.failChain j)
        | _ => s) s

/-- The jobs of a chain finish one after another. -/
def State.finishAll (s : State) (k o : Nat) (st : Option Nat) : List MatJob → State
  | [] => s
  | j :: js => (s.finishMat k o j (st.getD (j.ended.getD 0))).finishAll k o st js

/-- CHAIN_WRITEBACK: every job of the chain has run, and D's writes stand ready; once they are over D is READY and the jobs end, all
with WRITELOSS where a write was lost (R262, R272). -/
def State.writeBack (s : State) (k o : Nat) : State :=
  let e := s.engine k o
  match e.latched, e.chain with
  | some (td, d), j :: js =>
    match e.work with
    | none =>
      if (j :: js).all (·.run) then
        let sh := shapeOf (afmt j.fmt)
        let rows := (chunksOf 16 16 (d.map (·.toNat))).map (packElems (8 * sh.dBytes))
        s.updEngine k o fun e => { e with work := some ⟨j.id, .writing, [], [], (s.tile k td).rowWrites k rows, 0, false, 0, false⟩ }
      else s
    | some w =>
      if w.phase = .writing ∧ w.id = j.id ∧ w.idle then
        let s := s.updEngine k o fun e => { e with latched := none, work := none }
        (s.setTileState k td 2 false).finishAll k o (if w.lost then some 2 else none) (j :: js)
      else s
  | _, _ => s

/-- CHAIN_WRITEBACK. -/
def execChainWriteback (cluster octet : Nat) (s : State) : Out :=
  .next (if goodCluster cluster ∧ s.engineOn cluster octet then s.writeBack cluster octet else s)

/-! ### MZERO_JOB and MCVT_JOB -/

/-- A job at the head of the queue, with no chain latched. -/
def Engine.heads (e : Engine) (j : MatJob) : Bool := e.latched.isNone && (e.queue.head?.any fun h => h.id == j.id)

/-- MZERO_JOB: the zeros stand ready to be written; once they are, the tile is READY, or EMPTY where one was lost (R266). -/
def execMzeroJob (cluster octet : Nat) (s : State) : Out :=
  onEngine cluster octet (fun s j =>
    let e := s.engine cluster octet
    if j.kind ≠ .mzero ∨ !e.heads j then s
    else
      match e.work with
      | none =>
        let x := s.tile cluster j.td
        s.startWork cluster octet j .writing [] (x.rowWrites cluster (List.replicate x.rows (List.replicate x.rowBytes 0)))
      | some w =>
        if w.idle then
          (s.setTileState cluster j.td (if w.lost then 0 else 2) false).finishMat cluster octet j (if w.lost then 2 else 0)
        else s) s

/-- The exponent e of R270 from the ring maximum. -/
def cvtExp (code : Nat) (m : BitVec 32) : Int :=
  if isMx code ∨ code < 5 then 0
  else if m = 0 then 0
  else if m.toNat = 0x7F800000 then -127
  else clamp127 (expG code - (decodeF .fp32 m.toNat).log2)

/-- One converted row: bytes of the destination. -/
def cvtRow (f : Word) (layout : Nat) (e : Int) (xs : List FVal) : List Byte :=
  let code := ofmt f
  let rm := rmOf (bits f 16 15)
  let sat := f.getLsbD 17
  if isMx code then
    let (es, sc) := toMx code rm sat xs
    writeRow code layout es sc
  else writeRow code layout (xs.map fun x => toElem code rm sat (x.scale e)) []

/-- The home of a job's own address, as its issuer would reach it (R270, R290). -/
def State.jobTarget (s : State) (o : JobOwner) (va : Word) (align : Nat) (need : Need) : Check := s.check o.slot o.ctx o.priv va align need

/-- The source has been read: the ring takes its step, and the destination's writes stand ready (R270). -/
def State.convertTile (s : State) (k o : Nat) (j : MatJob) (w : MatWork) : State :=
  let xa := s.tile k j.ta
  let xd := s.tile k j.td
  let src := afmt j.fmt
  let n := (fmtOfCode src).width
  let rows := (List.range xa.rows).map fun r => (unpack n (xa.rowBytes * 8 / n) (w.row xa k r)).map (elemVal src)
  let t := (encodeRound .fp32 .rup false false (maxMag rows.flatten)).bits
  let ring := bits j.scp 63 58
  let m := (s.ring k ring).maximum
  let s := s.updRing k ring (Ring.record (BitVec.ofNat 32 t))
  let e := cvtExp (ofmt j.fmt) m
  s.updWork k o fun w => { w with phase := .writing, exp := e, writes := xd.rowWrites k (rows.map (cvtRow j.fmt xd.layout e)) }

/-- An MCVT ends: its destination is READY, or EMPTY without a tag (R270). -/
def State.endMcvt (s : State) (k o : Nat) (j : MatJob) (st : Nat) : State :=
  (s.setTileState k j.td (if st = 0 ∨ st = 4 then 2 else 0) false).finishMat k o j st

/-- The destination has been written: it takes the source's tag, and the applied scale is stored where SPTR names a word. -/
def State.storeScale (s : State) (k o : Nat) (j : MatJob) (w : MatWork) : State :=
  let xa := s.tile k j.ta
  let s := s.putTile k j.td { s.tile k j.td with tagv := xa.tagv, tag := xa.tag }
  let va := j.scp &&& 0x0000FFFFFFFFFFF8#64
  if va = 0 then s.endMcvt k o j 0
  else
    match s.jobTarget j.owner va 8 .write with
    | .trap c a => (s.note14 j.owner.slot j.owner.ctx c a 8).endMcvt k o j 4
    | .ok t =>
      if t.isReg then s.endMcvt k o j 4
      else
        s.updWork k o fun x =>
          { x with phase := .scale, writes := [⟨va, t.pa, (bytesOf (BitVec.ofInt 64 w.exp).toNat 8).map some, []⟩] }

/-- MCVT_JOB: the source is read, converted and written, the scale is stored, and the job ends; each step once what it waits for has
been performed. -/
def execMcvtJob (cluster octet : Nat) (s : State) : Out :=
  onEngine cluster octet (fun s j =>
    let e := s.engine cluster octet
    if j.kind ≠ .mcvt ∨ !e.heads j then s
    else
      match e.work with
      | none =>
        let x := s.tile cluster j.ta
        s.startWork cluster octet j .reading (x.rowWords cluster (List.range x.rows)) []
      | some w =>
        match w.phase with
        | .done st => s.endMcvt cluster octet j st
        | .reading => if w.idle then s.convertTile cluster octet j w else s
        | .writing =>
          if !w.idle then s else if w.lost then s.endMcvt cluster octet j 2 else s.storeScale cluster octet j w
        | .scale => if w.idle then s.endMcvt cluster octet j (if w.lost then 4 else 0) else s) s

/-! ### ER and EW of a matrix engine -/

/-- A read or write of an engine's present work. -/
def State.onWork (s : State) (k o : Nat) (f : State → MatJob → MatWork → State) : State :=
  let e := s.engine k o
  match e.current, e.work with
  | some j, some w =>
    if s.engineOn k o then f (s.askBase k w.leap) j w
    else if (s.cluster k).railSpad ≠ 2 then s.setWake k .access else s
  | _, _ => s

/-- ER of a matrix engine. -/
def State.matEr (s : State) (k o n : Nat) : State := s.onWork k o fun s _ _ => s.matRead k o n

/-- EW of a matrix engine. -/
def State.matEw (s : State) (k o n : Nat) : State := s.onWork k o fun s j _ => s.matWrite k o n j.owner.ctx.id

/-! ### Run-ahead, gating (R267, R271) -/

/-- RUN_AHEAD: the next job is prefetched, at most 3 beyond the running one; nothing else changes. -/
def execRunAhead (cluster octet : Nat) (s : State) : Out :=
  .next (if goodCluster cluster then
      s.updEngine cluster octet fun e =>
        if e.ahead.length < 3 then
          match e.queue.find? fun j => !j.run && !e.ahead.contains j.id with
          | some j => { e with ahead := e.ahead ++ [j.id] }
          | none => e
        else e
    else s)

/-- ENGINE_IDLE_GATE: an engine without jobs for ENGIDLE cycles gates itself; ENGIDLE 0 gates none. -/
def execEngineIdleGate (cluster octet : Nat) (s : State) : Out :=
  let n := (s.die (cluster / 16)).engidle.toNat
  let e := s.engine cluster octet
  .next (if goodCluster cluster ∧ n ≠ 0 ∧ e.queue = [] ∧ !e.gated ∧ e.idle + n ≤ s.now then
      s.updEngine cluster octet fun e => { e with gated := true, waking := false } else s)

/-- ENGINE_SWITCH_ON: the switch-on that WHINT or a job started has ended; the window that it falls in sees no demand (R380). -/
def execEngineSwitchOn (cluster octet : Nat) (s : State) : Out :=
  .next (if goodCluster cluster ∧ (s.engine cluster octet).gated ∧ (s.engine cluster octet).waking then
      (s.updEngine cluster octet fun e => { e with gated := false, waking := false, idle := s.now }).updCluster cluster ClusterSt.unasked
    else s)

end Sys2Proof.Machine
end

