-- ==== Sys2Proof/Machine/Copy.lean ====
section
/-!
DEFINITION. Sys2Proof/Machine/Copy.lean: region records, handles, copy units and their jobs, stencil transfers (chapter 11), and
what the jobs of the stack engines share with them (R306, R307).
-/
namespace Sys2Proof.Machine

/-! ### Footprints (R290) -/

/-- The runs of a grid. -/
def gridRuns (base : Word) (ext : List Nat) (str : List Word) (len : Nat) : List (Nat × Nat) :=
  (List.range (ext.drop 1).prod).map fun r => (at48 base 0 (runIx (ext.drop 1) r) str, len)

/-- The source footprint of a job as ranges. -/
def CopyJob.sourceFoot (j : CopyJob) : List (Nat × Nat) :=
  match j.kind with
  | .gather => [(bits (j.w 1) 47 0, 4 * j.gCount)]
  | _ => if j.drain then [] else gridRuns (j.w 0) j.srcExt j.srcStr (bytesFor j.sfmt (j.srcExt.headD 0))

/-- The destination footprint of a plain range. -/
def CopyJob.destFoot (j : CopyJob) : List (Nat × Nat) :=
  if j.kind = .gather ∨ j.dkind ≠ 0 ∨ j.isRemote then []
  else gridRuns (j.w 1) j.dstExt j.dstStr (bytesFor j.dfmt (j.dstExt.headD 0))

/-- Every byte of a distributed destination lies below TCM offset 0x1C000 (R284). -/
def CopyJob.distOk (j : CopyJob) : Bool :=
  j.dkind != 2 || (List.range j.count).all fun u =>
    if j.scatters then
      (List.range j.elems).all fun e => decide ((j.distPlace u e).2.1 + (j.spot u e).1 ≤ 0x1C000)
    else decide ((j.distPlace u 0).2.1 + j.outLen ≤ 0x1C000)

/-- Where a job may read and write: a conversion of the stack engines only in device memory (R311). -/
def CopyJob.admits (j : CopyJob) (x : Storage) : Bool := j.kind != .convert || x == .device

/-- The refusals of R290 after the tile checks: the status, and the footprint with the translations. -/
def State.footCheck (s : State) (j : CopyJob) : Nat × Foot :=
  let o := j.owner
  let src := j.sourceFoot.foldl (s.footRange o .read j.admits) (Foot.start [])
  let dst := j.destFoot.foldl (s.footRange o .write j.admits) (Foot.start src.held)
  let bar := if j.barrier = 0 then Foot.start dst.held
    else s.footRange o .rmw (fun _ => true) (Foot.start dst.held) (j.barrier, 32)
  let drained : Bool := match j.stile with
    | some t =>
      let x := s.tile j.cluster t
      x.tagv && !s.codeAllowed o.codeid (s.region x.tag.toNat)
    | none => false
  let far := j.isRemote && ((s.peerOf j.pkg).isNone || s.pkgid == 0x7FFF)
  let st := if src.status ≠ 0 then src.status else if dst.status ≠ 0 then dst.status
    else if !j.distOk ∨ far then 4
    else if bar.status ≠ 0 then bar.status
    else if src.span ∨ dst.span then 5
    else if src.refused ∨ drained then 6
    else 0
  (st, { bar with bad := (src.bad.orElse fun _ => dst.bad).orElse fun _ => bar.bad })

/-! ### Checks of records (R282, R297, R311) -/

/-- The container size of an element: what addresses and strides are multiples of. -/
def containerBytes (code : Nat) : Nat := if isMx code then 1 else max 1 ((fmtOfCode code).width / 8)

/-- The container of 6-bit elements is 1 byte too; all are multiples of a size. -/
def allMultiples (n : Nat) (ws : List Word) : Bool := ws.all fun w => w.toNat % n == 0

/-- The five formats of stencils and of quantisation's sources. -/
def plainFloat (code : Nat) : Bool := decide (code ≤ 4)

/-- The pairs of Table 12.2. -/
def stackPair (a b : Nat) : Bool :=
  (!isMx a && !isMx b) || (plainFloat a && isMx b) || (isMx a && plainFloat b) || a == b

/-- BADRECORD of a region record. -/
def CopyJob.badRegion (j : CopyJob) : Bool :=
  let sf := j.sfmt
  let df := j.dfmt
  let f := j.w 11
  !goodFmt sf || !goodFmt df ||
    (if j.kind = .convert then !stackPair sf df || j.dkind != 0 || j.drain || j.isRemote
     else sf != df && (isMx sf || isMx df)) ||
    (bits (j.w 2) 31 0) % j.elems != 0 ||
    (!j.drain && !(allMultiples (containerBytes sf) ((j.w 0 &&& 0xFFFFFFFFFFFF#64) :: j.srcStr))) ||
    (j.dkind != 1 && !(allMultiples (containerBytes df) ((j.w 1 &&& 0xFFFFFFFFFFFF#64) :: j.dstStr))) ||
    j.dkind == 3 ||
    (j.dkind == 2 && (bits f 63 48 == 0 || decide (bits f 13 12 < bits f 15 14) || decide (2 < bits f 13 12) ||
      decide (bits f 7 4 < bits f 11 8))) ||
    (j.isRemote && (j.dkind != 0 || j.drain)) ||
    j.barrier % 32 != 0

/-- BADRECORD of a stencil record's own fields. -/
def CopyJob.badStencil (j : CopyJob) : Bool :=
  j.dims == 0 || (List.range j.dims).any (fun k => j.coarse k == 0 || bits (j.w 7) (17 + 2 * k) (16 + 2 * k) == 3) ||
    !plainFloat j.sfmt || !plainFloat j.dfmt ||
    !(allMultiples (containerBytes j.sfmt) ((j.w 0 &&& 0xFFFFFFFFFFFF#64) :: j.srcStr)) ||
    !(allMultiples (containerBytes j.dfmt) ((j.w 1 &&& 0xFFFFFFFFFFFF#64) :: j.dstStr)) ||
    j.barrier % 32 != 0

/-- BADRECORD of a stencil table. -/
def CopyJob.badTable (j : CopyJob) : Bool :=
  let n := tableClasses j.table
  n == 0 || decide (8 < n) || (List.range n).any (fun k => decide (32 < classCount j.table k)) ||
    (j.kind == .prolong && decide (n < 2 ^ j.dims)) ||
    (List.range n).any fun p => (classTerms j.table p).any fun t =>
      ((List.range 3).any fun k => decide (j.dims ≤ k) && (t.d[k]?).getD 0 != 0) ||
      (j.kind == .prolong && (List.range j.dims).any fun k => ((t.d[k]?).getD 0 % 2).natAbs != p / 2 ^ k % 2)

/-! ### Record handles (R287 to R289) -/

/-- What a handle names: its entry, nothing current, or an entry that cannot be corrected (log 69). -/
inductive RecOut where
  | current (pa : Nat)
  | stale
  | bad (pa : Nat)
  deriving DecidableEq, Repr

/-- The entry that a current handle names. -/
def State.currentEntry (s : State) (c : Ctx) (h : Word) : RecOut :=
  if bits h 47 44 = 2 ∧ handleIndex h < bits c.rtsize 20 0 then
    match s.recEntry c (handleIndex h) with
    | some pa =>
      if s.uncorrectable pa then .bad pa
      else if bits (s.word pa) 63 48 = bits h 63 48 ∧ bits (s.word pa) 1 0 = 1 then .current pa
      else .stale
    | none => .stale
  else .stale

/-- A group that reads a table entry which cannot be corrected takes cause 14 at the entry (log 69). -/
def State.recTrap (s : State) (i pa : Nat) : State := (s.noteBad pa 256).trap 14 (s.me.ctx.recVa i) 0

/-- A group goes on with the entry of a handle. -/
def State.withEntry (s : State) (h : Word) (stale : State) (k : Nat → State) : State :=
  match s.currentEntry s.me.ctx h with
  | .current pa => k pa
  | .stale => stale
  | .bad pa => s.recTrap (handleIndex h) pa

/-- What the search for a FREE entry finds. -/
inductive FreeRec where
  | free (i pa : Nat)
  | full
  | bad (i pa : Nat)
  deriving DecidableEq, Repr

/-- The lowest FREE entry; an entry before it that cannot be read stops the search. -/
def State.freeRec (s : State) (c : Ctx) (i : Nat) : Nat → FreeRec
  | 0 => .full
  | n + 1 =>
    match s.recEntry c i with
    | some pa =>
      if s.uncorrectable pa then .bad i pa else if bits (s.word pa) 1 0 = 0 then .free i pa else s.freeRec c (i + 1) n
    | none => s.freeRec c (i + 1) n

/-- The device writes consecutive words of a context's table. -/
def State.devWords (s : State) (ctx : BitVec 12) (va : Word) (a : Nat) : List Word → State
  | [] => s
  | w :: ws => (s.devWord ctx va a w).devWords ctx (va + 8) (a + 8) ws

/-! ### Issue (R290) -/

/-- A job not yet accepted. -/
def State.newJob (s : State) (kind : CopyKind) (record table : List Word) (addr : Word) : CopyJob where
  id := 0
  owner := s.owner
  kind := kind
  record := record
  table := table
  addr := addr
  cancel := false
  stop := false
  chunk := 0
  begun := false
  reads := []
  away := []
  got := []
  pieces := []
  flying := 0
  remote := []
  ended := none
  settled := false
  doneB := 0
  counted := []
  tagged := none
  held := []

/-- Deliveries of record reads: region and bytes. -/
abbrev Counts := List (Option Nat × Nat)

/-- Count the reads of a group's records. -/
def State.countAll (s : State) : Counts → State
  | [] => s
  | (r, n) :: rest => (s.count r false n s.cur).countAll rest

/-- A refusal of Table 11.5 at issue. -/
def State.refuseJob (s : State) (a : Reg) (counts : Counts) (st : Nat) : State :=
  (s.countAll counts).result a (BitVec.ofNat 64 (st * 65536)) 1

/-- The tile checks of R283, R285 and R309: the number, code and role of cause 15. -/
def CopyJob.tileFault (s : State) (j : CopyJob) : Option (Nat × Nat × Nat) :=
  let base := bits j.owner.ctx.tiles 7 0
  let d : Option (Nat × Nat × Nat) :=
    if j.dkind ≠ 1 then none
    else
      match j.dtile with
      | none => some (base + bits (if j.kind = .gather then j.w 5 else j.w 10) 63 56, 1, 0)
      | some t =>
        let x := s.tile j.cluster t
        if x.rows = 0 ∨ x.rows * x.rowBytes ≠ j.total ∨ (j.kind = .gather ∧ (x.rows ≠ j.gCount ∨ x.rowBytes ≠ j.gRow)) then
          some (t, 3, 0)
        else none
  d.orElse fun _ =>
    if !j.drain then none
    else
      match j.stile with
      | none => some (base + bits (j.w 10) 55 48, 1, 1)
      | some t =>
        let x := s.tile j.cluster t
        if x.rows = 0 ∨ x.rows * x.rowBytes ≠ j.count * j.inLen then some (t, 3, 1) else none

/-- The accepted job enters its unit's queue. -/
def State.acceptJob (s : State) (u : Nat) (a : Reg) (counts : Counts) (j : CopyJob) : State :=
  let id := (s.copyUnit u).nextId
  let s := match j.dtile with
    | some t => s.putTile j.cluster t { s.tile j.cluster t with state := 1, latch := false }
    | none => s
  let s := match j.stile with
    | some t => s.setTileState j.cluster t 3 (s.tile j.cluster t).latch
    | none => s
  let s := match j.kind with
    | .handle h => s.addInflight j.owner.ctx h true
    | _ => s
  let s := s.updUnit u fun x => { queue := x.queue ++ [{ j with id := id }], nextId := (id + 1) % 65536 }
  (s.countAll counts).result a (BitVec.ofNat 64 id) 1

/-- R290 from the tile checks on, for a job whose record is good, at a unit whose queue has `cap` entries. -/
def State.issueJob (s : State) (u cap : Nat) (a : Reg) (counts : Counts) (j : CopyJob) : State :=
  match j.tileFault s with
  | some (t, code, role) => s.tileTrap t code role
  | none =>
    let (st, f) := s.footCheck j
    if st ≠ 0 then (if st = 1 then s.noteFoot f else s).refuseJob a counts st
    else
      let dReady := match j.dtile with
        | some t => (s.tile j.cluster t).state == 0
        | none => true
      let sReady := match j.stile with
        | some t => let x := s.tile j.cluster t; x.state == 2 && x.pins == 0
        | none => true
      if !dReady ∨ !sReady ∨ cap ≤ (s.copyUnit u).used then s.tileWait (((j.dtile).orElse fun _ => j.stile).getD 0)
      else s.releasing (if j.isRemote then 4 else 3) fun s => s.acceptJob u a counts { j with held := f.held }

/-- The copy unit of the issuing core's octet. -/
def State.myUnit (s : State) : Nat := clusterOf s.cur * 8 + octetOf s.cur

/-- COPY. -/
def execCopy (a b : Reg) (is : IPfx) (s : State) : Out :=
  let va := s.addrOf b is
  .next (s.withRec va 16 128 fun ws region s =>
    let j := s.newJob .copy ws [] va
    let counts : Counts := [(region, 128)]
    if j.badRegion then s.refuseJob a counts 8 else s.issueJob s.myUnit 32 a counts j)

/-- COPYH. -/
def execCopyh (a b : Reg) (s : State) : Out :=
  let h := s.r b
  .next (s.withEntry h (s.refuseJob a [] 3) fun pa =>
    if s.anyBad (pa + 128) 128 then s.recTrap (handleIndex h) pa
    else
      let j := s.newJob (.handle h) (s.wordsAt (pa + 128) 16) [] h
      if j.badRegion then s.refuseJob a [] 8 else s.issueJob s.myUnit 32 a [] j)

/-- HREG. -/
def execHreg (a b : Reg) (is : IPfx) (s : State) : Out :=
  let va := s.addrOf b is
  .next (s.withRec va 16 128 fun ws region s =>
    let c := s.me.ctx
    let done (s : State) : State := s.count region false 128 s.cur
    if (s.newJob .copy ws [] va).badRegion then (done s).result a 8 1
    else
      match s.freeRec c 0 (bits c.rtsize 20 0) with
      | .bad i pa => s.recTrap i pa
      | .full => (done s).result a 9 1
      | .free i pa =>
        let w := s.word pa
        let s := ((done s).devWord c.id (c.recVa i) pa (recWord (bits w 63 48) (bits w 31 16) 1)).devWords c.id (c.recVa i + 128)
          (pa + 128) ws
        s.result a (BitVec.ofNat 64 (bits w 63 48 * 2 ^ 48 + 2 * 2 ^ 44 + i)) 1)

/-- HFREE. -/
def execHfree (a b : Reg) (s : State) : Out :=
  let h := s.r b
  .next (s.withEntry h (s.result a 3 1) fun pa =>
    let w := s.word pa
    let c := s.me.ctx
    (s.devWord c.id (c.recVa (handleIndex h)) pa (recWord (bits w 63 48 + 1) (bits w 31 16) 0)).result a 0 1)

/-- HCHK. -/
def execHchk (a b : Reg) (s : State) : Out :=
  .next (s.withEntry (s.r b) (s.result a 0 1) fun pa =>
    s.result a (BitVec.ofNat 64 (bits (s.word pa) 31 16 * 65536 + 1)) 1)

/-- Words at consecutive addresses, each by a relaxed load of its own (R297). -/
def State.readTable (s : State) (va : Word) : Nat → List Word → Counts → (List Word → Counts → State → State) → State
  | 0, ws, cs, k => k ws cs s
  | n + 1, ws, cs, k =>
    s.withRec va 1 8 fun w region s => s.readTable (va + 8) n (ws ++ w) (cs ++ [(region, 8)]) k

/-- STXR and STXP. -/
def State.stencil (s : State) (kind : CopyKind) (a b : Reg) (is : IPfx) : State :=
  let va := s.addrOf b is
  s.withRec va 16 128 fun ws region s =>
    let j := s.newJob kind ws [] va
    let counts : Counts := [(region, 128)]
    if j.badStencil then s.refuseJob a counts 8
    else
      let table := BitVec.ofNat 64 (bits (nth ws 8) 47 3 * 8)
      s.readTable table 1 [] counts fun w counts s =>
        let n := tableClasses w
        s.readTable (table + 8) (if n ≤ 8 then 33 * n else 0) w counts fun t counts s =>
          let j := { j with table := t }
          if j.badTable then s.refuseJob a counts 8 else s.issueJob s.myUnit 32 a counts j

/-- STXR. -/
def execStxr (a b : Reg) (is : IPfx) (s : State) : Out := .next (s.stencil .restrict a b is)

/-- STXP. -/
def execStxp (a b : Reg) (is : IPfx) (s : State) : Out := .next (s.stencil .prolong a b is)

/-! ### The end of a job (R283, R285, R291, R292) -/

/-- The tiles of a job that has ended, and INFLIGHT of its entry. -/
def State.settleJob (s : State) (j : CopyJob) (st : Nat) : State :=
  let s := match j.dtile with
    | some t => s.putTile j.cluster t { s.tile j.cluster t with state := if st = 0 then 2 else 0 }
    | none => s
  let s := match j.stile with
    | some t => s.putTile j.cluster t { s.tile j.cluster t with state := 0 }
    | none => s
  match j.kind with
  | .handle h => s.addInflight j.owner.ctx h false
  | _ => s

/-- A job has ended, every write of it performed or lost: it leaves the queue and its completion is sent if asked. -/
def State.endJob (s : State) (u : Nat) (j : CopyJob) (st : Nat) : State :=
  let s := if j.settled then s else s.settleJob j st
  let s := (s.updUnit u fun x => { x with queue := x.queue.filter fun i => i.id != j.id }).applyOf j.owner.slot
  if j.notify then
    s.sendDone j.owner (if u < 1024 then 1 else 3) j.tag st (payload (BitVec.ofNat 64 j.doneB) (BitVec.ofNat 64 j.id) j.addr 0)
  else s

/-- CANCEL (R294). -/
def execCancel (a b : Reg) (s : State) : Out :=
  let u := s.myUnit
  let id := bits (s.r b) 15 0
  .next (match (s.copyUnit u).queue.find? fun j => j.id == id && j.owner.ctx.id == s.me.ctx.id && j.ended.isNone with
    | none => s.result a 0 0
    | some j =>
      let s := if j.begun ∨ j.chunk ≠ 0 then s.updJob u id fun j => { j with cancel := true }
        else (s.updJob u id fun j => { j with ended := some 7, settled := true }).settleJob j 7
      s.result a 1 0)

/-! ### Chunks (R277, R289, R291, R293) -/

/-- The frames of a job that are still to be acknowledged. -/
def State.unacked (s : State) (j : CopyJob) : List Nat :=
  let x := Table.get Stream.zero s.streams (streamKey j.pkg 0)
  j.remote.filter fun n => x.unacked.any fun f => f.frame.seq == n

/-- A credit of a job's barrier (R293): to a home of the unit's die at once, to another through the channel. A barrier on a page that
no longer stands loses it. -/
def State.creditJob (s : State) (u : Nat) (j : CopyJob) (n : Nat) : State :=
  if j.barrier = 0 ∨ n = 0 then s
  else
    match j.place j.barrier with
    | none => s
    | some t =>
      let va := BitVec.ofNat 64 j.barrier
      if homeDie t.pa = unitDie u ∧ (s.asleep t.pa).isNone then s.creditHere u j.id t.pa j.owner.ctx.id va n false
      else (s.launched u j.id).enqueue (unitDie u) (homeDie t.pa) (.jobCredit u j.id t.pa j.owner.ctx.id va n)

/-- A chunk is complete once every write of it is performed: its bytes are credited and count as done. -/
def State.chunkDone (s : State) (u : Nat) (j : CopyJob) : State :=
  let n := min 4096 (j.total - 4096 * j.chunk)
  let last := decide (j.total ≤ 4096 * (j.chunk + 1))
  let s := s.updJob u j.id fun j =>
    { j with
      chunk := j.chunk + 1, begun := false, doneB := j.doneB + n
      got := if j.kind = .gather then j.got.filter fun e => e.1 / 64 % 2 == 0 else []
      ended := if last then some 0 else none }
  s.creditJob u j n

/-- Nothing of the job is under way. -/
def CopyJob.landed (j : CopyJob) : Bool := j.pieces.isEmpty && j.away.isEmpty && j.flying == 0 && j.remote.isEmpty

/-- The present chunk is complete if its reads and writes are all over and none failed. -/
def State.settleChunk (s : State) (u : Nat) : State :=
  match s.headJob u with
  | none => s
  | some j =>
    let left := s.unacked j
    let s := s.updJob u j.id fun j => { j with remote := left }
    if j.begun ∧ j.reads = [] ∧ ({ j with remote := left } : CopyJob).landed ∧ j.ended = none then s.chunkDone u j else s

/-- The end of a unit's first job, once it has ended and nothing of it is under way. -/
def State.jobEnd (s : State) (u : Nat) : State :=
  let s := s.settleChunk u
  match s.headJob u with
  | none => s
  | some j =>
    match j.ended with
    | none => s
    | some st => if j.landed then s.endJob u j st else s

/-- COPY_JOB_END. -/
def execCopyJobEnd (cluster octet : Nat) (s : State) : Out :=
  .next (if goodUnit (cluster * 8 + octet) ∧ cluster < 128 ∧ octet < 6 then s.jobEnd (cluster * 8 + octet) else s)

/-- Whether a job's handle is still current: the status that stops it, and the entry that cannot be corrected. -/
def State.handleStop (s : State) (j : CopyJob) : Nat × Option Nat :=
  match j.kind with
  | .handle h =>
    match s.currentEntry j.owner.ctx h with
    | .current _ => (0, none)
    | .stale => (3, none)
    | .bad pa => (1, some pa)
  | _ => (0, none)

/-- The first job of a unit goes on: its chunk is settled, or its next chunk starts after the checks of R277, or it has ended. -/
def State.nextChunk (s : State) (u : Nat) : State :=
  let s := s.settleChunk u
  match s.headJob u with
  | none => s
  | some j =>
    let stop (st : Nat) : State := s.updJob u j.id fun j => { j with ended := some st }
    if j.ended.isSome ∨ j.begun then s
    else if j.total ≤ 4096 * j.chunk then stop 0
    else if j.cancel then stop 7
    else if j.stop then stop 4
    else
      match s.handleStop j with
      | (0, _) => (s.updJob u j.id fun j => { j with begun := true, reads := j.startReads s, pieces := j.plan s }).settleChunk u
      | (st, some pa) => (s.noteBad pa 8).updJob u j.id fun j => { j with ended := some st }
      | (st, none) => stop st

/-- COPY_CHUNK. -/
def execCopyChunk (cluster octet : Nat) (s : State) : Out :=
  .next (if cluster < 128 ∧ octet < 6 ∧ goodUnit (cluster * 8 + octet) then s.nextChunk (cluster * 8 + octet) else s)

/-! ### ER and EW (R234) -/

/-- ER (R234): read `n` of those left in the present chunk of a unit, or of a matrix engine's present work, counted from 0. -/
def execEr (unit n : Nat) (s : State) : Out :=
  .next (match matUnit unit with
    | some (k, o) => s.matEr k o n
    | none =>
      if goodUnit unit then
        match s.headJob unit with
        | some j => if j.begun ∧ j.ended = none then s.engineRead unit j n else s
        | none => s
      else s)

/-- Bytes as words, the last filled up with zeros. -/
def wordsOf (bs : List Byte) : List Word := (chunksOf 8 (bs.length) bs).map fun c => BitVec.ofNat 64 (natOfBytes c)

/-- A write to another package: one frame (R422, log 41), once its peer has an entry and the way to the ports carries traffic; a write
to an unreachable peer is lost (R423). -/
def State.sendPiece (s : State) (u : Nat) (j : CopyJob) (n : Nat) (p : Piece) : State :=
  match s.peerOf j.pkg with
  | none => s
  | some peer =>
    let x := Table.get Stream.zero s.streams (streamKey j.pkg 0)
    if !s.portOpen (unitDie u) then s
    else if x.dead then s.failJob u j.id 2
    else
      let bs := (j.pieceBytes s p).map fun b => b.2.2.1
      (s.sendFrame peer j.pkg 0 (BitVec.ofNat 64 p.lo) j.owner.ctx.id (wordsOf bs) bs.length).updJob u j.id fun j =>
        { j with pieces := j.pieces.eraseIdx n, remote := j.remote ++ [x.nextSeq] }

/-- EW of a copy or stack job: one write of the present chunk. -/
def State.engineStep (s : State) (u : Nat) (j : CopyJob) (n : Nat) : State :=
  match j.pieces[n]? with
  | none => s
  | some p =>
    if !j.mayWrite p then s
    else if j.isRemote then s.sendPiece u j n p
    else
      s.issueWrite u j.id j.owner.ctx.id (pairWrite (j.pieceBytes s p)) fun s =>
        s.updJob u j.id fun j => { j with pieces := j.pieces.eraseIdx n }

/-- A piece of a write frame as it came: where it leads in the context of the sender's CTXID (R424). -/
def State.remoteHome (s : State) (x : Incoming) (va : Nat) : Option Nat × Option Nat :=
  match Table.get none s.ctxs x.ctx.toNat with
  | none => (none, none)
  | some c =>
    if va < 2 ^ 32 ∨ 2 ^ 48 ≤ va then (none, none)
    else
      match s.walk c.ptbase va with
      | .leaf e span =>
        let pa := leafPa e + va % span
        let st := storageOf pa
        (if (st = .device ∨ st = .sram ∨ st = .spad) ∧ bits e 8 6 ≠ 4 ∧ permits e false .write then some pa else none, none)
      | .bad pa => (none, some pa)
      | .absent => (none, none)

/-- The oldest frame of each package: its writes may be performed; the port delivers frames in order (R423). -/
def State.ripe (s : State) : List Incoming :=
  s.incoming.filter fun x => (s.incoming.find? fun y => y.pkg == x.pkg) == some x

/-- EW of the scale-out ports: write `n` of those that the oldest frames hold; one that cannot be translated is lost and counted in
RDROPS of die 7 (R424). -/
def State.portEw (s : State) (n : Nat) : State :=
  match (s.ripe.flatMap fun x => (List.range x.writes.length).map fun i => (x, i))[n]? with
  | none => s
  | some (x, i) =>
    match x.writes[i]? with
    | none => s
    | some (va, bs) =>
      let take (s : State) : State :=
        { s with incoming := s.incoming.map fun y => if y.key = x.key then { y with writes := y.writes.eraseIdx i } else y }
      match s.remoteHome x va with
      | (some pa, _) => s.issueWrite 1032 x.key x.ctx ⟨BitVec.ofNat 64 va, pa, bs.map some, []⟩ take
      | (none, bad) =>
        let s := match bad with
          | some pa => s.noteBad pa 8
          | none => s
        ((take s).updDie 7 fun d => { d with rdrops := sat64 d.rdrops }).ackPort x.pkg

/-- EW (R234): write `n` of those left in the present chunk of a unit, of a matrix engine's present work, or of the frames that
other packages have sent, counted from 0. -/
def execEw (unit n : Nat) (s : State) : Out :=
  .next (match matUnit unit with
    | some (k, o) => s.matEw k o n
    | none =>
      if unit = 1032 then s.portEw n
      else if goodUnit unit then
        match s.headJob unit with
        | some j => if j.begun ∧ j.ended = none then s.engineStep unit j n else s
        | none => s
      else s)

/-- The writes toward a package that were not acknowledged are lost: their jobs end with WRITELOSS (R423). -/
def State.loseRemote (s : State) (pkg : Nat) : State :=
  let lose (j : CopyJob) : CopyJob :=
    if j.isRemote ∧ j.pkg = pkg ∧ s.unacked j ≠ [] then
      { j with remote := [], reads := [], pieces := [], ended := some (j.ended.getD 2) } else j
  (s.clusters.map (·.1)).foldl (fun s k => s.updCluster k fun c =>
    { c with copies := c.copies.map fun u => { u with queue := u.queue.map lose } }) s

end Sys2Proof.Machine
end

