-- ==== Sys2Proof/Machine/System.lean ====
section
/-!
DEFINITION. Sys2Proof/Machine/System.lean: page 6 (R333 to R345): privileged registers, STRET, TLBI and ICINV, context records,
PREEMPT, KILL, MIGR, SECM, HALT; and their events.
-/
namespace Sys2Proof.Machine

/-! ### Privileged registers (R322, R334, R335, R341) -/

/-- A privileged register by number (Table 13.3). -/
def State.preg (s : State) (tid n : Nat) : Word :=
  let t := s.thread tid
  match n with
  | 0 => t.ctx.id.setWidth 64
  | 1 => t.ctx.tenant.setWidth 64
  | 2 => t.pondid.setWidth 64
  | 3 => t.ctx.ptbase
  | 4 => t.ctx.stvec
  | 5 => t.scause
  | 6 => t.saddr
  | 7 => t.sepc
  | 8 => t.sinfo
  | 9 => t.privst
  | 10 => t.ctx.rankset.setWidth 64
  | 11 => t.codeid.setWidth 64
  | _ => 0

/-- A write of a privileged register: reserved and RO fields keep or read as Table 13.4 gives. -/
def Thread.setPreg (t : Thread) (n : Nat) (v : Word) : Thread :=
  match n with
  | 2 => { t with pondid := v.extractLsb' 0 8 }
  | 3 => { t with ctx := { t.ctx with ptbase := v &&& 0x000FFFFFFFFFF000#64 } }
  | 4 => { t with ctx := { t.ctx with stvec := v &&& 0x0000FFFFFFFFFFFE#64 } }
  | 7 => { t with sepc := v }
  | 9 => { t with privst := (t.privst &&& 0x01FFFF0000000008#64) ||| (v &&& 3#64) }
  | 10 => { t with ctx := { t.ctx with rankset := v.extractLsb' 0 3 } }
  | _ => t

/-- RDP: numbers 12-31 raise cause 1. -/
def execRdp (a b : Reg) (s : State) : Out :=
  s.privileged (.next (if 11 < b.toNat then s.illegal 1 else s.result a (s.preg s.cur b.toNat) 0))

/-- A privileged register that WRP may write. -/
def wrpAdmits (n : Nat) : Bool := [2, 3, 4, 7, 9, 10].contains n

/-- WRP: PRIVST with UNSEAL parks until the home confirms. -/
def execWrp (a b : Reg) (s : State) : Out :=
  let v := s.r a
  let n := b.toNat
  s.privileged (.next (if !wrpAdmits n then s.illegal 1
    else
      let s := s.updMe fun t => t.setPreg n v
      if n = 9 ∧ v.getLsbD 2 then s.parkMe .unseal 0 else s.retire 0))

/-- UNSEAL: the home that SINFO names removes the seal of the current context, if it holds one, and confirms (R341). -/
def execUnseal (tid : Nat) (s : State) : Out :=
  let t := s.thread tid
  .next (if t.park.any fun p => p.why == .unseal then
      ({ s with seals := Table.set none (bits t.sinfo 31 0 * 4096 + t.ctx.id.toNat) none s.seals }).complete tid
    else s)

/-- STRET: the level becomes PPRIV; a control core stays at supervisor level (R370). -/
def execStret (_a _b : Reg) (s : State) : Out :=
  s.privileged (.next (s.ret s.me.sepc .stret))

/-! ### TLBI and ICINV (R336, R337) -/

/-- SCOPE of a control word. -/
def ctlScope (w : Word) : Nat := bits w 47 45

/-- The dies in a scope of 010 or 011. -/
def scopeDies (tid sc : Nat) : List Nat := if sc = 2 then [dieOf tid] else if sc = 3 then allDies else []

/-- The clusters in scope. -/
def scopeClusters (tid sc : Nat) : List Nat := if sc = 1 then [clusterOf tid] else (scopeDies tid sc).flatMap clustersOf

/-- The parties that acknowledge a TLBI: clusters by number, the control core of die d as 1024 + d. -/
def tlbiParties (tid sc : Nat) : List Nat := scopeClusters tid sc ++ (scopeDies tid sc).map (1024 + ·)

/-- The checks that TLBI and ICINV share, then their effect at a scope. -/
def State.invalidate (s : State) (start w : Word) (k : Nat → State) : State :=
  let sc := ctlScope w
  if 3 < sc ∨ (sc = 1 ∧ isCtl s.cur) then s.illegal 1
  else if 2 ^ 48 ≤ start.toNat then s.trap 3 start 0
  else k sc

/-- A TLBI covers a translation of some bytes. -/
def TlbiReq.covers (q : TlbiReq) (ctx : BitVec 12) (va n : Nat) : Bool :=
  (q.ctxAll || q.ctx == ctx) && (q.pages == 0 || overlaps va n q.start (q.pages * 65536))

/-- A core's micro-TLB drops the covered entries. -/
def State.dropUtlb (s : State) (q : TlbiReq) (core : Nat) : State :=
  s.updCore core fun c => { c with utlb := c.utlb.filter fun e => !q.covers e.ctx e.va e.span }

/-- The end of a TLBI: its message, or on a control core the end of its park. -/
def State.tlbiDone (s : State) (q : TlbiReq) : State :=
  if isCtl q.issuer then
    (if (s.thread q.issuer).park.any fun p => p.why == .tlbi then s.complete q.issuer else s)
  else s.post ⟨q.issuer, header 0 4 q.tag.toNat 6, payload 0 0 0 0, 3⟩

/-- TLBI. -/
def execTlbi (a b : Reg) (s : State) : Out :=
  let w := s.r b
  s.privileged (.next (s.invalidate (s.r a) w fun sc =>
    let q : TlbiReq :=
      ⟨s.cur, w.getLsbD 44, w.extractLsb' 32 12, bits (s.r a) 47 16 * 65536, bits w 31 0, w.extractLsb' 48 16, tlbiParties s.cur sc⟩
    let s := s.dropUtlb q (coreOf s.cur)
    if q.left = [] then (if isCtl s.cur then s.retire 1 else (s.tlbiDone q).retire 1)
    else
      let s' : State := { s with tlbis := s.tlbis ++ [q] }
      if isCtl s.cur then s'.parkMe .tlbi 1 else s'.retire 1))

/-- A cluster or control core that a slot belongs to, as a party of a TLBI. -/
def partyOf (tid : Nat) : Nat := if isCtl tid then 1024 + dieOf tid else clusterOf tid

/-- A cluster or control core still has an access or a job with a covered translation (R336). -/
def State.stillUses (s : State) (q : TlbiReq) (party : Nat) : Bool :=
  let store (e : Store) : Bool := q.covers e.ctx e.va.toNat e.bytes.length
  let mine (tid : Nat) : Bool := partyOf tid == party
  let access (a : Access) : Bool := mine a.tid && q.covers a.ctx a.va.toNat a.size
  let job (j : CopyJob) : Bool := (j.ended.isNone || !j.landed) && partyOf j.owner.slot == party && j.held.any fun e => q.covers e.ctx e.va e.span
  (decide (party < 1024) &&
    ((coresOf party).any (fun c => (s.core c).q.any store) || (s.cluster party).w.any store ||
      (s.cluster party).copies.toList.any fun u => u.queue.any job)) ||
  (s.dies.any fun d => d.2.stack.queue.any job) ||
  (s.chans.any fun ch => ch.2.any fun x => match x with
    | .store e => (if party < 1024 then e.cluster == party && !e.owners.any isCtl else e.owners.any mine) && store e
    | .access a => access a
    | .put p => mine p.owner && q.covers p.ctx p.va.toNat (8 * p.words.length)
    | .update u => mine u.owner && q.covers u.ctx u.va.toNat 32
    | _ => false) ||
  (s.waits.any fun w => match w.act with
    | .perform a => access a
    | _ => false) ||
  (s.threads.any fun e => match e.2.park with
    | some ⟨.granted a _, _, _, _⟩ => access a
    | _ => false)

/-- A job that holds a covered translation stops at its next chunk. -/
def CopyJob.stopFor (q : TlbiReq) (party : Nat) (j : CopyJob) : CopyJob :=
  if partyOf j.owner.slot = party ∧ (j.held.any fun e => q.covers e.ctx e.va e.span) then { j with stop := true } else j

/-- A party drops what a TLBI covers. -/
def State.dropCovered (s : State) (q : TlbiReq) (party : Nat) : State :=
  if 1024 ≤ party then s.dropUtlb q (coreOf (ctlBase + (party - 1024)))
  else
    let s := (coresOf party).foldl (fun s c => s.dropUtlb q c) s
    let s := s.updCluster party fun c =>
      { c with
        tlb := c.tlb.filter fun e => !q.covers e.ctx e.va e.span
        lines := c.lines.filter fun l => !q.covers l.ctx l.va 128
        copies := c.copies.map fun u => { u with queue := u.queue.map (CopyJob.stopFor q party) } }
    s.updDie (party / 16) fun d => { d with stack := { d.stack with queue := d.stack.queue.map (CopyJob.stopFor q party) } }

/-- The die of a party of a TLBI. -/
def partyDie (party : Nat) : Nat := if 1024 ≤ party then party - 1024 else party / 16

/-- TLBI_ACK: a party of the n-th TLBI in progress, counted from 0, drops what it covers and acknowledges once nothing of it still
uses a covered translation; 1024 + d is the control core of die d. A dead link holds the request (R387). -/
def execTlbiAck (n cluster : Nat) (s : State) : Out :=
  .next (match s.tlbis[n]? with
    | none => s
    | some q =>
      if !q.left.contains cluster ∨ !s.routeOpen (dieOf q.issuer) (partyDie cluster) then s
      else
        let s := s.dropCovered q cluster
        if s.stillUses q cluster then s
        else
          let q' : TlbiReq := { q with left := q.left.filter (· != cluster) }
          if q'.left = [] then ({ s with tlbis := s.tlbis.eraseIdx n }).tlbiDone q
          else { s with tlbis := s.tlbis.set n q' })

/-- ICINV parks its issuer until its scope has dropped the range. -/
def execIcinv (a b : Reg) (s : State) : Out :=
  let w := s.r b
  s.privileged (.next (s.invalidate (s.r a) w fun sc =>
    let ks := scopeClusters s.cur sc
    let cores := coreOf s.cur :: ks.flatMap coresOf ++ (scopeDies s.cur sc).map fun d => coreOf (ctlBase + d)
    let q : IcinvReq := ⟨s.cur, cores, ks, (s.r a).toNat, bits w 31 0⟩
    ({ s with icinvs := s.icinvs ++ [q] }).parkMe .icinv 1))

/-- A fetched word lies in an ICINV's range. -/
def IcinvReq.covers (q : IcinvReq) (f : FetchWord) : Bool := q.count == 0 || overlaps f.va 2 q.start q.count

/-- ICINV_COMPLETE: the n-th ICINV in progress, counted from 0. -/
def execIcinvComplete (n : Nat) (s : State) : Out :=
  .next (match s.icinvs[n]? with
    | none => s
    | some q =>
      let s := q.cores.foldl (fun s c => s.updCore c fun x => { x with fetch := x.fetch.filter fun f => !q.covers f }) s
      let s := q.clusters.foldl (fun s k => s.updCluster k fun x => { x with icache := x.icache.filter fun f => !q.covers f }) s
      let s : State := { s with icinvs := s.icinvs.eraseIdx n }
      if (s.thread q.issuer).park.any fun p => p.why == .icinv then s.complete q.issuer else s)

/-- TABLE_WALK: a walk for a slot's context fills the micro-TLB of its core and the TLB of its cluster; an entry that cannot be
corrected is recorded and not cached (R330, R331). -/
def execTableWalk (tid va : Nat) (s : State) : Out :=
  let c := (s.thread tid).ctx
  let real := goodTid tid || (isCtl tid && decide (tid < ctlBase + 8))
  .next (if !real ∨ va < 2 ^ 32 ∨ 2 ^ 48 ≤ va then s
    else match s.walk c.ptbase va with
      | .absent => s
      | .bad pa => s.noteBad pa 8
      | .leaf e span =>
        let x : TlbEntry := ⟨c.id, va / span * span, span, e⟩
        let add (n : Nat) (l : List TlbEntry) : List TlbEntry := (x :: l.filter (· != x)).take n
        let s := s.updCore (coreOf tid) fun k => { k with utlb := add 16 k.utlb }
        if isCtl tid then s else s.updCluster (clusterOf tid) fun k => { k with tlb := add 4096 k.tlb })

/-! ### Saving a thread (R339) -/

/-- The task handles that a slot runs: its own and those of the helpers below. -/
def Thread.chain (t : Thread) : List Word := (t.taskh :: t.levels.map Level.taskh).filter (· != 0)

/-- Change the entries of a chain of tasks; their ADOPTED bits stay. -/
def State.placeChain (s : State) (c : Ctx) (st : TaskState) (w1 : Word) : List Word → State
  | [] => s
  | h :: hs =>
    let s := match s.liveEntry c h with
      | some pa => s.setEntry c (handleIndex h) pa ((s.word pa).getLsbD 7) st w1
      | none => s.noteEntry c h
    s.placeChain c st w1 hs

/-- A completion under way to a slot goes to the record that its thread is saved in (R324). -/
def Msg.follow (tid r : Nat) (m : Msg) : Msg :=
  if m.dest = tid ∧ 1 ≤ kindOf m.header ∧ kindOf m.header ≤ 3 then { m with dest := recDest r } else m

/-- The messages that a record holds: those that wait for the slot, in its core's mailbox and then in its system-message queue, at
most 22 (R324). -/
def State.heldMsgs (s : State) (tid : Nat) : List Msg :=
  (s.msgsOf tid ++ (s.core (coreOf tid)).sysq.filter (·.dest == tid)).take 22

/-- Steps 2 and 3 of R339: a HELD or STOPPED thread spills its frames and its record is written. -/
def State.writeOut (s : State) (tid : Nat) (va : Word) (l : RecLoc) : State :=
  let s := (((s.loseLeap tid).loseSuspended tid false (s.thread tid).adepth).unbind tid).lapse tid
  let (s, whole) := s.spillAll tid
  let s := (if whole then s else s.noteFrame tid (s.thread tid).wsp 128).markStores tid l.lo
  let t := s.thread tid
  let x : Saved := ⟨l.cut, l.hi, t.parent, t.unit, t.levels, t.pendJob, t.leaph.state, va, t.frames, t.reserve⟩
  let s : State := { s with saves := Table.set Saved.none l.lo x s.saves }
  s.putRecord l s.me.ctx.id va 0 (s.toRecord tid (s.drainsLeft tid l.lo) (s.heldMsgs tid))

/-- Steps 5 and 6 of R339: what follows the thread goes with its record, its tasks are PARKED, and its slot is free. Its posted
counting events are applied, for the slot will be another thread's (R406). -/
def State.saveThread (s : State) (tid : Nat) (l : RecLoc) : State :=
  let t := s.thread tid
  let held := s.heldMsgs tid
  let s := s.updCore (coreOf tid) fun c =>
    { c with mailbox := c.mailbox.filter fun m => !held.contains m, sysq := c.sysq.filter fun m => !held.contains m }
  let s := s.refill (coreOf tid) 16
  let s : State := { s with outbox := s.outbox.map (Msg.follow tid l.lo) }
  let s := ((s.saveJobs tid l.lo).saveResvs tid l.lo).applyOf tid
  let s := s.placeChain t.ctx .parked (entryW1 (if t.adepth = 0 then 4 else 5) (homeDie l.lo) l.lo) t.chain
  (s.setThread tid Thread.free).cutDone tid

/-- CTXS. -/
def execCtxs (a b : Reg) (is : IPfx) (s : State) : Out :=
  let va := s.addrOf b is
  let tid := (s.r a).toNat
  s.privileged (.next (match s.findRec s.cur va .write with
    | .trap c x info => (s.note14 s.cur s.me.ctx c x 8).trap c x info
    | .at l =>
      let st := (s.thread tid).state
      if !goodTid tid ∨ !(st == .held || st == .stopped) then s.result a 1 1
      else
        let s := s.writeOut tid va l
        (s.release tid 3).1.releasing 3 fun s => (s.saveThread tid l).result a 0 1))

/-! ### Loading a record (R340) -/

/-- A record starts a new thread in a slot (R71, R323). -/
def State.loadFresh (s : State) (l : RecLoc) (by' : BitVec 12) (va : Word) (tid : Nat) (ws : List Word) : State :=
  let c := ctxOfWords ws
  let p := payload (nth ws 44) (nth ws 45) (nth ws 46) (nth ws 47)
  (s.clearValid l by' va).startThread tid c
    { pc := BitVec.ofNat 64 (bits (nth ws 16) 47 0), p := p, fmt := 0, scp := 0, rank := 0, pondid := c.pond (dieOf tid), taskh := 0
      priv := (nth ws 0).getLsbD 61 }

/-- A saved thread takes a slot. -/
def State.loadSaved (s : State) (l : RecLoc) (va : Word) (tid : Nat) (ws : List Word) : State :=
  let r := threadOfRecord ws (Table.get Saved.none s.saves l.lo)
  let last := bits (nth ws 0) 16 0
  let t : Thread :=
    { r with
      pondid := r.ctx.pond (dieOf tid)
      tsr := { r.tsr with migrated := r.tsr.migrated || dieOf last != dieOf tid }
      issuedAt := s.now
      wokenAt := s.now }
  (s.takeRecord l s.me.ctx.id va tid 0 t).placeChain t.ctx .running (entryW1 3 (dieOf tid) tid) t.chain

/-- Some word of a record cannot be corrected. -/
def State.recBad (s : State) (l : RecLoc) : Bool :=
  s.anyBad l.lo (8 * l.cut) || (decide (l.cut < 256) && s.anyBad l.hi (2048 - 8 * l.cut))

/-- CTXL. -/
def execCtxl (a b : Reg) (is : IPfx) (s : State) : Out :=
  let va := s.addrOf b is
  let target := (s.r a).toNat
  let core := target / 16
  s.privileged (.next (match s.findRec s.cur va .rmw with
    | .trap c x info => (s.note14 s.cur s.me.ctx c x 8).trap c x info
    | .at l =>
      if s.recBad l then ((s.noteBad l.lo (8 * l.cut)).noteBad l.hi (2048 - 8 * l.cut)).trap 14 va 0
      else if !s.recValid l then s.result a (BitVec.ofNat 64 (2 ^ 63 + 1)) 1
      else if !goodTid target then s.result a (BitVec.ofNat 64 (2 ^ 63 + 2)) 1
      else if s.darkCore core then s.trap 5 (BitVec.ofNat 64 target) 0
      else if (s.cluster (core / 64)).qreq then s.waitQuiet core .ctxl
      else
        let ws := s.recWords l
        let fresh := (nth ws 0).getLsbD 62
        match s.freeSlots core with
        | [] => s.parkAgain .ctxLoad
        | tid :: _ =>
          if bits (nth ws 0) 47 32 ≠ 0 ∨ (!fresh ∧ !s.recReady l core) then s.parkAgain .ctxLoad
          else
            let s := if fresh then s.loadFresh l s.me.ctx.id va tid ws else s.loadSaved l va tid ws
            (s.acquire tid 3).result a (BitVec.ofNat 64 tid) 1))

/-! ### PREEMPT, KILL, MIGR, SECM, HALT -/

/-- A slot's thread is a tadpole under way: its old slot is free. -/
def State.moving (s : State) (tid : Nat) : Bool :=
  (s.thread tid).state == .free && s.dies.any fun d => d.2.arrivals.any fun x => x.oldTid == tid

/-- PREEMPT. -/
def execPreempt (a _b : Reg) (s : State) : Out :=
  let tid := (s.r a).toNat
  s.privileged (.next (if !goodTid tid then s.result a 2 0
    else if tid = s.cur then s.result a 1 0
    else if s.moving tid then s.result a 3 0
    else if (s.thread tid).state ≠ .running then s.result a 1 0
    else (s.parkMe (.preempt tid a) 0).upd tid fun t => { t with preempts := t.preempts ++ [s.cur] }))

/-- KILL: the result is written at once; a killer of its own context is told through the supervisor slot. -/
def execKill (a _b : Reg) (s : State) : Out :=
  let ctx : BitVec 12 := (s.r a).extractLsb' 0 12
  s.privileged (.next (if ctx = 0 then s.result a 1 0
    else if s.kills.any fun k => k.ctx == ctx then s.result a 2 0
    else
      let own := s.me.ctx.id == ctx
      (s.result a 0 0).startKill ctx (if own then none else some s.cur) (dieOf s.cur)))

/-- MIGR (R343, R379, R400): the thread is marked and moves at its next group boundary. -/
def execMigr (a b : Reg) (s : State) : Out :=
  let tid := (s.r a).toNat
  let die := bits (s.r b) 2 0
  s.privileged (.next (if !goodTid tid then s.result a 2 0
    else if s.darkCore (tid / 16) then s.trap 5 (BitVec.ofNat 64 tid) 0
    else if (s.thread tid).state ≠ .running then s.result a 1 0
    else if dieOf tid = die then s.result a 3 0
    else
      let issuer := s.cur
      ((s.result a 0 0).lapse tid).upd tid fun t => { t with migr := some (die, some issuer) }))

/-- SECM: the Ramov core stands beside die 0 (R16); a dead link holds the request (R387). -/
def execSecm (a b : Reg) (is : IPfx) (s : State) : Out :=
  let va := s.addrOf b is
  s.privileged (.next (s.withRec va 8 64 fun ws _ s =>
    s.releasing 3 fun s =>
      if !s.routeOpen (dieOf s.cur) 0 then s.parkAgain .backPressure
      else if 16 ≤ s.ramov.length then s.result a 1 1
      else ({ s with ramov := s.ramov ++ [(⟨s.cur, s.me.ctx, true, false, ws, va⟩ : RamovReq)] } : State).result a 0 1))

/-- HALT: a control core waits for an event of its die (R370). -/
def execHalt (_a _b : Reg) (s : State) : Out :=
  let now := if isCtl s.cur then s.ctlEvent (dieOf s.cur) else !(s.msgsOf s.cur).isEmpty
  s.privileged (.next (if now then s.retire 0 else s.parkMe .halt 0))

/-! ### Trap delivery and soft errors -/

/-- USER_TRAP_DELIVERY: a trap that waits for a frame place, or a cause 10 or 11 at a boundary, goes to TVEC (R76). -/
def execUserTrapDelivery (tid : Nat) (s : State) : Out :=
  let t := s.thread tid
  .next (match t.delivery with
    | some tr => if t.state = .running ∧ t.placeFree then s.deliverUser tid tr else s
    | none => if t.pendTrap.any (fun x => t.toUser x.1) then s.boundaryTrap tid else s)

/-- A trap of adopted work has been delivered to the supervisor, and no group of its handler has been performed (R200). -/
def Thread.atDefault (t : Thread) : Bool :=
  t.state == .running && t.sbusy && t.tsr.priv && t.privst.getLsbD 3 && !t.privst.getLsbD 0 && t.park.isNone &&
    decide (0 < t.adepth) && t.pc == t.ctx.stvec &&& 0x0000FFFFFFFFFFFE#64

/-- The supervisor's default action for a fault of adopted work (R200): its task is FAILED, and the top adoption frame pops as at QUIT,
without QUIT's steps; the level becomes PPRIV and SBUSY is clear. What the task still holds of ponds and queues goes with it (log 58). -/
def State.defaultAction (s : State) (tid : Nat) : State :=
  let t := s.thread tid
  let s := if t.taskh = 0 then s else s.markTask t.ctx t.taskh .failed
  let s := (((s.lend tid).1).unbind tid).upd tid fun t =>
    { t with privst := t.privst &&& ~~~2#64, pendTrap := none, pendJob := none, barWait := none }
  s.popAdoption tid

/-- SUPERVISOR_TRAP_DELIVERY: a pending trap that TVEC does not take goes to STVEC (R319); for a fault of adopted work that has come
there, the supervisor's default action in place of its handler's program (R200, log 58). -/
def execSupervisorTrapDelivery (tid : Nat) (s : State) : Out :=
  let t := s.thread tid
  .next (if t.atDefault then s.defaultAction tid
    else if t.delivery.isNone && t.pendTrap.any (fun x => !t.toUser x.1) then s.boundaryTrap tid else s)

/-- SOFT_ERROR: a corrected error is counted in CECNT of the home's kind; an uncorrectable one leaves the word so (R207, R347). -/
def execSoftError (pa : Nat) (correctable : Bool) (s : State) : Out :=
  let kind : Option Nat := match storageOf pa with
    | .tcm => some 0
    | .spad => some 1
    | .sram => some 2
    | .device => some 3
    | _ => none
  .next (match kind with
    | none => if storageOf pa = .ctlMem ∧ !correctable then { s with bad := Table.set false (wordOf pa) true s.bad } else s
    | some k =>
      if correctable then s.updDie (homeDie pa) fun d => { d with cecnt := d.cecnt.setIfInBounds k (sat64 ((d.cecnt[k]?).getD 0)) }
      else { s with bad := Table.set false (wordOf pa) true s.bad })

end Sys2Proof.Machine
end

