-- ==== Sys2Proof/Machine/Dies.lean ====
section
/-!
DEFINITION. Sys2Proof/Machine/Dies.lean: which cores have power, the die scheduler (R392, R393), slot starts (R165, R167, R171)
and migration (R394 to R400).
-/
namespace Sys2Proof.Machine

/-! ### Cores that can take work -/

/-- A core with power and clock (R369, R374 to R379). -/
def State.powered (s : State) (tid : Nat) : Bool :=
  isCtl tid ||
    (let c := s.cluster (clusterOf tid)
     c.coreOn.getLsbD (coreIn tid) && !c.gate && c.railSpad == 2 && (c.railRow[rowOf tid]?).getD 0 == 2 &&
       !((c.rows[rowOf tid]?).getD ⟨0, false, 0, false⟩).dark)

/-- A core that takes new work: its cluster is not quiesced, it has power, and it has a free slot (R373, R392). -/
def State.coreTakes (s : State) (core : Nat) : Bool :=
  !(s.cluster (core / 64)).qreq && s.powered (core * 16) && !(s.freeSlots core).isEmpty

/-- An eligible core (R392). -/
def State.coreEligible (s : State) (core : Nat) : Bool := s.coreTakes core && decide ((s.core core).taskq.length < 64)

/-- The load of a core. -/
def State.coreLoad (s : State) (core : Nat) : Nat :=
  ((slotsOf core).filter fun t => (s.thread t).state != SlotState.free).length + (s.core core).taskq.length +
    (s.core core).startq.length

/-- The first of some numbers with the least measure. -/
def leastBy (f : Nat → Nat) : List Nat → Option Nat
  | [] => none
  | x :: xs =>
    match leastBy f xs with
    | some y => some (if f y < f x then y else x)
    | none => some x

/-- The core that the die scheduler chooses (R392). -/
def State.chooseCore (s : State) (d : Nat) : Option Nat :=
  let ks := (clustersOf d).filter fun k => (coresOf k).any s.coreEligible
  (leastBy (fun k => ((coresOf k).map s.coreLoad).sum) ks).bind fun k =>
    leastBy s.coreLoad ((coresOf k).filter s.coreEligible)

/-! ### The die scheduler (R392, R393) -/

/-- The highest rank whose FIFO is not empty, with its head. -/
def DieSt.head (x : DieSt) : Option (Fin 8 × SchedItem) :=
  ([7, 6, 5, 4, 3, 2, 1, 0] : List (Fin 8)).findSome? fun r => (x.fifos.get r).head?.map fun i => (r, i)

/-- Drop the head of a FIFO. -/
def State.dropHead (s : State) (d : Nat) (r : Fin 8) : State :=
  s.updDie d fun x => { x with fifos := x.fifos.set r.val ((x.fifos.get r).drop 1) r.isLt }

/-- A packet moves to a core's task queue if its task is still UNSTARTED (R393). -/
def State.movePacket (s : State) (d core : Nat) (p : Packet) : State :=
  match s.liveEntry p.ctx p.handle with
  | some pa =>
    if taskStateOf (s.word pa) = TaskState.unstarted then
      (s.setEntry p.ctx (handleIndex p.handle) pa false .unstarted (entryW1 1 d (core * 16))).toCoreQueue core (.packet p)
    else s
  | none => s.noteEntry p.ctx p.handle

/-- A launch record yields its next unit; with its last one it leaves its FIFO. -/
def State.moveUnit (s : State) (d core : Nat) (r : Fin 8) (n : Nat) : State :=
  match Table.get none (s.die d).launches n with
  | none => s.dropHead d r
  | some x =>
    match x.toPlace with
    | [] => s.dropHead d r
    | i :: rest =>
      let s := s.updDie d fun y => { y with launches := Table.set none n (some { x with toPlace := rest }) y.launches }
      let s := s.toCoreQueue core (.unit d n i)
      if rest = [] then s.dropHead d r else s

/-- SCHEDULER_PLACE: one unit or packet goes to the chosen core. -/
def execSchedulerPlace (die : Nat) (s : State) : Out :=
  .next (match s.chooseCore die, (s.die die).head with
    | some core, some (r, .packet p) => if die < 8 then (s.dropHead die r).movePacket die core p else s
    | some core, some (r, .launch n) => if die < 8 then s.moveUnit die core r n else s
    | _, _ => s)

/-! ### Placing a tadpole (R396, R397) -/

/-- The clusters of a die in order of preference (Table 16.5). -/
def prefClusters (pref : Nat) : List Nat :=
  match pref with
  | 0 => List.range 12
  | 1 => (List.range 12).reverse
  | 2 => [5, 6, 4, 7, 3, 8, 2, 9, 1, 10, 0, 11]
  | k => (k - 3) :: (List.range 12).filter (· != k - 3)

/-- A core that can take a tadpole (R396). -/
def State.suits (s : State) (x : Tadpole) (core : Nat) : Bool :=
  s.coreTakes core && decide (x.msgs.length ≤ (s.core core).mailFree)

/-- The slot that the head tadpole of a die gets. -/
def State.spot (s : State) (d : Nat) : Option (Tadpole × Nat) :=
  match (s.die d).arrivals with
  | [] => none
  | x :: _ =>
    ((prefClusters x.pref).findSome? fun k => (coresOf (d * 16 + k)).find? (s.suits x)).bind fun core =>
      ((s.freeSlots core).head?).map fun tid => (x, tid)

/-- The head tadpole skips the first cluster of its list because it is quiesced. -/
def State.skipped (s : State) (d : Nat) : State :=
  match (s.die d).arrivals with
  | [] => s
  | x :: _ =>
    match (prefClusters x.pref).head? with
    | some k => if (s.cluster (d * 16 + k)).qreq then s.setWake (d * 16 + k) .tadpole else s
    | none => s

/-- A tadpole is restored in a slot (R397): its messages, its identity on the new die, its tasks' places, and MIGR's answer, which
reaches a thread that moved itself at its new slot (R400). -/
def State.placeTadpole (s : State) (d : Nat) (x : Tadpole) (tid : Nat) : State :=
  let s := s.updDie d fun y => { y with arrivals := y.arrivals.drop 1 }
  let t : Thread :=
    { x.thread with
      pondid := x.thread.ctx.pond d
      tsr := { x.thread.tsr with migrated := true }
      levels := x.thread.levels.map fun l => { l with migrated := true }
      park := none
      issuedAt := s.now
      wokenAt := s.now }
  let s := (s.setThread tid t).arriveAll tid x.msgs
  let s : State := { s with outbox := s.outbox ++ x.late.map fun (m : Msg) => { m with dest := tid } }
  let s := s.placeChain t.ctx .running (entryW1 3 d tid) t.chain
  let s := s.acquire tid 3
  match x.issuer with
  | some i => s.post ⟨if i = x.oldTid then tid else i, header 0 4 0 8, payload (BitVec.ofNat 64 x.oldTid) (BitVec.ofNat 64 tid) 0 0, 3⟩
  | none => s

/-- TADPOLE_PLACE. -/
def execTadpolePlace (die : Nat) (s : State) : Out :=
  .next (if 8 ≤ die then s
    else
      let s := s.skipped die
      match s.spot die with
      | some (x, tid) => s.placeTadpole die x tid
      | none => s)

/-! ### Packing a thread (R395, R400) -/

/-- Every job that a slot issued has ended. -/
def State.jobsDone (s : State) (tid : Nat) : Bool := (List.range ((s.thread tid).adepth + 1)).all fun l => !s.jobsOut tid l

/-- Every request and reservation of a slot ends (R203, Table 14.8). -/
def State.endLeaps (s : State) (tid : Nat) : State :=
  let s := (s.loseLeap tid).loseSuspended tid true (s.thread tid).adepth
  (s.dropResvs tid).upd tid fun t =>
    { t with
      leaph := { t.leaph with state := .none }
      levels := t.levels.map fun (l : Level) => { l with leap := { l.leap with state := .none } } }

/-- The steps of R395 before a tadpole forms. -/
def State.packThread (s : State) (tid die pref : Nat) : State :=
  if s.jobsDone tid then
    let (s, complete) := s.release tid 3
    if complete then
      let (s, whole) := s.spillAll tid
      let s := if whole then s else s.noteFrame tid (s.thread tid).wsp 128
      (((s.endLeaps tid).unbind tid).cutDone tid).upd tid fun t => { t with park := some ⟨.migration die pref true, t.pc, 0, false⟩ }
    else s
  else s

/-- An explicit MIGR reaches its target at a boundary: a parked target leaves its park, and a packing for an ATTRACT page is
abandoned (R400). -/
def State.takeMark (s : State) (tid : Nat) : State :=
  match (s.thread tid).migr with
  | none => s
  | some (die, _) =>
    let packing := (s.thread tid).park.any fun p => match p.why with
      | .migration d pref _ => d == die && decide (3 ≤ pref)
      | _ => false
    if packing then s
    else
      let s := s.resolvePark tid
      if (s.thread tid).state = .running then
        s.upd tid fun t => { t with park := some ⟨.migration die (3 + tid / 1024 % 16) false, t.pc, 0, false⟩ }
      else s

/-- A migrating thread is packed as far as R395 allows; a PREEMPT that has reached it goes first. -/
def State.packTurn (s : State) (tid : Nat) : State :=
  if (s.thread tid).state ≠ .running ∨ (s.thread tid).preempts ≠ [] then s
  else
    let s := s.takeMark tid
    match (s.thread tid).park with
    | some ⟨.migration die pref false, _, _, _⟩ => s.packThread tid die pref
    | _ => s

/-- MIGRATION_PACK. -/
def execMigrationPack (tid : Nat) (s : State) : Out := .next (s.packTurn tid)

/-- A tadpole is shipped: its old slot is free. The slot's posted counting events are applied, for it will be another thread's
(R406). -/
def State.ship (s : State) (tid die pref : Nat) : State :=
  let s := s.applyOf tid
  let t := s.thread tid
  let core := coreOf tid
  let mine : Msg → Bool := fun m => m.dest == tid
  let held : Msg → Bool := fun m => m.dest == tid && decide (1 ≤ kindOf m.header) && decide (kindOf m.header ≤ 3)
  let x : Tadpole :=
    { thread := { t with migr := none }, oldTid := tid, msgs := s.msgsOf tid
      late := (s.core core).sysq.filter mine ++ s.outbox.filter held, pref := pref
      issuer := t.migr.bind fun m => if 3 ≤ pref then m.2 else none }
  let s : State := { s with outbox := s.outbox.filter fun m => !held m }
  let s := s.updCore core fun c =>
    { c with mailbox := c.mailbox.filter fun m => !mine m, sysq := c.sysq.filter fun m => !mine m }
  let s := s.refill core 16
  let s := s.updDie die fun y => { y with arrivals := y.arrivals ++ [x] }
  s.setThread tid Thread.free

/-- A packing is for the explicit move that its slot is marked with, or the slot has no mark (R395, R400). -/
def Thread.packedFor (t : Thread) (die pref : Nat) : Bool := t.migr.all fun m => m.1 == die && decide (3 ≤ pref)

/-- TADPOLE_SHIP: the arrival queue of 64 accepts a packed thread. A PREEMPT, or a MIGR that the packing was not for, goes first; a
dead link holds the tadpole (R387). -/
def execTadpoleShip (tid : Nat) (s : State) : Out :=
  .next (if (s.thread tid).preempts ≠ [] then s
    else match (s.thread tid).park with
      | some ⟨.migration die pref true, _, _, _⟩ =>
        if (s.die die).arrivals.length < 64 ∧ (s.thread tid).packedFor die pref ∧ s.routeOpen (dieOf tid) die then s.ship tid die pref
        else s
      | _ => s)

/-! ### Starting a slot (R165, R167, R171) -/

/-- A started thread acquires the scope that its sender released. -/
def State.startIn (s : State) (tid : Nat) (c : Ctx) (x : Start) (parent : Option Bound) (unit : Option (Nat × Nat))
    (scope : Nat) : State :=
  ((s.startThread tid c x).upd tid fun t => { t with parent := parent, unit := unit }).acquire tid scope

/-- The oldest start message of a core starts, or is discarded for want of a handler. -/
def State.startMsg (s : State) (tid : Nat) (m : StartMsg) : State :=
  let s := s.updCore (coreOf tid) fun c => { c with startq := c.startq.drop 1 }
  match m.entry with
  | none => s.tellSup (dieOf tid) 2 (BitVec.ofNat 64 m.sender) (BitVec.ofNat 64 m.index) 0 0
  | some e =>
    s.startIn tid m.ctx
      ⟨e &&& 0x0000FFFFFFFFFFFF#64, m.regs, m.fmt, m.scp, m.rank, pondFor m.ctx m.sender tid m.pondid, 0, false⟩ none none m.scope

/-- The rank of an item of a task queue. -/
def State.rankOf (s : State) (x : TaskItem) : Nat :=
  match x with
  | .packet p => p.rank.toNat
  | .unit d n _ => ((Table.get none (s.die d).launches n).map fun r => r.rank.toNat).getD 0

/-- The place of the oldest item of the highest rank. -/
def State.bestItem (s : State) (q : List TaskItem) : Option (Nat × TaskItem) :=
  let top := (q.map s.rankOf).foldl max 0
  (q.findIdx? fun x => s.rankOf x == top).bind fun i => (q[i]?).map fun x => (i, x)

/-- A packet whose claim succeeds starts (R167, R181); a packet that a helper has claimed is discarded. -/
def State.startPacket (s : State) (tid : Nat) (p : Packet) : State :=
  match s.claim p.ctx p.handle .unstarted false tid with
  | none => s.noteEntry p.ctx p.handle
  | some s =>
    let w := p.words
    s.startIn tid p.ctx
      ⟨BitVec.ofNat 64 (bits (w.get 0) 47 0), #v[w.get 1, w.get 2, w.get 3, w.get 4], w.get 5, w.get 6, p.rank,
        pondFor p.ctx p.issuer tid p.pondid, p.handle, false⟩ p.parent none p.scope

/-- A unit of a launch starts (R171). -/
def State.startUnit (s : State) (tid d n i : Nat) : State :=
  match Table.get none (s.die d).launches n with
  | none => s
  | some r =>
    let w := r.block
    s.startIn tid r.ctx
      ⟨BitVec.ofNat 64 (bits (w.get 0) 47 0), #v[BitVec.ofNat 64 i, w.get 3 + w.get 4 * BitVec.ofNat 64 i, r.addr, 0], w.get 5,
        w.get 6, r.rank, pondFor r.ctx r.tid tid r.pondid, 0, false⟩ none (some (d, n)) 3

/-- The head tadpole of the core's die goes before the core's queues. -/
def State.forTadpole (s : State) (core : Nat) : Bool := (s.spot (core / 1024)).any fun x => coreOf x.2 == core

/-- SLOT_START: the lowest free slot of a core starts the oldest start message, else the oldest item of the highest rank. -/
def execSlotStart (core : Nat) (s : State) : Out :=
  .next (if !goodTid (core * 16) ∨ !s.coreTakes core ∨ s.forTadpole core then s
    else match (s.freeSlots core).head? with
      | none => s
      | some tid =>
        let c := s.core core
        match c.startq with
        | m :: _ => s.startMsg tid m
        | [] =>
          match s.bestItem c.taskq with
          | none => s
          | some (i, x) =>
            let s := s.updCore core fun c => { c with taskq := c.taskq.eraseIdx i }
            match x with
            | .packet p => s.startPacket tid p
            | .unit d n i => s.startUnit tid d n i)

end Sys2Proof.Machine
end

