-- ==== Sys2Proof/Machine/Float.lean ====
section
/-!
DEFINITION. Sys2Proof/Machine/Float.lean: the scalar floating-point instructions, page 7 ops 23 to 41 (R116 to R128).
Every operation over one element is defined here for the vector unit as well.
-/
namespace Sys2Proof.Machine

/-- The format of a floating-point type code (Table 2.4). -/
def fmtOfType (t : Reg) : Fmt :=
  match t.toNat with
  | 8 => .fp16
  | 9 => .bf16
  | 10 => .fp32
  | _ => .fp64

/-- The modes of FCTL that arithmetic reads (R107). -/
structure Modes where
  rm    : Rm
  flush : Bool
  deriving DecidableEq, Repr

/-- The modes of a slot. -/
def Thread.modes (t : Thread) : Modes := ⟨fctlRm t.fctl, fctlFlush t.fctl⟩

/-- An input element, a subnormal read as zero under FLUSH (R110). -/
def inF (f : Fmt) (md : Modes) (x : Nat) : FVal := flushIn f md.flush (decodeF f x)

/-- The final rounding of an arithmetic result, with the flags of its special cases (R113, R118). -/
def deliverF (f : Fmt) (md : Modes) (x : Exact) : Rounded :=
  let r := encodeRound f md.rm false md.flush x.v
  ⟨r.bits, r.fl.or { FFlags.none with nv := x.nv, dz := x.dz }⟩

/-- x + y. -/
def fAdd (f : Fmt) (md : Modes) (x y : Nat) : Rounded := deliverF f md (exactAdd md.rm (inF f md x) (inF f md y))

/-- x - y. -/
def fSub (f : Fmt) (md : Modes) (x y : Nat) : Rounded := deliverF f md (exactAdd md.rm (inF f md x) (inF f md y).negate)

/-- x * y. -/
def fMul (f : Fmt) (md : Modes) (x y : Nat) : Rounded := deliverF f md (exactMul (inF f md x) (inF f md y))

/-- x / y. -/
def fDiv (f : Fmt) (md : Modes) (x y : Nat) : Rounded := deliverF f md (exactDiv (inF f md x) (inF f md y))

/-- The square root of y. -/
def fSqrt (f : Fmt) (md : Modes) (y : Nat) : Rounded := deliverF f md (exactSqrt (inF f md y))

/-- x * y + d, with one rounding. -/
def fFma (f : Fmt) (md : Modes) (x y d : Nat) : Rounded :=
  deliverF f md (exactFma md.rm (inF f md x) (inF f md y) (inF f md d))

/-- d - x * y, with one rounding. -/
def fFms (f : Fmt) (md : Modes) (x y d : Nat) : Rounded :=
  deliverF f md (exactFma md.rm (inF f md x).negate (inF f md y) (inF f md d))

/-- The lesser, or the greater, of two elements (R120). -/
def fPick (greater : Bool) (f : Fmt) (md : Modes) (x y : Nat) : Rounded :=
  let a := inF f md x
  let b := inF f md y
  let v := if a.isNan then b else if b.isNan then a else if b.below a != greater then b else a
  ⟨(encodeRound f .rne false false v).bits, { FFlags.none with nv := a.isSnan || b.isSnan }⟩

/-- The relations of FEQ, FLT and FLE. -/
inductive FRel where
  | eq | lt | le
  deriving DecidableEq, Repr

/-- A comparison of two elements and its NV flag (R121). -/
def fCompare (rel : FRel) (f : Fmt) (md : Modes) (x y : Nat) : Bool × FFlags :=
  let a := inF f md x
  let b := inF f md y
  if a.isNan || b.isNan then
    (false, { FFlags.none with nv := rel != .eq || a.isSnan || b.isSnan })
  else
    (match rel with
      | .eq => a.cmp b == .eq
      | .lt => a.cmp b == .lt
      | .le => a.cmp b != .gt, FFlags.none)

/-- A conversion between floating-point types (R122). -/
def fConvert (src dst : Fmt) (md : Modes) (y : Nat) : Rounded := encodeRound dst md.rm false md.flush (inF src md y)

/-- A conversion to an integer within bounds (R115, R123). -/
def fToInt (f : Fmt) (md : Modes) (rm : Rm) (lo hi : Int) (y : Nat) : Int × FFlags :=
  match inF f md y with
  | .nan _ _ => (0, { FFlags.none with nv := true })
  | .inf neg => (if neg then lo else hi, { FFlags.none with nv := true })
  | .fin neg m e => toIntClamp rm lo hi neg m e

/-- A conversion of an integer (R124). -/
def fOfInt (f : Fmt) (md : Modes) (v : Int) : Rounded :=
  encodeRound f md.rm false md.flush (.fin (decide (v < 0)) v.natAbs 0)

/-- The class bit of an element (R125). -/
def fClass (f : Fmt) (y : Nat) : Nat :=
  match decodeF f y with
  | .nan sig _ => if sig then 8 else 9
  | .inf neg => if neg then 0 else 7
  | .fin neg m e =>
    if m = 0 then (if neg then 3 else 4)
    else if ltPow2 m e f.emin then (if neg then 2 else 5)
    else (if neg then 1 else 6)

/-- 1 / x of a nonzero magnitude, to at least 72 bits with a sticky last bit. -/
def recip (m : Nat) (e : Int) : Nat × Int :=
  let k := 72 + Nat.log2 m
  (2 * (2 ^ k / m) + (if 2 ^ k % m = 0 then 0 else 1), -e - k - 1)

/-- The reciprocal of the square root of m * 2^e for a nonzero m, to at least 72 bits with a sticky last bit. -/
def rsqrtFin (m : Nat) (e : Int) : Nat × Int :=
  let k : Nat := 2 * (72 + Nat.log2 m) + (if e % 2 = 0 then 0 else 1)
  let r := isqrt (2 ^ k / m)
  (2 * r + (if r * r * m = 2 ^ k then 0 else 1), -((e + k) / 2) - 1)

/-- RCP, or RSQ, of an element (R126). -/
def fRecip (root : Bool) (f : Fmt) (y : Nat) : Rounded :=
  match decodeF f y with
  | .nan sig _ => ⟨f.nan false, { FFlags.none with nv := sig }⟩
  | .inf neg =>
    if root && neg then ⟨f.nan false, { FFlags.none with nv := true }⟩ else ⟨f.signBit neg, FFlags.none⟩
  | .fin neg m e =>
    if m = 0 then ⟨f.signBit neg + f.infBits, { FFlags.none with dz := true }⟩
    else if root && neg then ⟨f.nan false, { FFlags.none with nv := true }⟩
    else
      let (k, q) := if root then rsqrtFin m e else recip m e
      shortResult f neg k q

/-- The element with its sign bit cleared (R127). -/
def fAbs (f : Fmt) (y : Nat) : Nat := y % 2 ^ (f.width - 1)

/-- The element with its sign bit inverted. -/
def fNeg (f : Fmt) (y : Nat) : Nat :=
  let s := y / 2 ^ (f.width - 1) % 2
  fAbs f y + (1 - s) * 2 ^ (f.width - 1)

/-! ### The instructions -/

/-- The element of a type in the low bits of a register (R116). -/
def low (f : Fmt) (x : Word) : Nat := x.toNat % 2 ^ f.width

/-- Raise flags in FCTL of the issuing slot. -/
def State.raise (s : State) (fl : FFlags) : State := s.updMe fun t => { t with fctl := raiseFlags t.fctl fl }

/-- A rounded result written with its flags. -/
def State.resultF (s : State) (rd : Reg) (x : Rounded) (drops : Nat) : State :=
  (s.raise x.fl).result rd (BitVec.ofNat 64 x.bits) drops

/-- A binary operation of A and B. -/
def State.binF (s : State) (op : Fmt → Modes → Nat → Nat → Rounded) (a b : Reg) (r : Option RPfx) (drops : Nat) : State :=
  let f := fmtOfType (floatType (eOf r))
  s.resultF (destOf a r) (op f s.me.modes (low f (s.r a)) (low f (s.r b))) drops

/-- A comparison of A and B. -/
def State.cmpF (s : State) (rel : FRel) (a b : Reg) (r : Option RPfx) : State :=
  let f := fmtOfType (floatType (eOf r))
  let c := fCompare rel f s.me.modes (low f (s.r a)) (low f (s.r b))
  (s.raise c.2).result (destOf a r) (ofBool c.1) 0

/-- FADD. -/
def execFadd (a b : Reg) (r : Option RPfx) (s : State) : Out := .next (s.binF fAdd a b r 0)

/-- FSUB. -/
def execFsub (a b : Reg) (r : Option RPfx) (s : State) : Out := .next (s.binF fSub a b r 0)

/-- FMUL. -/
def execFmul (a b : Reg) (r : Option RPfx) (s : State) : Out := .next (s.binF fMul a b r 0)

/-- FDIV. -/
def execFdiv (a b : Reg) (r : Option RPfx) (s : State) : Out := .next (s.binF fDiv a b r 4)

/-- FSQRT. -/
def execFsqrt (a b : Reg) (r : Option RPfx) (s : State) : Out :=
  let f := fmtOfType (floatType (eOf r))
  .next (s.resultF a (fSqrt f s.me.modes (low f (s.r b))) 4)

/-- FMA (R119). -/
def execFma (a b : Reg) (r : Option RPfx) (s : State) : Out :=
  let f := fmtOfType (floatType (eOf r))
  let d := dOf r
  .next (s.resultF d (fFma f s.me.modes (low f (s.r a)) (low f (s.r b)) (low f (s.r d))) 0)

/-- FMIN. -/
def execFmin (a b : Reg) (r : Option RPfx) (s : State) : Out := .next (s.binF (fPick false) a b r 0)

/-- FMAX. -/
def execFmax (a b : Reg) (r : Option RPfx) (s : State) : Out := .next (s.binF (fPick true) a b r 0)

/-- FEQ. -/
def execFeq (a b : Reg) (r : Option RPfx) (s : State) : Out := .next (s.cmpF .eq a b r)

/-- FLT. -/
def execFlt (a b : Reg) (r : Option RPfx) (s : State) : Out := .next (s.cmpF .lt a b r)

/-- FLE. -/
def execFle (a b : Reg) (r : Option RPfx) (s : State) : Out := .next (s.cmpF .le a b r)

/-- FCVTI (R123): D bit 0 selects unsigned, bit 1 rounding toward zero. -/
def execFcvti (a b : Reg) (r : Option RPfx) (s : State) : Out :=
  let f := fmtOfType (floatType (eOf r))
  let d := dOf r
  let md := s.me.modes
  let rm := if d.getLsbD 1 then .rtz else md.rm
  let lo : Int := if d.getLsbD 0 then 0 else -(2 ^ 63)
  let hi : Int := if d.getLsbD 0 then 2 ^ 64 - 1 else 2 ^ 63 - 1
  let x := fToInt f md rm lo hi (low f (s.r b))
  .next ((s.raise x.2).result a (BitVec.ofInt 64 x.1) 0)

/-- FCVTF (R124): D = 1 reads B unsigned. -/
def execFcvtf (a b : Reg) (r : Option RPfx) (s : State) : Out :=
  let f := fmtOfType (floatType (eOf r))
  let v : Int := if dOf r = 0 then (s.r b).toInt else (s.r b).toNat
  .next (s.resultF a (fOfInt f s.me.modes v) 0)

/-- FCVT (R122): D the destination type, E the source type. -/
def execFcvt (a b : Reg) (r : Option RPfx) (s : State) : Out :=
  let src := fmtOfType (floatType (eOf r))
  .next (s.resultF a (fConvert src (fmtOfType (floatType (dOf r))) s.me.modes (low src (s.r b))) 0)

/-- FCLASS (R125). -/
def execFclass (a b : Reg) (r : Option RPfx) (s : State) : Out :=
  let f := fmtOfType (floatType (eOf r))
  .next (s.result a (BitVec.ofNat 64 (2 ^ fClass f (low f (s.r b)))) 0)

/-- RCP (R126). -/
def execRcp (a b : Reg) (r : Option RPfx) (s : State) : Out :=
  let f := fmtOfType (floatType (eOf r))
  .next (s.resultF a (fRecip false f (low f (s.r b))) 4)

/-- RSQ (R126). -/
def execRsq (a b : Reg) (r : Option RPfx) (s : State) : Out :=
  let f := fmtOfType (floatType (eOf r))
  .next (s.resultF a (fRecip true f (low f (s.r b))) 4)

/-- FABS (R127). -/
def execFabs (a b : Reg) (r : Option RPfx) (s : State) : Out :=
  let f := fmtOfType (floatType (eOf r))
  .next (s.result a (BitVec.ofNat 64 (fAbs f (low f (s.r b)))) 0)

/-- FNEG (R127). -/
def execFneg (a b : Reg) (r : Option RPfx) (s : State) : Out :=
  let f := fmtOfType (floatType (eOf r))
  .next (s.result a (BitVec.ofNat 64 (fNeg f (low f (s.r b)))) 0)

end Sys2Proof.Machine
end

