-- ==== Sys2Proof/Machine/Metering.lean ====
section
/-!
DEFINITION. Sys2Proof/Machine/Metering.lean: MTRQ and MTRS (R413), METER_APPLY (R406), power loss (R410), and the requests
that the Ramov core serves (R407 to R416).
-/
namespace Sys2Proof.Machine

/-! ### MTRQ and MTRS (R413) -/

/-- The code of a region's state (Table 17.1). -/
def RegionState.code : RegionState → Nat
  | .none => 0 | .opened => 1 | .closing => 2 | .closed => 3 | .broken => 4

/-- What MTRQ reads (Table 17.5). -/
def State.meterValue (s : State) (b : Word) : Word :=
  let x := s.region (bits b 11 0)
  match bits b 13 12 with
  | 0 => if x.state = .none then 0 else BitVec.ofNat 64 x.bytes
  | 1 => if x.state = .none then 0 else BitVec.ofNat 64 x.macs
  | 2 => BitVec.ofNat 64 (x.state.code + bit x.attested 10 + bit x.metMacs 9 + bit x.metBytes 8)
  | _ => BitVec.ofNat 64 (2 ^ 64 - 1)

/-- MTRQ: the thread's posted events are applied first (R406). -/
def execMtrq (a b : Reg) (s : State) : Out :=
  let sel := s.r b
  let s := s.applyOf s.cur
  .next (s.result a (s.meterValue sel) 0)

/-- MTRS: the block's address is checked as for a read, and the request queue answers. -/
def execMtrs (a b : Reg) (s : State) : Out :=
  let va := s.r b
  .next (match s.check s.cur s.me.ctx s.me.tsr.priv va 64 .read with
    | .trap c x => (s.note14 s.cur s.me.ctx c x 8).trap c x 0
    | .ok _ =>
      let s := s.applyOf s.cur
      if !s.routeOpen (dieOf s.cur) 0 then s.parkAgain .backPressure
      else if 16 ≤ s.ramov.length then s.result a 1 0
      else
        let q : RamovReq := ⟨s.cur, s.me.ctx, s.me.tsr.priv, true, [], va⟩
        ({ s with ramov := s.ramov ++ [q] } : State).result a 0 0)

/-! ### METER_APPLY and power loss -/

/-- METER_APPLY: the n-th posted event, counted from 0, is applied. -/
def execMeterApply (n : Nat) (s : State) : Out :=
  .next (match s.meter[n]? with
    | some e => ({ s with meter := s.meter.eraseIdx n }).applyEvent e
    | none => s)

/-- A region after a power loss: an OPEN one is BROKEN, and counters stand at the last completed checkpoint (R410). -/
def Region.afterLoss (x : Region) : Region :=
  let back : Region :=
    { x with
      bytes := x.ckBytes
      macs := x.ckMacs
      satBytes := decide (x.ckBytes = 2 ^ 64 - 1)
      satMacs := decide (x.ckMacs = 2 ^ 64 - 1) }
  match x.state with
  | .opened => { back with state := .broken, broke := true }
  | .closing => back
  | _ => x

/-- POWER_LOSS: everything but the nonvolatile store is lost; power returns to a module reset. -/
def execPowerLoss (s : State) : Out :=
  .next { State.reset with
    regions := s.regions.map fun e => (e.1, e.2.afterLoss)
    serial := s.serial
    turns := s.turns
    fresh := s.fresh }

/-! ### The Ramov core's memory accesses (R414) -/

/-- Where an address of a request lies in device memory, in the issuing context and at the issuer's level. -/
def State.ramovAt (s : State) (r : RamovReq) (need : Need) (va : Nat) : Option Nat :=
  if va < 2 ^ 32 ∨ 2 ^ 48 ≤ va then none
  else
    match s.walk r.ctx.ptbase va with
    | .leaf e span =>
      let pa := leafPa e + va % span
      if storageOf pa = .device ∧ permits e r.priv need then some pa else none
    | _ => none

/-- The physical pieces of a range. -/
def State.ramovPieces (s : State) (r : RamovReq) (need : Need) (va n : Nat) : Option (List (Nat × Nat)) :=
  (pagePieces va n).mapM fun x => (s.ramovAt r need x.1).map fun pa => (pa, x.2)

/-- What the Ramov core reads: words, or the status of the failing request (TRANSLATION; BADBLOCK for a word that cannot be
corrected). -/
inductive RamovRead where
  | words (ws : List Word)
  | fails (status : Nat)
  deriving DecidableEq, Repr

/-- The bytes of physical pieces. -/
def State.pieceBytes (s : State) (ps : List (Nat × Nat)) : List Byte := ps.flatMap fun x => s.bytesAt x.1 x.2

/-- Some word of the pieces cannot be corrected. -/
def State.piecesBad (s : State) (ps : List (Nat × Nat)) : Bool := ps.any fun x => s.anyBad x.1 x.2

/-- Bytes as words. -/
def dataWords (bs : List Byte) : List Word :=
  (List.range (bs.length / 8)).map fun i => BitVec.ofNat 64 (natOfBytes ((bs.drop (8 * i)).take 8))

/-- Read `n` words that lie aligned to `align`. -/
def State.ramovRead (s : State) (r : RamovReq) (va : Word) (align n : Nat) : RamovRead :=
  if va.toNat % align ≠ 0 then .fails 2
  else
    match s.ramovPieces r .read va.toNat (8 * n) with
    | none => .fails 3
    | some ps => if s.piecesBad ps then .fails 2 else .words (dataWords (s.pieceBytes ps))

/-- A buffer of some bytes that the request may write: its status, 0 where it may. -/
def State.bufferStatus (s : State) (r : RamovReq) (va : Word) (n : Nat) : Nat :=
  if va.toNat % 64 ≠ 0 then 2 else if (s.ramovPieces r .write va.toNat n).isNone then 3 else 0

/-- Write bytes from a word-aligned address: word by word, at their homes, full. -/
def State.ramovWrite (s : State) (r : RamovReq) (va : Word) (bs : List Byte) : State :=
  (List.range ((bs.length + 7) / 8)).foldl (fun s i =>
    let a := va + BitVec.ofNat 64 (8 * i)
    match s.ramovAt r .write a.toNat with
    | some pa => (s.engineWrite r.ctx.id a pa (((bs.drop (8 * i)).take 8).map some)).1
    | none => s) s

/-- The request at the head is answered by a kind-5 message (R415); payload words that the spec does not give are free. -/
def State.ramovReply (s : State) (r : RamovReq) (tag status : Nat) (known : List Word) : State :=
  let (s, free) := s.freeWords 4
  let w (i : Nat) : Word := (known[i]?).getD (nth free i)
  ({ s with ramov := s.ramov.drop 1 } : State).post ⟨r.issuer, header 0 5 tag status, payload (w 0) (w 1) (w 2) (w 3), 3⟩

/-- TAG of a SECM request. -/
def RamovReq.tag (r : RamovReq) : Nat := bits (nth r.block 0) 31 16

/-- An answer that does nothing else. -/
def State.refuse (s : State) (r : RamovReq) (status : Nat) : State := s.ramovReply r r.tag status []

/-- The SECM request with a code at the head of the queue. -/
def State.ramovHead (s : State) (code : Nat → Bool) : Option RamovReq :=
  match s.ramov with
  | r :: _ => if !r.mtrs && code (bits (nth r.block 0) 7 0) then some r else none
  | [] => none

/-- Serve the head if it has a code. -/
def State.serveCode (s : State) (code : Nat) (f : RamovReq → State) : Out :=
  .next (match s.ramovHead (· == code) with
    | some r => f r
    | none => s)

/-! ### Descriptors (Table 17.3) -/

/-- The ranges of a descriptor. -/
def descRanges (ws : List Word) : List (Nat × Nat) :=
  (List.range (bits (nth ws 0) 63 48)).map fun i => ((nth ws (32 + 2 * i)).toNat, (nth ws (33 + 2 * i)).toNat)

/-- The table's limits. -/
def descGood (ws : List Word) : Bool :=
  let n := bits (nth ws 0) 63 48
  decide (1 ≤ n ∧ n ≤ 16 ∧ bits (nth ws 0) 47 32 ≤ 16) &&
    (descRanges ws).all fun x => decide (x.1 % 65536 = 0 ∧ x.2 % 65536 = 0 ∧ x.2 ≠ 0)

/-- A range lies in device memory. -/
def inDevice (x : Nat × Nat) : Bool :=
  storageOf x.1 == .device && storageOf (x.1 + x.2 - 1) == .device && x.1 / 2 ^ 44 == (x.1 + x.2 - 1) / 2 ^ 44

/-- Bytes meet a protected range, those of one region left out. -/
def State.guardedBut (s : State) (id : Nat) (x : Nat × Nat) : Bool :=
  ({ s with regions := s.regions.filter fun e => e.1 != id } : State).guarded x.1 x.2

/-- The allow-list digests. -/
def descAllow (ws : List Word) : List (List Word) :=
  (List.range (bits (nth ws 0) 47 32)).map fun i => (List.range 8).map fun j => nth ws (64 + 8 * i + j)

/-- The lowest region id in state NONE or CLOSED. -/
def State.freeRegion (s : State) : Option Nat :=
  (List.range 4096).find? fun i => (s.region i).state == .none || (s.region i).state == .closed

/-- The region that a descriptor opens. -/
def descRegion (ws meas : List Word) (serial : Word) : Region :=
  { Region.zero with
    state := .opened
    serial := serial
    attested := (nth ws 0).getLsbD 2
    metMacs := (nth ws 0).getLsbD 1
    metBytes := (nth ws 0).getLsbD 0
    ranges := descRanges ws
    allow := descAllow ws
    meas := meas
    linkKind := bits (nth ws 1) 1 0
    link := if bits (nth ws 1) 1 0 = 0 then List.replicate 8 0 else (List.range 8).map fun i => nth ws (2 + i) }

/-- REGISTER (R408): the refusals in the order of the rule. -/
def State.register (s : State) (r : RamovReq) : State :=
  let va := nth r.block 1
  match s.ramovRead r va 64 192 with
  | .fails st => s.refuse r st
  | .words ws =>
    if !descGood ws then s.refuse r 2
    else if (descRanges ws).any fun x => !inDevice x || s.guarded x.1 x.2 then s.refuse r 5
    else if s.piecesBad (descRanges ws) then s.refuse r 2
    else
      match s.freeRegion with
      | none => s.refuse r 6
      | some id =>
        let meas := shake256 (s.pieceBytes (descRanges ws))
        if (nth ws 0).getLsbD 4 ∧ meas ≠ (List.range 8).map (fun i => nth ws (10 + i)) then s.refuse r 4
        else if s.bufferStatus r va 1536 ≠ 0 then s.refuse r 3
        else
          let serial := s.serial
          let s := s.ramovWrite r (va + 144) (bytesOfWords meas)
          let s := ({ s with serial := serial + 1 } : State).updRegion id fun _ => descRegion ws meas serial
          s.ramovReply r r.tag 0 [BitVec.ofNat 64 id, serial]

/-- REGISTER. -/
def execRegister (s : State) : Out := s.serveCode 1 s.register

/-- ATTACH (R410): a BROKEN region whose measurement is found again in the descriptor's ranges is OPEN once more. -/
def State.attach (s : State) (r : RamovReq) : State :=
  let id := (nth r.block 1).toNat
  let x := s.region id
  if 4096 ≤ id ∨ x.state = .none then s.refuse r 1
  else if x.state ≠ .broken then s.refuse r 7
  else
    match s.ramovRead r (nth r.block 2) 64 192 with
    | .fails st => s.refuse r st
    | .words ws =>
      if !descGood ws then s.refuse r 2
      else if (descRanges ws).any fun y => !inDevice y || s.guardedBut id y then s.refuse r 5
      else if s.piecesBad (descRanges ws) then s.refuse r 2
      else if shake256 (s.pieceBytes (descRanges ws)) ≠ x.meas then s.refuse r 4
      else
        (s.updRegion id fun y => { y with state := .opened, ranges := descRanges ws }).ramovReply r r.tag 0
          [BitVec.ofNat 64 id, x.serial]

/-- ATTACH. -/
def execAttach (s : State) : Out := s.serveCode 3 s.attach

/-! ### CLOSE, GETCKPT and signed reports (R411, R413) -/

/-- The end of a CLOSE: the closing record in the request's buffer, then the region CLOSED and its protection lifted. A BROKEN region
has no new checkpoint. -/
def State.closeEnd (s : State) (r : RamovReq) (id : Nat) (checkpoint : Bool) : State :=
  let s := if checkpoint then s.checkpoint id else s
  let (s, nonce) := s.freeWords 4
  let s := s.sign id 3 (some r.ctx) nonce
  let x := s.region id
  let closed (s : State) : State := s.updRegion id fun y => { y with state := .closed }
  let st := s.bufferStatus r (nth r.block 2) 1664
  if st ≠ 0 then (closed s).refuse r st
  else (closed (s.ramovWrite r (nth r.block 2) x.record)).ramovReply r r.tag 0 [BitVec.ofNat 64 id, x.seq]

/-- CLOSE (R411): the region is CLOSING until every earlier event of it is applied. -/
def State.close (s : State) (r : RamovReq) : State :=
  let id := (nth r.block 1).toNat
  let st := s.bufferStatus r (nth r.block 2) 1664
  if 4096 ≤ id then s.refuse r 1
  else
    match (s.region id).state with
    | .none => s.refuse r 1
    | .closed => s.refuse r 7
    | .broken => if st ≠ 0 then s.refuse r st else s.closeEnd r id false
    | .opened =>
      if st ≠ 0 then s.refuse r st
      else
        let s := s.updRegion id fun y => { y with state := .closing }
        if s.meter.any (·.region == id) then s else s.closeEnd r id true
    | .closing => if s.meter.any (·.region == id) then s else s.closeEnd r id true

/-- CLOSE. -/
def execClose (s : State) : Out := s.serveCode 2 s.close

/-- GETCKPT: the region's latest signed record. -/
def State.getckpt (s : State) (r : RamovReq) : State :=
  let id := (nth r.block 1).toNat
  let x := s.region id
  let st := s.bufferStatus r (nth r.block 2) 1664
  if 4096 ≤ id ∨ x.state = .none then s.refuse r 1
  else if x.record = [] then s.refuse r 7
  else if st ≠ 0 then s.refuse r st
  else (s.ramovWrite r (nth r.block 2) x.record).ramovReply r r.tag 0 [BitVec.ofNat 64 id, x.seq]

/-- GETCKPT. -/
def execGetckpt (s : State) : Out := s.serveCode 7 s.getckpt

/-- An MTRS request: a checkpoint, then a record of KIND 1 into the buffer that the block names. -/
def State.report (s : State) (r : RamovReq) : State :=
  match s.ramovRead r r.addr 64 8 with
  | .fails st =>
    let (s, ws) := s.freeWords 1
    s.ramovReply r (bits (nth ws 0) 15 0) st []
  | .words ws =>
    let id := bits (nth ws 0) 11 0
    let tag := bits (nth ws 0) 31 16
    let buffer := nth ws 1
    let x := s.region id
    let st := s.bufferStatus r buffer 1664
    if x.state = .none then s.ramovReply r tag 1 []
    else if x.state ≠ .opened then s.ramovReply r tag 7 []
    else if st ≠ 0 then s.ramovReply r tag st []
    else
      let s := (s.checkpoint id).sign id 1 (some r.ctx) ((List.range 4).map fun i => nth ws (4 + i))
      let x := s.region id
      (s.ramovWrite r buffer x.record).ramovReply r tag 0 [BitVec.ofNat 64 id, x.seq, buffer]

/-- SIGNED_RECORD_REQUEST. -/
def execSignedRecordRequest (s : State) : Out :=
  .next (match s.ramov with
    | r :: _ => if r.mtrs then s.report r else s
    | [] => s)

/-! ### Code objects (R407, R414) -/

/-- The ranges of a manifest. -/
def manifestRanges (ws : List Word) : List (Nat × Nat) :=
  (List.range (nth ws 0).toNat).map fun i => ((nth ws (3 + 2 * i)).toNat, (nth ws (4 + 2 * i)).toNat)

/-- A manifest with every base address zero. -/
def baseless (ws : List Word) : List Word :=
  [nth ws 0, 0, nth ws 2] ++ (manifestRanges ws).flatMap fun x => [0, BitVec.ofNat 64 x.2]

/-- Every word of some pieces, its bytes followed by a byte that holds its full/empty bit. -/
def State.markedBytes (s : State) (ps : List (Nat × Nat)) : List Byte :=
  ps.flatMap fun x => (List.range (x.2 / 8)).flatMap fun i =>
    s.bytesAt (x.1 + 8 * i) 8 ++ [if s.full (x.1 + 8 * i) then 1 else 0]

/-- The lowest free index of the module code table. -/
def State.freeCode (s : State) : Option Nat :=
  ((List.range 1024).map (· + 1)).find? fun i => (Table.get none s.codes i).isNone

/-- Enter a code object. -/
def State.enterCode (s : State) (i : Nat) (c : CodeEntry) : State := { s with codes := Table.set none i (some c) s.codes }

/-- MEASURE of a manifest whose words have been read. -/
def State.measureManifest (s : State) (r : RamovReq) (ws : List Word) : State :=
  let rs := manifestRanges ws
  if rs.head? ≠ some ((nth ws 1).toNat, (nth ws 2).toNat) ∨ (rs.any fun x => x.1 % 8 ≠ 0 ∨ x.2 % 8 ≠ 0) then s.refuse r 2
  else
    match rs.mapM fun x => s.ramovPieces r .read x.1 x.2 with
    | none => s.refuse r 3
    | some pss =>
      let ps := pss.flatten
      if s.piecesBad ps then s.refuse r 2
      else
        match s.freeCode with
        | none => s.refuse r 6
        | some i =>
          let digest := shake256 (bytesOfWords (baseless ws) ++ s.markedBytes ps)
          (s.enterCode i ⟨digest, r.ctx.id, nth ws 1, nth ws 2, ps⟩).ramovReply r r.tag 0 [BitVec.ofNat 64 i, 0]

/-- MEASURE (R407). -/
def State.measure (s : State) (r : RamovReq) : State :=
  let va := nth r.block 1
  match s.ramovRead r va 8 1 with
  | .fails st => s.refuse r st
  | .words w =>
    let n := (nth w 0).toNat
    if n = 0 ∨ 64 < n then s.refuse r 2
    else
      match s.ramovRead r va 8 (3 + 2 * n) with
      | .fails st => s.refuse r st
      | .words ws => s.measureManifest r ws

/-- MEASURE. -/
def execMeasure (s : State) : Out := s.serveCode 4 s.measure

/-- UNREGISTER: a code-table entry goes, and with it its protection. -/
def State.unregister (s : State) (r : RamovReq) : State :=
  let i := (nth r.block 1).toNat
  if (Table.get none s.codes i).isNone then s.refuse r 1
  else ({ s with codes := Table.set none i none s.codes } : State).ramovReply r r.tag 0 [BitVec.ofNat 64 i, 0]

/-- UNREGISTER. -/
def execUnregister (s : State) : Out := s.serveCode 5 s.unregister

/-! ### GETLOG, GETKEY, other codes -/

/-- A request that fills a 4 KiB buffer. -/
def State.fill (s : State) (r : RamovReq) (bs : List Byte) (known : List Word) : State :=
  let st := s.bufferStatus r (nth r.block 1) 4096
  if st ≠ 0 then s.refuse r st
  else (s.ramovWrite r (nth r.block 1) (bs.take 4096)).ramovReply r r.tag 0 known

/-- GETLOG. -/
def execGetlog (s : State) : Out :=
  s.serveCode 6 fun r => s.fill r s.logBytes [BitVec.ofNat 64 (s.fwlog.length / 10), 0]

/-- GETKEY: the public key, then the certificate. -/
def execGetkey (s : State) : Out :=
  s.serveCode 8 fun r => s.fill r (Config.publicKey.toList ++ Config.certificate)
    [1793, BitVec.ofNat 64 Config.certificate.length]

/-- BADCODE_REQUEST: a code that Table 17.6 does not list. -/
def execBadcodeRequest (s : State) : Out :=
  .next (match s.ramovHead fun c => c == 0 || decide (8 < c) with
    | some r => s.refuse r 8
    | none => s)

end Sys2Proof.Machine
end

