-- ==== Sys2Proof/Machine/HostLink.lean ====
section
/-!
DEFINITION. Sys2Proof/Machine/HostLink.lean: BAR2 (R418), host queues (R419 to R421), and the frames of the scale-out ports
(R422 to R425).
-/
namespace Sys2Proof.Machine

/-! ### BAR2 (R418, R402) -/

/-- BAR2 is open once PCIe has enumerated, unless the start sequence has stopped (R426). -/
def State.bar2Open (s : State) : Bool := decide (6 ≤ s.stage.toNat) && s.err == 0

/-- Where an offset of a function's BAR2 lies. -/
def State.bar2Pa (s : State) (fn offset : Nat) : Nat := (Table.get 0 s.bar2base fn).toNat + offset

/-- A request lies in populated device memory. -/
def onDevice (pa n : Nat) : Bool := decide (0 < n) && inDevice (pa, n)

/-- The parts of a request, one for each word. -/
def wordParts (pa : Nat) (bs : List α) : List (Nat × List α) :=
  (wordsTouched pa bs.length).map fun w =>
    let lo := max w pa
    (lo, (bs.drop (lo - pa)).take (w + 8 - lo))

/-- A part of a request of the host goes from die 0, where the host I/O die stands, to its home: on another die it enters the channel
(R16, R381). -/
def State.hostPart (s : State) (x : ChanItem) (pa : Nat) : State :=
  if homeDie pa = 0 then s.performItem x else s.enqueue 0 (homeDie pa) x

/-- The parts of a read. -/
def State.readParts (s : State) (id : Nat) : List (Nat × List Nat) → State
  | [] => s
  | (a, xs) :: rest => (s.hostPart (.hostRead id a xs.length) a).readParts id rest

/-- The parts of a write, each with a number of its own. -/
def State.writeParts (s : State) (fn : Nat) : List (Nat × List Byte) → State
  | [] => s
  | (a, bs) :: rest =>
    (({ s with hostSeq := s.hostSeq + 1 } : State).hostPart (.hostWrite fn s.hostSeq a bs) a).writeParts fn rest

/-- BAR2_READ: up to 4,096 bytes (R417, log 73). -/
def execBar2Read (fn offset count : Nat) (s : State) : Out :=
  let pa := s.bar2Pa fn offset
  .next (if !hasFunction fn then s
    else if !s.bar2Open || !onDevice pa count || decide (4096 < count) then s.toHost .unsupported
    else if s.guarded pa count then s.toHost .abort
    else
      let parts := wordParts pa (List.range count)
      ({ s with hostSeq := s.hostSeq + 1, hostReads := s.hostReads ++ [⟨s.hostSeq, [], parts.length⟩] } : State).readParts s.hostSeq
        parts)

/-- BAR2_WRITE: up to the maximum payload of 512 bytes (R417, log 73). -/
def execBar2Write (fn offset : Nat) (bytes : List (BitVec 8)) (s : State) : Out :=
  let pa := s.bar2Pa fn offset
  let n := bytes.length
  .next (if !hasFunction fn then s
    else if !s.bar2Open || !onDevice pa n || decide (512 < n) then s.toHost .unsupported
    else if s.guarded pa n then s.updDie (homeDie pa) fun d => { d with hdrops := sat64 d.hdrops }
    else s.writeParts fn (wordParts pa bytes))

/-! ### Host queues (R419 to R421) -/

/-- A queue that exists. -/
def onQueue (fn q : Nat) (f : Nat → State → State) (s : State) : Out :=
  .next (if hasFunction fn ∧ q < 16 then f (queueKey fn q) s else s)

/-- QTAIL_WRITE: it waits for the earlier BAR2 writes of its function that are still under way. -/
def execQtailWrite (fn queue : Nat) (value : BitVec 64) (s : State) : Out :=
  onQueue fn queue (fun k s => s.qtail k value) s

/-- QCTL_WRITE: CTX is RW from the supervisor block only. -/
def execQctlWrite (fn queue : Nat) (value : BitVec 64) (sup : Bool) (s : State) : Out :=
  onQueue fn queue (fun k s => s.updQueue k (HostQueue.setCtl sup value)) s

/-- The launch block of an entry: its words and the region they count in, or nothing where it cannot be read in the context. -/
def State.hostBlock (s : State) (c : Ctx) (va : Word) : Option (List Word × Option Nat) :=
  let a := va.toNat
  if a % 64 ≠ 0 ∨ a < 2 ^ 32 ∨ 2 ^ 48 ≤ a then none
  else
    match s.walk c.ptbase a with
    | .leaf e span =>
      let pa := leafPa e + a % span
      let t : Target := ⟨pa, bits e 8 6, bits e 63 52, bits e 5 2, false, false, leafPa e, span⟩
      let ok := (storageOf pa == .device || storageOf pa == .sram) && t.kind != 4 && permits e false .read &&
        (s.policy 0 t).isNone && !s.anyBad pa 64
      if ok then some (s.wordsAt pa 8, if t.kind = 3 then some t.region else none) else none
    | _ => none

/-- What of a block or its walk cannot be corrected is recorded (R207, R330). -/
def State.noteBlock (s : State) (c : Ctx) (va : Word) : State :=
  match s.walk c.ptbase va.toNat with
  | .leaf e span => s.noteBad (leafPa e + va.toNat % span) 64
  | .bad pa => s.noteBad pa 8
  | .absent => s

/-- The status of a block that can be read and runs nothing (Table 6.6). -/
def launchRefusal (ws : List Word) : Option Nat :=
  if 2 ^ 32 < (nth ws 1).toNat then some 1
  else if bits (nth ws 2) 1 0 = 3 then some 3
  else if dieSet (nth ws 2) = [] then some 2
  else none

/-- An entry has been taken: HEAD counts it. -/
def State.taken (s : State) (k : Nat) (e : HostEntry) : State :=
  s.updQueue k fun x => { x with head := x.head + 1, entries := x.entries ++ [e] }

/-- A launch of a host queue is offered to the dies that are left, in ascending order, as far as they accept; once every die of its set
holds a record, the entry is taken and the units are computed (R389, R420). -/
def State.hostOffer (s : State) (fn q : Nat) (o : HostOffer) : List Nat → State
  | [] =>
    let k := queueKey fn q
    let region := (s.hostBlock o.ctx o.addr).bind (·.2)
    let s := ((s.count region false 64 (2 ^ 20 + k)).updQueue k fun x => { x with offer := none }).taken k
      { o.entry with dies := dieSet (nth o.block 2) }
    s.startRecords 0 o.recs
  | d :: ds =>
    if 64 ≤ (s.die d).launchesUsed ∨ !s.routeOpen 0 d then
      s.updQueue (queueKey fn q) fun x => { x with offer := some { o with left := d :: ds } }
    else
      let ws := vec8 o.block
      let r : LaunchRec :=
        ⟨ws, o.addr, o.ctx, 0, clampRank o.ctx (bits (nth o.block 2) 18 16), false, [], 0, some (fn, q, o.entry.n), o.ctx.pond 0,
          boundOf (ws.get 7) ⟨0, 0, o.ctx, false, 0⟩⟩
      let (s, n) := s.holdRecord d r
      s.hostOffer fn q { o with recs := o.recs ++ [(d, n)] } ds

/-- HOST_QUEUE_TAKE: the entry at HEAD is issued as LAUNCH does; one that is being offered goes on to the next die. -/
def execHostQueueTake (fn queue : Nat) (s : State) : Out :=
  onQueue fn queue (fun k s =>
    let x := s.hostQueue k
    match x.offer with
    | some o => s.hostOffer fn queue o o.left
    | none =>
      if !x.en || x.head == x.tail then s
      else
        let pa := x.base.toNat + 64 * (x.head.toNat % 2 ^ x.log2n.toNat)
        let n := x.head.toNat
        if !onDevice pa 64 || s.anyBad pa 64 then (s.noteBad pa 64).taken k ⟨n, 0, 0, 0, 4, []⟩
        else
          let w := s.wordsAt pa 4
          let e : HostEntry := ⟨n, nth w 1, nth w 2, nth w 3, 0, []⟩
          match Table.get none s.ctxs x.ctx.toNat with
          | none => s.taken k { e with status := 4 }
          | some c =>
            match s.hostBlock c (nth w 0) with
            | none => (s.noteBlock c (nth w 0)).taken k { e with status := 4 }
            | some (ws, region) =>
              match launchRefusal ws with
              | some st => (s.count region false 64 (2 ^ 20 + k)).taken k { e with status := st }
              | none => s.hostOffer fn queue ⟨ws, nth w 0, c, dieSet (nth ws 2), [], e⟩ (dieSet (nth ws 2))) s

/-- The MSI-X vectors of a function (R417). -/
def vectorsOf (fn : Nat) : Nat := if fn = 0 then 64 else 8

/-- HOST_COMPLETION: the oldest entry, once complete: its record, then its MSI-X (R421). -/
def execHostCompletion (fn queue : Nat) (s : State) : Out :=
  onQueue fn queue (fun k s =>
    match (s.hostQueue k).entries with
    | [] => s
    | e :: rest =>
      if e.dies ≠ [] then s
      else
        let s := s.updQueue k fun x => { x with entries := rest }
        let w1 := BitVec.ofNat 64 (e.status % 65536 + (e.n + 1) % 2 ^ 32 * 65536)
        let s := if e.w1 = 0 then s else s.toHost (.record e.w1 e.w2 w1)
        if e.w3.getLsbD 16 && decide (bits e.w3 15 0 < vectorsOf fn) then s.toHost (.msix fn (bits e.w3 15 0)) else s) s

/-! ### Streams (R423) -/

/-- A stream. -/
def State.stream (s : State) (pkg cls : Nat) : Stream := Table.get Stream.zero s.streams (streamKey pkg cls)

/-- Change a stream. -/
def State.updStream (s : State) (pkg cls : Nat) (f : Stream → Stream) : State :=
  { s with streams := Table.set Stream.zero (streamKey pkg cls) (f (s.stream pkg cls)) s.streams }

/-- A frame of a class for this package: the next in order is taken, an earlier one is acknowledged again, a later one is dropped.
While PKGID is unset there is no traffic (R422). -/
def State.receive (s : State) (f : Frame) (cls : Nat) (take : State → State) (ready : State → Bool) : State :=
  if f.dstPkg ≠ s.pkgid.toNat ∨ s.pkgid = 0x7FFF ∨ f.cls ≠ cls then s
  else
    let x := s.stream f.srcPkg cls
    if f.seq = x.expect then
      (if ready s then take (s.updStream f.srcPkg cls fun y => { y with expect := (y.expect + 1) % 2 ^ 32 }) else s)
    else if (f.seq + 2 ^ 32 - x.expect) % 2 ^ 32 < 2 ^ 31 then s
    else s.sendAck f.srcPkg cls

/-- The writes of a frame: its bytes from the destination on, cut at 16-byte boundaries. -/
def frameWrites (a : Nat) (bs : List Byte) : Nat → List (Nat × List Byte)
  | 0 => []
  | n + 1 => if bs = [] then [] else
    let k := 16 - a % 16
    (a, bs.take k) :: frameWrites (a + k) (bs.drop k) n

/-- REMOTE_WRITE_FRAME: its writes are to be performed, each at its home by EW of the ports, and it is acknowledged after them
(R424). -/
def execRemoteWriteFrame (frame : Frame) (s : State) : Out :=
  .next (s.receive frame 0 (fun s =>
    let bs := (bytesOfWords frame.words).take frame.bytes
    let x : Incoming := ⟨frame.srcPkg, frame.seq, BitVec.ofNat 12 frame.ctx, frameWrites (bits frame.dest 47 0) bs bs.length, 0⟩
    ({ s with incoming := s.incoming ++ [x] } : State).ackPort frame.srcPkg) fun _ => true)

/-- The slot that a message frame names, where its core has room and the way from the ports carries traffic. -/
def State.portAccept (s : State) (frame : Frame) : Option State :=
  let tid := bits frame.dest 16 0
  let w := frame.words
  if !goodTid tid then some { s with lostmsg := sat64 s.lostmsg }
  else if s.routeOpen 7 (dieOf tid) then s.accept ⟨tid, nth w 0, payload (nth w 1) (nth w 2) (nth w 3) (nth w 4), 4⟩
  else none

/-- REMOTE_MESSAGE_FRAME: a core that has room accepts the message; else the frame is not yet taken (R425). -/
def execRemoteMessageFrame (frame : Frame) (s : State) : Out :=
  .next (s.receive frame 1 (fun s => ((s.portAccept frame).getD s).sendAck frame.srcPkg 1) fun s => (s.portAccept frame).isSome)

/-- ACKNOWLEDGEMENT_FRAME: every frame up to a number has been delivered. -/
def execAcknowledgementFrame (pkg cls upTo : Nat) (s : State) : Out :=
  .next (if s.pkgid = 0x7FFF then s
    else match (s.stream pkg cls).unacked.findIdx? fun f => f.frame.seq == upTo with
      | some i => s.updStream pkg cls fun y => { y with unacked := y.unacked.drop (i + 1) }
      | none => s)

/-- A peer is unreachable: its unacknowledged writes are lost, its messages discarded and counted. -/
def State.losePeer (s : State) (pkg : Nat) : State :=
  let n := (s.stream pkg 1).unacked.length
  let s := s.loseRemote pkg
  let s : State := { s with lostmsg := (List.range n).foldl (fun w _ => sat64 w) s.lostmsg }
  let kill (x : Stream) : Stream := { x with unacked := [], dead := true }
  (s.updStream pkg 0 kill).updStream pkg 1 kill

/-- A frame is sent once more. -/
def SentFrame.again (now : Nat) (f : SentFrame) : SentFrame := { f with sentAt := now, tries := f.tries + 1 }

/-- RETRANSMIT: 2^17 cycles after the oldest frame not acknowledged was last sent, it and those after it are sent again; one that has
been sent again 64 times makes its peer unreachable (R423). While PKGID is unset nothing is sent (R422). -/
def execRetransmit (pkg cls : Nat) (s : State) : Out :=
  .next (match (s.stream pkg cls).unacked with
    | [] => s
    | f :: rest =>
      if s.pkgid = 0x7FFF ∨ s.now < f.sentAt + 2 ^ 17 then s
      else if 64 ≤ f.tries then s.losePeer pkg
      else
        let s := s.updStream pkg cls fun y => { y with unacked := (f :: rest).map (SentFrame.again s.now) }
        { s with sent := s.sent ++ (f :: rest).map (·.frame) })

end Sys2Proof.Machine
end

