-- ==== Sys2Proof/Machine/LoadStore.lean ====
section
/-!
DEFINITION. Sys2Proof/Machine/LoadStore.lean: the loads and stores of page 0 (R78, R85, R86).
-/
namespace Sys2Proof.Machine

/-- A scalar load of Table 3.11. -/
def State.loadOp (s : State) (size : Nat) (signed : Bool) (a b : Reg) (r : Option RPfx) (is : IPfx) (m : Option MPfx) : State :=
  s.access (accessOf m (s.ea b r is size) size size .read (.load signed a) false true) 1

/-- A scalar store of Table 3.11. -/
def State.storeOp (s : State) (size : Nat) (a b : Reg) (r : Option RPfx) (is : IPfx) (m : Option MPfx) : State :=
  s.access (accessOf m (s.ea b r is size) size size .write (.store ((s.r a).toNat % 2 ^ (8 * size))) false true) 1

/-- LD8. -/
def execLd8 (a b : Reg) (r : Option RPfx) (is : IPfx) (m : Option MPfx) (s : State) : Out := .next (s.loadOp 1 false a b r is m)

/-- LD16. -/
def execLd16 (a b : Reg) (r : Option RPfx) (is : IPfx) (m : Option MPfx) (s : State) : Out := .next (s.loadOp 2 false a b r is m)

/-- LD32. -/
def execLd32 (a b : Reg) (r : Option RPfx) (is : IPfx) (m : Option MPfx) (s : State) : Out := .next (s.loadOp 4 false a b r is m)

/-- LD64. -/
def execLd64 (a b : Reg) (r : Option RPfx) (is : IPfx) (m : Option MPfx) (s : State) : Out := .next (s.loadOp 8 false a b r is m)

/-- LD8S. -/
def execLd8s (a b : Reg) (r : Option RPfx) (is : IPfx) (m : Option MPfx) (s : State) : Out := .next (s.loadOp 1 true a b r is m)

/-- LD16S. -/
def execLd16s (a b : Reg) (r : Option RPfx) (is : IPfx) (m : Option MPfx) (s : State) : Out := .next (s.loadOp 2 true a b r is m)

/-- LD32S. -/
def execLd32s (a b : Reg) (r : Option RPfx) (is : IPfx) (m : Option MPfx) (s : State) : Out := .next (s.loadOp 4 true a b r is m)

/-- ST8. -/
def execSt8 (a b : Reg) (r : Option RPfx) (is : IPfx) (m : Option MPfx) (s : State) : Out := .next (s.storeOp 1 a b r is m)

/-- ST16. -/
def execSt16 (a b : Reg) (r : Option RPfx) (is : IPfx) (m : Option MPfx) (s : State) : Out := .next (s.storeOp 2 a b r is m)

/-- ST32. -/
def execSt32 (a b : Reg) (r : Option RPfx) (is : IPfx) (m : Option MPfx) (s : State) : Out := .next (s.storeOp 4 a b r is m)

/-- ST64. -/
def execSt64 (a b : Reg) (r : Option RPfx) (is : IPfx) (m : Option MPfx) (s : State) : Out := .next (s.storeOp 8 a b r is m)

/-- LDV. -/
def execLdv (a b : Reg) (r : Option RPfx) (is : IPfx) (m : Option MPfx) (s : State) : Out :=
  .next (s.access (accessOf m (s.ea b r is 16) 16 16 .read (.loadV a) false true) 1)

/-- STV. -/
def execStv (a b : Reg) (r : Option RPfx) (is : IPfx) (m : Option MPfx) (s : State) : Out :=
  .next (s.access (accessOf m (s.ea b r is 16) 16 16 .write (.store (s.v a).toNat) false true) 1)

end Sys2Proof.Machine
end

