-- ==== Sys2Proof/Machine/Scalar.lean ====
section
/-!
DEFINITION. Sys2Proof/Machine/Scalar.lean: register and immediate operations of page 0 (R81 to R84, R91, R94) and the
integer and bit instructions of page 7 (R96 to R98).
-/
namespace Sys2Proof.Machine

/-- Page 0, op 0 (R42). -/
def execIll (_a _b : Reg) (s : State) : Out := .next (s.illegal 1)

/-! ### Table 3.8 -/

/-- ADD. -/
def execAdd (a b : Reg) (r : Option RPfx) (s : State) : Out := .next (s.alu (fun x y => x + y) a b r)

/-- SUB. -/
def execSub (a b : Reg) (r : Option RPfx) (s : State) : Out := .next (s.alu (fun x y => x - y) a b r)

/-- AND. -/
def execAnd (a b : Reg) (r : Option RPfx) (s : State) : Out := .next (s.alu (fun x y => x &&& y) a b r)

/-- OR. -/
def execOr (a b : Reg) (r : Option RPfx) (s : State) : Out := .next (s.alu (fun x y => x ||| y) a b r)

/-- XOR. -/
def execXor (a b : Reg) (r : Option RPfx) (s : State) : Out := .next (s.alu (fun x y => x ^^^ y) a b r)

/-- A register shift amount: bits 5-0. -/
def amount (y : Word) : Nat := y.toNat % 64

/-- SHL. -/
def execShl (a b : Reg) (r : Option RPfx) (s : State) : Out := .next (s.alu (fun x y => x <<< amount y) a b r)

/-- SHR. -/
def execShr (a b : Reg) (r : Option RPfx) (s : State) : Out := .next (s.alu (fun x y => x >>> amount y) a b r)

/-- SAR. -/
def execSar (a b : Reg) (r : Option RPfx) (s : State) : Out := .next (s.alu (fun x y => x.sshiftRight (amount y)) a b r)

/-- MUL. -/
def execMul (a b : Reg) (r : Option RPfx) (s : State) : Out := .next (s.alu (fun x y => x * y) a b r)

/-- MOV (R82). -/
def execMov (a b : Reg) (s : State) : Out := .next (s.unary (fun y => y) a b)

/-- SLT. -/
def execSlt (a b : Reg) (r : Option RPfx) (s : State) : Out := .next (s.alu (fun x y => ofBool (x.slt y)) a b r)

/-- SLTU. -/
def execSltu (a b : Reg) (r : Option RPfx) (s : State) : Out := .next (s.alu (fun x y => ofBool (x.ult y)) a b r)

/-- SEQ. -/
def execSeq (a b : Reg) (r : Option RPfx) (s : State) : Out := .next (s.alu (fun x y => ofBool (x == y)) a b r)

/-- MIN. -/
def execMin (a b : Reg) (r : Option RPfx) (s : State) : Out := .next (s.alu (fun x y => if y.slt x then y else x) a b r)

/-- MAX. -/
def execMax (a b : Reg) (r : Option RPfx) (s : State) : Out := .next (s.alu (fun x y => if x.slt y then y else x) a b r)

/-! ### Table 3.9 -/

/-- ADDI. -/
def execAddi (a b : Reg) (r : Option RPfx) (is : IPfx) (s : State) : Out := .next (s.aluImm (fun x => x + immS is b) a r)

/-- ANDI. -/
def execAndi (a b : Reg) (r : Option RPfx) (is : IPfx) (s : State) : Out := .next (s.aluImm (fun x => x &&& immS is b) a r)

/-- ORI. -/
def execOri (a b : Reg) (r : Option RPfx) (is : IPfx) (s : State) : Out := .next (s.aluImm (fun x => x ||| immZ is b) a r)

/-- XORI. -/
def execXori (a b : Reg) (r : Option RPfx) (is : IPfx) (s : State) : Out := .next (s.aluImm (fun x => x ^^^ immZ is b) a r)

/-- SHLI. -/
def execShli (a b : Reg) (r : Option RPfx) (is : IPfx) (s : State) : Out :=
  .next (s.aluImm (fun x => x <<< immShift is b) a r)

/-- SHRI. -/
def execShri (a b : Reg) (r : Option RPfx) (is : IPfx) (s : State) : Out :=
  .next (s.aluImm (fun x => x >>> immShift is b) a r)

/-- SARI. -/
def execSari (a b : Reg) (r : Option RPfx) (is : IPfx) (s : State) : Out :=
  .next (s.aluImm (fun x => x.sshiftRight (immShift is b)) a r)

/-- SLTI. -/
def execSlti (a b : Reg) (r : Option RPfx) (is : IPfx) (s : State) : Out :=
  .next (s.aluImm (fun x => ofBool (x.slt (immS is b))) a r)

/-- SEQI. -/
def execSeqi (a b : Reg) (r : Option RPfx) (is : IPfx) (s : State) : Out :=
  .next (s.aluImm (fun x => ofBool (x == immS is b)) a r)

/-- LDI (R84). -/
def execLdi (a b : Reg) (is : IPfx) (s : State) : Out := .next (s.result a (immS is b) 0)

/-- LDIX (R84): n = 5 + 10 * k bits for k PFX.I words. -/
def execLdix (a b : Reg) (is : IPfx) (s : State) : Out :=
  .next (s.result a ((s.r a <<< (5 + 10 * is.length)) ||| immZ is b) 0)

/-- ADDPC (R91). -/
def execAddpc (a b : Reg) (is : IPfx) (s : State) : Out := .next (s.result a (s.nextPc + immS is b) 0)

/-- NOP (R94). -/
def execNop (_a _b : Reg) (s : State) : Out := .next (s.retire 0)

/-! ### Table 3.14 -/

/-- MULH. -/
def execMulh (a b : Reg) (r : Option RPfx) (s : State) : Out :=
  .next (s.alu (fun x y => BitVec.ofInt 64 (x.toInt * y.toInt / 2 ^ 64)) a b r)

/-- MULHU. -/
def execMulhu (a b : Reg) (r : Option RPfx) (s : State) : Out :=
  .next (s.alu (fun x y => BitVec.ofNat 64 (x.toNat * y.toNat / 2 ^ 64)) a b r)

/-- The signed quotient of R97. -/
def divSigned (x y : Word) : Word := if y = 0 then BitVec.allOnes 64 else BitVec.ofInt 64 (x.toInt.tdiv y.toInt)

/-- The signed remainder of R97. -/
def remSigned (x y : Word) : Word := if y = 0 then x else BitVec.ofInt 64 (x.toInt.tmod y.toInt)

/-- DIV. -/
def execDiv (a b : Reg) (r : Option RPfx) (s : State) : Out := .next (s.alu divSigned a b r)

/-- DIVU. -/
def execDivu (a b : Reg) (r : Option RPfx) (s : State) : Out :=
  .next (s.alu (fun x y => if y = 0 then BitVec.allOnes 64 else BitVec.ofNat 64 (x.toNat / y.toNat)) a b r)

/-- REM. -/
def execRem (a b : Reg) (r : Option RPfx) (s : State) : Out := .next (s.alu remSigned a b r)

/-- REMU. -/
def execRemu (a b : Reg) (r : Option RPfx) (s : State) : Out :=
  .next (s.alu (fun x y => if y = 0 then x else BitVec.ofNat 64 (x.toNat % y.toNat)) a b r)

/-- MINU. -/
def execMinu (a b : Reg) (r : Option RPfx) (s : State) : Out :=
  .next (s.alu (fun x y => if y.ult x then y else x) a b r)

/-- MAXU. -/
def execMaxu (a b : Reg) (r : Option RPfx) (s : State) : Out :=
  .next (s.alu (fun x y => if x.ult y then y else x) a b r)

/-- NEG. -/
def execNeg (a b : Reg) (s : State) : Out := .next (s.unary (fun y => 0 - y) a b)

/-- NOT. -/
def execNot (a b : Reg) (s : State) : Out := .next (s.unary (fun y => ~~~y) a b)

/-- The number of one bits among the lowest `n` bits of `v`. -/
def ones (v : Nat) : Nat → Nat
  | 0 => 0
  | n + 1 => v % 2 + ones (v / 2) n

/-- The number of zero bits below the lowest one bit of `v`, at most `n`. -/
def trailing (v : Nat) : Nat → Nat
  | 0 => 0
  | n + 1 => if v % 2 = 1 then 0 else 1 + trailing (v / 2) n

/-- The lowest `n` bits of `v` reversed. -/
def reverseBits (v : Nat) : Nat → Nat
  | 0 => 0
  | n + 1 => v % 2 * 2 ^ n + reverseBits (v / 2) n

/-- The lowest `n` bytes of `v` reversed. -/
def reverseBytes (v : Nat) : Nat → Nat
  | 0 => 0
  | n + 1 => v % 256 * 256 ^ n + reverseBytes (v / 256) n

/-- CLZ. -/
def execClz (a b : Reg) (s : State) : Out :=
  .next (s.unary (fun y => BitVec.ofNat 64 (trailing (reverseBits y.toNat 64) 64)) a b)

/-- CTZ. -/
def execCtz (a b : Reg) (s : State) : Out := .next (s.unary (fun y => BitVec.ofNat 64 (trailing y.toNat 64)) a b)

/-- POPC. -/
def execPopc (a b : Reg) (s : State) : Out := .next (s.unary (fun y => BitVec.ofNat 64 (ones y.toNat 64)) a b)

/-- BREV. -/
def execBrev (a b : Reg) (s : State) : Out := .next (s.unary (fun y => BitVec.ofNat 64 (reverseBits y.toNat 64)) a b)

/-- BSWAP. -/
def execBswap (a b : Reg) (s : State) : Out := .next (s.unary (fun y => BitVec.ofNat 64 (reverseBytes y.toNat 8)) a b)

/-- SEXTB. -/
def execSextb (a b : Reg) (s : State) : Out := .next (s.unary (fun y => (y.extractLsb' 0 8).signExtend 64) a b)

/-- SEXTH. -/
def execSexth (a b : Reg) (s : State) : Out := .next (s.unary (fun y => (y.extractLsb' 0 16).signExtend 64) a b)

/-- SEXTW. -/
def execSextw (a b : Reg) (s : State) : Out := .next (s.unary (fun y => (y.extractLsb' 0 32).signExtend 64) a b)

/-- ROL. -/
def execRol (a b : Reg) (r : Option RPfx) (s : State) : Out := .next (s.alu (fun x y => x.rotateLeft (amount y)) a b r)

/-- ROR. -/
def execRor (a b : Reg) (r : Option RPfx) (s : State) : Out := .next (s.alu (fun x y => x.rotateRight (amount y)) a b r)

/-- The position field of a control word (R98). -/
def fieldPos (y : Word) : Nat := y.toNat % 64

/-- The length field of a control word (R98). -/
def fieldLen (y : Word) : Nat := y.toNat / 64 % 128

/-- The field of x that a control word names (R98). -/
def fieldOf (x y : Word) : Word :=
  if fieldLen y < 64 then (x >>> fieldPos y) &&& BitVec.ofNat 64 (2 ^ fieldLen y - 1) else x >>> fieldPos y

/-- D with the field that a control word names replaced by the low bits of x (R98). -/
def fieldIn (d x y : Word) : Word :=
  let mask : Word := BitVec.ofNat 64 ((2 ^ fieldLen y - 1) * 2 ^ fieldPos y)
  (d &&& ~~~mask) ||| ((x <<< fieldPos y) &&& mask)

/-- BEXT. -/
def execBext (a b : Reg) (r : Option RPfx) (s : State) : Out := .next (s.alu fieldOf a b r)

/-- BINS: D is source and destination. -/
def execBins (a b : Reg) (r : Option RPfx) (s : State) : Out :=
  .next (s.result (dOf r) (fieldIn (s.r (dOf r)) (s.r a) (s.r b)) 0)

end Sys2Proof.Machine
end

