-- ==== Sys2Proof/Machine/Transcend.lean ====
section
/-!
DEFINITION. Sys2Proof/Machine/Transcend.lean: the special functions of R141, computed in fixed point with 256 fraction
bits, far beyond the 12 bits to which they are rounded; an irrational value carries a sticky last bit.
-/
namespace Sys2Proof.Machine

/-- The fixed-point unit. -/
def one256 : Nat := 2 ^ 256

/-- ln 2 in fixed point. -/
def ln2Fix : Nat := 0xb17217f7d1cf79abc9e3b39803f2f6af40f343267298b62d8a0d175b8baafa2b

/-- pi / 2 in fixed point. -/
def halfPiFix : Nat := 0x1921fb54442d18469898cc51701b839a252049c1114cf98e804177d4c76273644

/-- The exponential series from term `i` on: 1 + y/i * (1 + y/(i+1) * ...). -/
def expSeries (y : Nat) : Nat → Nat → Nat
  | 0, _ => one256
  | fuel + 1, i => one256 + y * expSeries y fuel (i + 1) / (i * one256)

/-- 2^x of a nonzero finite x, as a magnitude and an exponent. -/
def exp2Exact (neg : Bool) (m : Nat) (e : Int) : Nat × Int :=
  if ltPow2 m e 12 then
    let k := (-e).toNat
    let n : Int := signedOf neg (m * pow2 e)
    let whole : Int := n / (2 ^ k : Nat)
    let part : Nat := (n % (2 ^ k : Nat)).toNat
    if part = 0 then (1, whole)
    else
      let y := part * one256 / 2 ^ k * ln2Fix / one256
      (2 * expSeries y 64 1 + 1, whole - 257)
  else (1, if neg then -(2 ^ 20) else 2 ^ 20)

/-- The series of atanh z / z from 1/i on, `zz` the square of z: 1/i + zz * (1/(i+2) + ...). -/
def atanhSeries (zz : Nat) : Nat → Nat → Nat
  | 0, _ => 0
  | fuel + 1, i => one256 / i + zz * atanhSeries zz fuel (i + 2) / one256

/-- log2 of m * 2^e, as a sign, a magnitude and an exponent; a magnitude of 0 is exact. -/
def log2Exact (m : Nat) (e : Int) : Bool × Nat × Int :=
  let l := Nat.log2 m
  let whole : Int := (l : Int) + e
  if m = 2 ^ l then (decide (whole < 0), whole.natAbs, 0)
  else
    let z := (m - 2 ^ l) * one256 / (m + 2 ^ l)
    let zz := z * z / one256
    let lnv := 2 * z * atanhSeries zz 90 1 / one256
    let t : Int := whole * (one256 : Nat) + (lnv * one256 / ln2Fix : Nat)
    (decide (t < 0), 2 * t.natAbs + 1, -257)

/-- The nested sine series: 1 - y/(i(i+1)) * (1 - ...), `y` the square of the angle. -/
def sinSeries (y : Nat) : Nat → Nat → Nat
  | 0, _ => one256
  | fuel + 1, i => one256 - y * sinSeries y fuel (i + 2) / (i * (i + 1) * one256)

/-- sin(pi/2 * r / 2^k) for 0 < r < 2^k. -/
def sinQuarter (r k : Nat) : Nat × Int :=
  if r * 2 ^ 60 < 2 ^ k then (2 * (r * halfPiFix) + 1, -((k : Int) + 257))
  else
    let a := r * one256 / 2 ^ k * halfPiFix / one256
    (2 * (a * sinSeries (a * a / one256) 40 2 / one256) + 1, -257)

/-- sin of 2 pi (m * 2^e + shift quarter turns), as a sign, a magnitude and an exponent; 0 and 1 are exact. -/
def sinTurns (shift : Nat) (neg : Bool) (m : Nat) (e : Int) : Bool × Nat × Int :=
  let k := (-e).toNat
  let d : Nat := 2 ^ k
  let n : Int := signedOf neg (m * pow2 e)
  let f : Nat := ((4 * n + shift * (d : Int)) % (4 * (d : Int))).toNat
  let q := f / d
  let r := f % d
  if r = 0 then (decide (2 ≤ q), q % 2, 0)
  else
    let (v, x) := if q % 2 = 0 then sinQuarter r k else sinQuarter (d - r) k
    (decide (2 ≤ q), v, x)

/-- The four special functions. -/
inductive SpecialFn where
  | exp2 | log2 | sin | cos
  deriving DecidableEq, Repr

/-- The procedure of R141 for one lane. -/
def specialLane (fn : SpecialFn) (f : Fmt) (md : Modes) (y : Nat) : Rounded :=
  let nan (nv : Bool) : Rounded := ⟨f.nan false, { FFlags.none with nv := nv }⟩
  let exact (b : Nat) : Rounded := ⟨b, FFlags.none⟩
  let oneBits := f.magBits 1 0
  let short (neg : Bool) (m : Nat) (e : Int) : Rounded := if m = 0 then exact 0 else shortResult f neg m e
  match inF f md y, fn with
  | .nan sig _, _ => nan sig
  | .inf neg, .exp2 => exact (if neg then 0 else f.infBits)
  | .inf neg, .log2 => if neg then nan true else exact f.infBits
  | .inf _, .sin => nan true
  | .inf _, .cos => nan true
  | .fin neg m e, .exp2 =>
    if m = 0 then exact oneBits else let (k, q) := exp2Exact neg m e; short false k q
  | .fin neg m e, .log2 =>
    if m = 0 then ⟨f.signBit true + f.infBits, { FFlags.none with dz := true }⟩
    else if neg then nan true
    else let (n, k, q) := log2Exact m e; short n k q
  | .fin neg m e, .sin =>
    if m = 0 then exact (f.signBit neg) else let (n, k, q) := sinTurns 0 neg m e; short n k q
  | .fin neg m e, .cos =>
    if m = 0 then exact oneBits else let (n, k, q) := sinTurns 1 neg m e; short n k q

end Sys2Proof.Machine
end

