-- ==== Sys2Proof/Machine/Vector.lean ====
section
/-!
DEFINITION. Sys2Proof/Machine/Vector.lean: the vector unit, page 1 (R129 to R148).
-/
namespace Sys2Proof.Machine

/-! ### Lanes -/

/-- Lane i of a register with lanes of `w` bits (R129). -/
def lane (w : Nat) (v : VWord) (i : Nat) : Nat := v.toNat / 2 ^ (w * i) % 2 ^ w

/-- All lanes, lane 0 first. -/
def lanes (w : Nat) (v : VWord) : List Nat := (List.range (128 / w)).map (lane w v)

/-- The number whose lanes of `w` bits are given, lane 0 first. -/
def joinLanes (w : Nat) : List Nat → Nat
  | [] => 0
  | x :: xs => x % 2 ^ w + 2 ^ w * joinLanes w xs

/-- A register from its lanes; lanes not given are zero. -/
def pack (w : Nat) (xs : List Nat) : VWord := BitVec.ofNat 128 (joinLanes w xs)

/-- A lane read as signed. -/
def signedLane (w v : Nat) : Int := if v < 2 ^ (w - 1) then v else (v : Int) - ((2 ^ w : Nat) : Int)

/-- The lane of an integer, modulo 2^w (R135). -/
def wrapLane (w : Nat) (x : Int) : Nat := (x % ((2 ^ w : Nat) : Int)).toNat

/-- The flags of several lanes together (R109). -/
def orFlags (xs : List Rounded) : FFlags := xs.foldl (fun a x => a.or x.fl) FFlags.none

/-- An integer operation on two lanes of `w` bits. -/
abbrev IntOp := Nat → Nat → Nat → Nat

/-- An arithmetic operation on two signed lanes, wrapping. -/
def wrapping (f : Int → Int → Int) : IntOp := fun w x y => wrapLane w (f (signedLane w x) (signedLane w y))

/-- A relation of two lanes as a mask (R136). -/
def maskOf (f : Nat → Nat → Nat → Bool) : IntOp := fun w x y => if f w x y then 2 ^ w - 1 else 0

/-- Debit of a group by its type (R148). -/
def classOf (t : Reg) : Nat := if isFloatType t then 2 else 1

/-- The element type, if it lies in an instruction's set; else cause 1 (R132). -/
def State.typed (s : State) (ts : TypeSet) (r : Option RPfx) (k : Reg → State) : State :=
  let t := s.elem (eOf r)
  if ts.has t then k t else s.illegalType r

/-- A register result with flags. -/
def State.resultVF (s : State) (vd : Reg) (w : Nat) (xs : List Rounded) (drops : Nat) : State :=
  (s.raise (orFlags xs)).resultV vd (pack w (xs.map (·.bits))) drops

/-- A binary form over integer lanes. -/
def State.vecInt (s : State) (f : IntOp) (a b : Reg) (r : Option RPfx) (t : Reg) : State :=
  let w := laneWidth t
  s.resultV (destOf a r) (pack w (List.zipWith (f w) (lanes w (s.v a)) (lanes w (s.v b)))) 1

/-- A binary form over floating-point lanes. -/
def State.vecFloat (s : State) (f : Fmt → Modes → Nat → Nat → Rounded) (a b : Reg) (r : Option RPfx) (t : Reg)
    (drops : Nat) : State :=
  let w := laneWidth t
  s.resultVF (destOf a r) w (List.zipWith (f (fmtOfType t) s.me.modes) (lanes w (s.v a)) (lanes w (s.v b))) drops

/-- A binary form over either. -/
def State.vecBoth (s : State) (f : IntOp) (g : Fmt → Modes → Nat → Nat → Rounded) (a b : Reg) (r : Option RPfx) : State :=
  s.typed .both r fun t => if isIntType t then s.vecInt f a b r t else s.vecFloat g a b r t 2

/-- A binary form of 128 bits (R136). -/
def State.vecBits (s : State) (f : VWord → VWord → VWord) (a b : Reg) (r : Option RPfx) : State :=
  s.resultV (destOf a r) (f (s.v a) (s.v b)) 1

/-- A shift by an immediate, which must lie below the lane width (R137). -/
def State.vecShift (s : State) (f : Nat → Nat → Nat → Nat) (a b : Reg) (r : Option RPfx) (is : IPfx) : State :=
  s.typed .ints r fun t =>
    let w := laneWidth t
    let k := immShift is b
    if w ≤ k then (if eOf r = 0 then s.illegalType r else s.illegal 1)
    else s.resultV (destOf a r) (pack w ((lanes w (s.v a)).map fun x => f w x k)) 1

/-- A unary form over floating-point lanes. -/
def State.vecUnary (s : State) (f : Fmt → Modes → Nat → Rounded) (a b : Reg) (r : Option RPfx) (drops : Nat) : State :=
  s.typed .floats r fun t =>
    let w := laneWidth t
    s.resultVF a w ((lanes w (s.v b)).map (f (fmtOfType t) s.me.modes)) drops

/-- A unary form over lanes that sets no flag. -/
def State.vecMap (s : State) (ts : TypeSet) (f : Nat → Nat → Nat) (g : Fmt → Nat → Nat) (a b : Reg) (r : Option RPfx) : State :=
  s.typed ts r fun t =>
    let w := laneWidth t
    let h := if isIntType t then f w else g (fmtOfType t)
    s.resultV a (pack w ((lanes w (s.v b)).map h)) (classOf t)

/-! ### Integer lane operations (Table 5.4) -/

/-- Shift left by a lane amount (R137). -/
def laneShl : IntOp := fun w x y => if w ≤ y then 0 else x * 2 ^ y % 2 ^ w

/-- Shift right with zeros. -/
def laneShr : IntOp := fun w x y => if w ≤ y then 0 else x / 2 ^ y

/-- Shift right with copies of the sign. -/
def laneSar : IntOp := fun w x y => wrapLane w (signedLane w x / ((2 ^ min y w : Nat) : Int))

/-- The upper half of the signed product. -/
def laneMulh : IntOp := fun w x y => wrapLane w (signedLane w x * signedLane w y / ((2 ^ w : Nat) : Int))

/-- The smaller, or the greater, of two signed lanes. -/
def lanePick (greater : Bool) : IntOp := fun w x y =>
  if decide (signedLane w y < signedLane w x) != greater then y else x

/-- The smaller, or the greater, of two unsigned lanes. -/
def lanePickU (greater : Bool) : IntOp := fun _ x y => if decide (y < x) != greater then y else x

/-- A comparison of floating-point lanes as a mask. -/
def fMask (rel : FRel) (f : Fmt) (md : Modes) (x y : Nat) : Rounded :=
  let c := fCompare rel f md x y
  ⟨if c.1 then 2 ^ f.width - 1 else 0, c.2⟩

/-! ### The instructions -/

/-- VADD. -/
def execVadd (a b : Reg) (r : Option RPfx) (s : State) : Out := .next (s.vecBoth (wrapping fun x y => x + y) fAdd a b r)

/-- VSUB. -/
def execVsub (a b : Reg) (r : Option RPfx) (s : State) : Out := .next (s.vecBoth (wrapping fun x y => x - y) fSub a b r)

/-- VMUL. -/
def execVmul (a b : Reg) (r : Option RPfx) (s : State) : Out := .next (s.vecBoth (wrapping fun x y => x * y) fMul a b r)

/-- VMULH. -/
def execVmulh (a b : Reg) (r : Option RPfx) (s : State) : Out := .next (s.typed .ints r fun t => s.vecInt laneMulh a b r t)

/-- VMIN. -/
def execVmin (a b : Reg) (r : Option RPfx) (s : State) : Out := .next (s.vecBoth (lanePick false) (fPick false) a b r)

/-- VMAX. -/
def execVmax (a b : Reg) (r : Option RPfx) (s : State) : Out := .next (s.vecBoth (lanePick true) (fPick true) a b r)

/-- VMINU. -/
def execVminu (a b : Reg) (r : Option RPfx) (s : State) : Out := .next (s.typed .ints r fun t => s.vecInt (lanePickU false) a b r t)

/-- VMAXU. -/
def execVmaxu (a b : Reg) (r : Option RPfx) (s : State) : Out := .next (s.typed .ints r fun t => s.vecInt (lanePickU true) a b r t)

/-- VAND. -/
def execVand (a b : Reg) (r : Option RPfx) (s : State) : Out := .next (s.vecBits (fun x y => x &&& y) a b r)

/-- VOR. -/
def execVor (a b : Reg) (r : Option RPfx) (s : State) : Out := .next (s.vecBits (fun x y => x ||| y) a b r)

/-- VXOR. -/
def execVxor (a b : Reg) (r : Option RPfx) (s : State) : Out := .next (s.vecBits (fun x y => x ^^^ y) a b r)

/-- VANDN. -/
def execVandn (a b : Reg) (r : Option RPfx) (s : State) : Out := .next (s.vecBits (fun x y => x &&& ~~~y) a b r)

/-- VSHL. -/
def execVshl (a b : Reg) (r : Option RPfx) (s : State) : Out := .next (s.typed .ints r fun t => s.vecInt laneShl a b r t)

/-- VSHR. -/
def execVshr (a b : Reg) (r : Option RPfx) (s : State) : Out := .next (s.typed .ints r fun t => s.vecInt laneShr a b r t)

/-- VSAR. -/
def execVsar (a b : Reg) (r : Option RPfx) (s : State) : Out := .next (s.typed .ints r fun t => s.vecInt laneSar a b r t)

/-- VSHLI. -/
def execVshli (a b : Reg) (r : Option RPfx) (is : IPfx) (s : State) : Out := .next (s.vecShift laneShl a b r is)

/-- VSHRI. -/
def execVshri (a b : Reg) (r : Option RPfx) (is : IPfx) (s : State) : Out := .next (s.vecShift laneShr a b r is)

/-- VSARI. -/
def execVsari (a b : Reg) (r : Option RPfx) (is : IPfx) (s : State) : Out := .next (s.vecShift laneSar a b r is)

/-- The accumulate form over floating-point lanes (Table 5.3). -/
def State.vecAccumulate (s : State) (f : Fmt → Modes → Nat → Nat → Nat → Rounded) (a b : Reg) (r : Option RPfx) : State :=
  s.typed .floats r fun t =>
    let w := laneWidth t
    let g := f (fmtOfType t) s.me.modes
    s.resultVF (dOf r) w ((List.range (128 / w)).map fun i =>
      g (lane w (s.v a) i) (lane w (s.v b) i) (lane w (s.v (dOf r)) i)) 2

/-- VFMA. -/
def execVfma (a b : Reg) (r : Option RPfx) (s : State) : Out := .next (s.vecAccumulate fFma a b r)

/-- VFMS. -/
def execVfms (a b : Reg) (r : Option RPfx) (s : State) : Out := .next (s.vecAccumulate fFms a b r)

/-- VDIV. -/
def execVdiv (a b : Reg) (r : Option RPfx) (s : State) : Out := .next (s.typed .floats r fun t => s.vecFloat fDiv a b r t 4)

/-- VSQRT. -/
def execVsqrt (a b : Reg) (r : Option RPfx) (s : State) : Out := .next (s.vecUnary fSqrt a b r 4)

/-- VRCP. -/
def execVrcp (a b : Reg) (r : Option RPfx) (s : State) : Out := .next (s.vecUnary (fun f _ => fRecip false f) a b r 4)

/-- VRSQ. -/
def execVrsq (a b : Reg) (r : Option RPfx) (s : State) : Out := .next (s.vecUnary (fun f _ => fRecip true f) a b r 4)

/-- VEXP2. -/
def execVexp2 (a b : Reg) (r : Option RPfx) (s : State) : Out := .next (s.vecUnary (specialLane .exp2) a b r 4)

/-- VLOG2. -/
def execVlog2 (a b : Reg) (r : Option RPfx) (s : State) : Out := .next (s.vecUnary (specialLane .log2) a b r 4)

/-- VSIN. -/
def execVsin (a b : Reg) (r : Option RPfx) (s : State) : Out := .next (s.vecUnary (specialLane .sin) a b r 4)

/-- VCOS. -/
def execVcos (a b : Reg) (r : Option RPfx) (s : State) : Out := .next (s.vecUnary (specialLane .cos) a b r 4)

/-- VABS. -/
def execVabs (a b : Reg) (r : Option RPfx) (s : State) : Out :=
  .next (s.vecMap .both (fun w y => if signedLane w y < 0 then wrapLane w (-signedLane w y) else y) fAbs a b r)

/-- VNEG. -/
def execVneg (a b : Reg) (r : Option RPfx) (s : State) : Out := .next (s.vecMap .both (fun w y => wrapLane w (-signedLane w y)) fNeg a b r)

/-- VCEQ. -/
def execVceq (a b : Reg) (r : Option RPfx) (s : State) : Out := .next (s.vecBoth (maskOf fun _ x y => x == y) (fMask .eq) a b r)

/-- VCLT. -/
def execVclt (a b : Reg) (r : Option RPfx) (s : State) : Out :=
  .next (s.vecBoth (maskOf fun w x y => decide (signedLane w x < signedLane w y)) (fMask .lt) a b r)

/-- VCLTU. -/
def execVcltu (a b : Reg) (r : Option RPfx) (s : State) : Out :=
  .next (s.typed .ints r fun t => s.vecInt (maskOf fun _ x y => decide (x < y)) a b r t)

/-- VCLE. -/
def execVcle (a b : Reg) (r : Option RPfx) (s : State) : Out :=
  .next (s.vecBoth (maskOf fun w x y => decide (signedLane w x ≤ signedLane w y)) (fMask .le) a b r)

/-- VSEL. -/
def execVsel (a b : Reg) (r : Option RPfx) (s : State) : Out :=
  .next (s.resultV (dOf r) ((s.v (dOf r) &&& s.v a) ||| (~~~(s.v (dOf r)) &&& s.v b)) 1)

/-- VSPLAT (R139). -/
def execVsplat (a b : Reg) (r : Option RPfx) (s : State) : Out :=
  .next (s.typed .both r fun t =>
    let w := laneWidth t
    s.resultV a (pack w (List.replicate (128 / w) ((s.r b).toNat % 2 ^ w))) (classOf t))

/-- A lane index D below the number of lanes, else cause 1 (R139). -/
def State.lanePicked (s : State) (r : Option RPfx) (k : Reg → Nat → State) : State :=
  s.typed .both r fun t =>
    if (dOf r).toNat * laneWidth t < 128 then k t (dOf r).toNat else s.illegalType r

/-- VEXT. -/
def execVext (a b : Reg) (r : Option RPfx) (s : State) : Out :=
  .next (s.lanePicked r fun t k =>
    let w := laneWidth t
    let x := lane w (s.v b) k
    s.result a (if isIntType t then BitVec.ofInt 64 (signedLane w x) else BitVec.ofNat 64 x) (classOf t))

/-- VINS. -/
def execVins (a b : Reg) (r : Option RPfx) (s : State) : Out :=
  .next (s.lanePicked r fun t k =>
    let w := laneWidth t
    s.resultV a (pack w ((lanes w (s.v a)).set k ((s.r b).toNat % 2 ^ w))) (classOf t))

/-- VSHUF (R140). -/
def execVshuf (a b : Reg) (r : Option RPfx) (s : State) : Out :=
  .next (s.typed .both r fun t =>
    let w := laneWidth t
    s.resultV (destOf a r) (pack w ((lanes w (s.v b)).map fun j => if j < 128 / w then lane w (s.v a) j else 0)) 1)

/-- A pair form: D is written before A, and must differ from it (R140). -/
def State.vecPair (s : State) (f : Nat → VWord → VWord → List Nat × List Nat) (a b : Reg) (r : Option RPfx) : State :=
  s.typed .both r fun t =>
    if dOf r = a then s.illegal 1
    else
      let w := laneWidth t
      let p := f w (s.v a) (s.v b)
      (s.wrV s.cur (dOf r) (pack w p.1)).resultV a (pack w p.2) 1

/-- The lanes of A and B from `lo` on alternately. -/
def interleave (w lo : Nat) (x y : VWord) : List Nat :=
  (List.range (64 / w)).flatMap fun i => [lane w x (lo + i), lane w y (lo + i)]

/-- Every second lane of A then of B, from lane `lo`. -/
def deinterleave (w lo : Nat) (x y : VWord) : List Nat :=
  let half (v : VWord) : List Nat := (List.range (64 / w)).map fun i => lane w v (2 * i + lo)
  half x ++ half y

/-- VZIP. -/
def execVzip (a b : Reg) (r : Option RPfx) (s : State) : Out :=
  .next (s.vecPair (fun w x y => (interleave w 0 x y, interleave w (64 / w) x y)) a b r)

/-- VUNZIP. -/
def execVunzip (a b : Reg) (r : Option RPfx) (s : State) : Out :=
  .next (s.vecPair (fun w x y => (deinterleave w 0 x y, deinterleave w 1 x y)) a b r)

/-- One lane of VCVT, from type `u` to type `t` (R143). -/
def cvtLane (u t : Reg) (md : Modes) (x : Nat) : Rounded :=
  let w := laneWidth t
  let lo : Int := -((2 ^ (w - 1) : Nat) : Int)
  let hi : Int := ((2 ^ (w - 1) : Nat) : Int) - 1
  if isIntType u then
    let v := signedLane (laneWidth u) x
    if isIntType t then
      let c := toIntClamp .rne lo hi (decide (v < 0)) v.natAbs 0
      ⟨wrapLane w c.1, c.2⟩
    else fOfInt (fmtOfType t) md v
  else if isIntType t then
    let c := fToInt (fmtOfType u) md md.rm lo hi x
    ⟨wrapLane w c.1, c.2⟩
  else fConvert (fmtOfType u) (fmtOfType t) md x

/-- VCVT. -/
def execVcvt (a b : Reg) (r : Option RPfx) (s : State) : Out :=
  .next (s.typed .both r fun u =>
    let t := s.elem (dOf r)
    if !goodType t then s.illegalType r
    else
      let n := min (128 / laneWidth u) (128 / laneWidth t)
      s.resultVF a (laneWidth t) ((List.range n).map fun i => cvtLane u t s.me.modes (lane (laneWidth u) (s.v b) i))
        (max (classOf u) (classOf t)))

/-- Combine adjacent pairs (R144). -/
def pairUp {α : Type} (f : α → α → α) : List α → List α
  | x :: y :: rest => f x y :: pairUp f rest
  | rest => rest

/-- The pairwise tree, level by level. -/
def treeOf {α : Type} (f : α → α → α) : Nat → List α → List α
  | 0, xs => xs
  | n + 1, xs => treeOf f n (pairUp f xs)

/-- The integer operation of a VRED selector (Table 5.8). -/
def redInt (sel : Nat) : IntOp :=
  match sel with
  | 0 => wrapping fun x y => x + y
  | 1 => lanePick false
  | 2 => lanePick true
  | 3 => lanePickU false
  | 4 => lanePickU true
  | 5 => fun _ x y => x &&& y
  | 6 => fun _ x y => x ||| y
  | _ => fun _ x y => x ^^^ y

/-- The floating-point operation of a VRED selector. -/
def redFloat (sel : Nat) : Fmt → Modes → Nat → Nat → Rounded :=
  match sel with
  | 0 => fAdd
  | 1 => fPick false
  | _ => fPick true

/-- VRED. -/
def execVred (a b : Reg) (r : Option RPfx) (s : State) : Out :=
  .next (s.typed .both r fun t =>
    let sel := (dOf r).toNat
    let w := laneWidth t
    if !redAdmits (dOf r) t then s.illegalType r
    else if isIntType t then
      let x := (treeOf (redInt sel w) 4 (lanes w (s.v b))).headD 0
      s.result a (if sel ≤ 2 then BitVec.ofInt 64 (signedLane w x) else BitVec.ofNat 64 x) 1
    else
      let f := redFloat sel (fmtOfType t) s.me.modes
      let step (x y : Rounded) : Rounded := let z := f x.bits y.bits; ⟨z.bits, (x.fl.or y.fl).or z.fl⟩
      let x := (treeOf step 4 ((lanes w (s.v b)).map fun v => ⟨v, FFlags.none⟩)).headD ⟨0, FFlags.none⟩
      s.resultF a x 2)

/-- The sum of an f32 accumulator and two exact products, rounded once (R145). -/
def dotFloat (f : Fmt) (md : Modes) (d a0 b0 a1 b1 : Nat) : Rounded :=
  let p := exactMul (inF f md a0) (inF f md b0)
  let q := exactMul (inF f md a1) (inF f md b1)
  let c := inF .fp32 md d
  let all := [p.v, q.v, c]
  let clash := all.any (fun x => x == .inf true) && all.any (fun x => x == .inf false)
  let nv := p.nv || q.nv || c.isSnan || clash
  if all.any (·.isNan) || clash then deliverF .fp32 md (.nan nv)
  else deliverF .fp32 md (exactAdd md.rm (exactAdd md.rm p.v q.v).v c)

/-- The sum of four products of signed lanes. -/
def dotInt (w : Nat) (x y : VWord) (j : Nat) : Int :=
  (List.range 4).foldl (fun acc k => acc + signedLane w (lane w x (4 * j + k)) * signedLane w (lane w y (4 * j + k))) 0

/-- VDOT. -/
def execVdot (a b : Reg) (r : Option RPfx) (s : State) : Out :=
  .next (s.typed .dot r fun t =>
    let w := laneWidth t
    let d := dOf r
    if isIntType t then
      let n := 4 * w
      s.resultV d (pack n ((List.range (128 / n)).map fun j =>
        wrapLane n (signedLane n (lane n (s.v d) j) + dotInt w (s.v a) (s.v b) j))) 1
    else
      let f := fmtOfType t
      s.resultVF d 32 ((List.range 4).map fun j =>
        dotFloat f s.me.modes (lane 32 (s.v d) j) (lane 16 (s.v a) (2 * j)) (lane 16 (s.v b) (2 * j))
          (lane 16 (s.v a) (2 * j + 1)) (lane 16 (s.v b) (2 * j + 1))) 2)

/-- VPOPC. -/
def execVpopc (a b : Reg) (r : Option RPfx) (s : State) : Out :=
  .next (s.vecMap .ints (fun w y => (List.range w).foldl (fun n i => n + y / 2 ^ i % 2) 0) (fun _ y => y) a b r)

/-- The wide floating-point format of VMULW (R146). -/
def wideOf (f : Fmt) : Fmt := if f = .fp32 then .fp64 else .fp32

/-- VMULW. -/
def execVmulw (a b : Reg) (r : Option RPfx) (s : State) : Out :=
  .next (s.typed .widen r fun t =>
    let w := laneWidth t
    if isIntType t then
      s.resultV (destOf a r) (pack (2 * w) ((List.range (64 / w)).map fun i =>
        wrapLane (2 * w) (signedLane w (lane w (s.v a) i) * signedLane w (lane w (s.v b) i)))) 1
    else
      let f := fmtOfType t
      let md := s.me.modes
      s.resultVF (destOf a r) (2 * w) ((List.range (64 / w)).map fun i =>
        deliverF (wideOf f) md (exactMul (inF f md (lane w (s.v a) i)) (inF f md (lane w (s.v b) i)))) 2)

/-- VMOV. -/
def execVmov (a b : Reg) (s : State) : Out := .next (s.resultV a (s.v b) 1)

end Sys2Proof.Machine
end

