-- ==== Sys2Proof/Machine/Stack.lean ====
section
/-!
DEFINITION. Sys2Proof/Machine/Stack.lean: the engines in the memory stacks (chapter 12): SGATH and SCVT, their events, and the
reduction instructions.
-/
namespace Sys2Proof.Machine

/-! ### Jobs (R306 to R312) -/

/-- The lead stack engine of the issuing die. -/
def State.leadUnit (s : State) : Nat := 1024 + dieOf s.cur

/-- BADRECORD of a gather record (R309). -/
def CopyJob.badGather (j : CopyJob) : Bool :=
  let row := j.gRow
  let pitch := bits (j.w 5) 47 32
  let dst := bits (j.w 4) 47 0
  row % 8 != 0 || decide (row < 8) || decide (4096 < row) || (j.w 3).toNat % 8 != 0 || pitch % 8 != 0 || decide (pitch < row) ||
    decide (65536 < j.gCount) || j.barrier % 32 != 0 ||
    (j.dkind == 0 && j.gCount != 0 &&
      (decide (dst < 0x1000000) || decide (0x2000000 < dst + (j.gCount - 1) * pitch + row)))

/-- SGATH. -/
def execSgath (a b : Reg) (is : IPfx) (s : State) : Out :=
  let va := s.addrOf b is
  .next (s.withRec va 8 64 fun ws region s =>
    let j := s.newJob .gather ws [] va
    let counts : Counts := [(region, 64)]
    if j.badGather then s.refuseJob a counts 8 else s.issueJob s.leadUnit 64 a counts j)

/-- SCVT. -/
def execScvt (a b : Reg) (is : IPfx) (s : State) : Out :=
  let va := s.addrOf b is
  .next (s.withRec va 16 128 fun ws region s =>
    let j := s.newJob .convert ws [] va
    let counts : Counts := [(region, 128)]
    if j.badRegion then s.refuseJob a counts 8 else s.issueJob s.leadUnit 64 a counts j)

/-- STACK_JOB_CHUNK. -/
def execStackJobChunk (die : Nat) (s : State) : Out := .next (if die < 8 then s.nextChunk (1024 + die) else s)

/-- STACK_JOB_END. -/
def execStackJobEnd (die : Nat) (s : State) : Out := .next (if die < 8 then s.jobEnd (1024 + die) else s)

/-! ### Reduction cells (R313 to R317) -/

/-- A cell's address checks; a cell that is not in device memory raises cause 7 (R314). -/
def State.withCell (s : State) (va : Word) (need : Need) (k : Target → State) : State :=
  match s.check s.cur s.me.ctx s.me.tsr.priv va 32 need with
  | .trap c a => (s.note14 s.cur s.me.ctx c a 8).trap c a 0
  | .ok t => if storageOf t.pa ≠ .device ∨ t.isReg then s.trap 7 va 0 else k t

/-- SREDI. -/
def execSredi (a b : Reg) (is : IPfx) (m : Option MPfx) (s : State) : Out :=
  let va := s.addrOf b is
  .next (s.withCell va .write fun t =>
    s.sendChecked (accessOf m va 32 32 .write (.sredi (s.r a)) true false) t 1)

/-- SREDF. -/
def execSredf (a b : Reg) (is : IPfx) (m : Option MPfx) (s : State) : Out :=
  let va := s.addrOf b is
  .next (s.withCell va .read fun t =>
    s.sendChecked (accessOf m va 32 32 .read (.sredf a) true false) t 1)

/-- PU: one contribution goes straight to the cell's home (R317). -/
def State.postUpdate (s : State) (u : Update) : State :=
  if homeDie u.pa = dieOf s.cur then s.performUpdate u else s.enqueue (dieOf s.cur) (homeDie u.pa) (.update u)

/-- Several contributions, in order. -/
def State.postUpdates (s : State) (va : Word) (pa fmt : Nat) : List Nat → State
  | [] => s
  | x :: xs => (s.postUpdate ⟨va, pa, fmt, [x], s.me.ctx.id, s.cur, none⟩).postUpdates va pa fmt xs

/-- The format code of an element type (Tables 2.4, 4.1). -/
def codeOfType (t : Reg) : Nat :=
  match t.toNat with
  | 8 => 4
  | 9 => 3
  | 10 => 1
  | _ => 0

/-- The contributions of SRED and SREDV: the core drains Q and W of the cell's words first. -/
def State.reduce (s : State) (va : Word) (ty : Reg) (xs : List Nat) : State :=
  s.withCell va .rmw fun t =>
    match s.policy s.me.codeid t with
    | some r => s.trap 17 va (policyInfo r)
    | none => ((s.drainWords s.cur (wordsTouched t.pa 32)).postUpdates va t.pa (codeOfType ty) xs).retire 1

/-- SRED: the value is the low bits of A. -/
def execSred (a b : Reg) (r : Option RPfx) (is : IPfx) (s : State) : Out :=
  let ty := floatType (eOf r)
  .next (s.reduce (s.addrOf b is) ty [(s.r a).toNat % 2 ^ (laneWidth ty)])

/-- SREDV: one contribution for each lane, in lane order. -/
def execSredv (a b : Reg) (r : Option RPfx) (is : IPfx) (s : State) : Out :=
  let ty := s.elem (eOf r)
  .next (if !isFloatType ty then s.illegalType r else s.reduce (s.addrOf b is) ty (lanes (laneWidth ty) (s.v a)))

end Sys2Proof.Machine
end

