-- ==== Sys2Proof/Machine/Startup.lean ====
section
/-!
DEFINITION. Sys2Proof/Machine/Startup.lean: module reset, the start stages and BOOTCMD (R416, R426 to R429).
-/
namespace Sys2Proof.Machine

/-- MODULE_RESET: every register has its reset value, every full/empty bit is full, no word is uncorrectable any more (R207), and the
start sequence begins. The contents of memory and the nonvolatile store stay; events posted before are applied (R402, R406, log 31). -/
def execModuleReset (s : State) : Out :=
  let s := s.applyWhere fun _ => true
  .next { State.reset with mem := s.mem, regions := s.regions, serial := s.serial, turns := s.turns, fresh := s.fresh }

/-- A stage of the start sequence that is reached and has not failed. -/
def State.atStage (s : State) (n : Nat) (f : State → State) : Out :=
  .next (if s.stage.toNat = n ∧ s.err = 0 then f s else s)

/-- RAMOV_BOOT: stage 1. -/
def execRamovBoot (s : State) : Out := s.atStage 1 fun s => { s with stage := 2 }

/-- The firmware images in the order in which they are measured. -/
def firmware : List Config.Image := Config.controlImage :: Config.otherImages

/-- A log entry (R416). -/
def logEntry (x : Config.Image) : List Word :=
  [BitVec.ofNat 64 (x.kind.toNat * 256 + x.version.toNat)] ++ shake256 x.bytes ++ [1]

/-- FIRMWARE_VERIFY: stage 2; images up to the first that fails verification are logged. -/
def execFirmwareVerify (s : State) : Out :=
  s.atStage 2 fun s =>
    let s := { s with fwlog := (firmware.takeWhile fun (x : Config.Image) => x.genuine).flatMap logEntry }
    if firmware.all fun (x : Config.Image) => x.genuine then { s with stage := 3 } else { s with err := 1 }

/-- Bytes of an image as loaded: written, and their words full. R371 does not say that firmware loads by R59, and no word of an image is
loaded empty (log 9: DESIGN CHOICE). -/
def State.loadImage (s : State) (pa : Nat) (bs : List Byte) : State :=
  (s.putBytes pa (bs.map some)).setFulls true (wordsTouched pa bs.length)

/-- A control core with its image in its memories starts at 0x4_0000 (R371, R429). -/
def State.releaseCtl (s : State) (d : Nat) : State :=
  let s := s.loadImage (ctlPa d 0x40000) (Config.controlImage.dev.take 0x40000)
  let s := s.loadImage (ctlPa d 0) (Config.controlImage.tcm.take 0x10000)
  (s.startThread (ctlBase + d) Ctx.zero ⟨0x40000, payload 0 0 0 0, 0, 0, 0, 0, 0, true⟩).upd (ctlBase + d) fun t =>
    { t with wsp := 0, codeid := 0 }

/-- CONTROL_CORE_RELEASE: stage 3. -/
def execControlCoreRelease (s : State) : Out :=
  s.atStage 3 fun s => { allDies.foldl (fun s d => s.releaseCtl d) s with stage := 4 }

/-- LINK_TRAINING: stage 4; a link with fewer than 16 good lanes stops the sequence (R387). -/
def execLinkTraining (s : State) : Out :=
  s.atStage 4 fun s =>
    let s := s.trainLinks
    if !Config.memoryTrains then { s with err := 2 }
    else if allLinks.all fun x => (s.link x.1 x.2).open? then { s with stage := 5 }
    else { s with err := 3 }

/-- PCIE_ENUMERATE: stage 5. A configuration request before that stage is answered with Request Retry Status; one after the sequence
has stopped is served (R426). -/
def execPcieEnumerate (s : State) : Out :=
  if s.stage.toNat < 5 ∧ s.err = 0 then .next (s.toHost .retry) else s.atStage 5 fun s => { s with stage := 6 }

/-- The supervisor's code object: the page that maps the record's PC, measured as MEASURE does with that page as the one range of
its manifest (R427, log 32). -/
def State.supervisorCode (s : State) (c : Ctx) (pc : Nat) : Option CodeEntry :=
  if pc < 2 ^ 32 ∨ 2 ^ 48 ≤ pc then none
  else
    match s.walk c.ptbase pc with
    | .leaf e span =>
      let ps := [(leafPa e, span)]
      if storageOf (leafPa e) = .device ∧ !s.piecesBad ps then
        let base := BitVec.ofNat 64 (pc / span * span)
        let n := BitVec.ofNat 64 span
        some ⟨shake256 (bytesOfWords (baseless [1, base, n, base, n]) ++ s.markedBytes ps), c.id, base, n, ps⟩
      else none
    | _ => none

/-- BOOTCMD_WRITE: in stage 6 the record is checked, its code measured into entry 1, and loaded into TID 0 (R427). -/
def execBootcmdWrite (fn : Nat) (value : BitVec 64) (s : State) : Out :=
  if fn ≠ 0 then .next s
  else
    s.atStage 6 fun s =>
      let pa := bits value 51 8 * 256
      let l : RecLoc := ⟨pa, 256, 0⟩
      let ws := s.recWords l
      let w0 := nth ws 0
      let c := ctxOfWords ws
      let good := storageOf pa == .device && storageOf (pa + 2047) == .device && !s.recBad l && w0.getLsbD 63 && w0.getLsbD 62 &&
        w0.getLsbD 61 && c.id == 0
      match (if good then s.supervisorCode c (bits (nth ws 16) 47 0) else none) with
      | none => { s.noteBad pa 2048 with err := 4 }
      | some x => { ((s.enterCode 1 x).loadFresh l 0 (BitVec.ofNat 64 pa) 0 ws).acquire 0 3 with stage := 7 }

end Sys2Proof.Machine
end

