-- ==== Sys2Proof/Machine/Dispatch.lean ====
section
/-! DEFINITION. Sys2Proof/Machine/Dispatch.lean: one arm for each row of the opcode table. -/
namespace Sys2Proof.Machine

def exec (i : Instr) (s : State) : Host.Outcome State Fault Refusal :=
  match i with
  | .ill a b => Sys2Proof.Machine.execIll a b s
  | .add a b r => Sys2Proof.Machine.execAdd a b r s
  | .sub a b r => Sys2Proof.Machine.execSub a b r s
  | .and a b r => Sys2Proof.Machine.execAnd a b r s
  | .or a b r => Sys2Proof.Machine.execOr a b r s
  | .xor a b r => Sys2Proof.Machine.execXor a b r s
  | .shl a b r => Sys2Proof.Machine.execShl a b r s
  | .shr a b r => Sys2Proof.Machine.execShr a b r s
  | .sar a b r => Sys2Proof.Machine.execSar a b r s
  | .mul a b r => Sys2Proof.Machine.execMul a b r s
  | .mov a b => Sys2Proof.Machine.execMov a b s
  | .slt a b r => Sys2Proof.Machine.execSlt a b r s
  | .sltu a b r => Sys2Proof.Machine.execSltu a b r s
  | .seq a b r => Sys2Proof.Machine.execSeq a b r s
  | .min a b r => Sys2Proof.Machine.execMin a b r s
  | .max a b r => Sys2Proof.Machine.execMax a b r s
  | .addi a b r is => Sys2Proof.Machine.execAddi a b r is s
  | .andi a b r is => Sys2Proof.Machine.execAndi a b r is s
  | .ori a b r is => Sys2Proof.Machine.execOri a b r is s
  | .xori a b r is => Sys2Proof.Machine.execXori a b r is s
  | .shli a b r is => Sys2Proof.Machine.execShli a b r is s
  | .shri a b r is => Sys2Proof.Machine.execShri a b r is s
  | .sari a b r is => Sys2Proof.Machine.execSari a b r is s
  | .slti a b r is => Sys2Proof.Machine.execSlti a b r is s
  | .seqi a b r is => Sys2Proof.Machine.execSeqi a b r is s
  | .ldi a b is => Sys2Proof.Machine.execLdi a b is s
  | .ldix a b is => Sys2Proof.Machine.execLdix a b is s
  | .ld8 a b r is m => Sys2Proof.Machine.execLd8 a b r is m s
  | .ld16 a b r is m => Sys2Proof.Machine.execLd16 a b r is m s
  | .ld32 a b r is m => Sys2Proof.Machine.execLd32 a b r is m s
  | .ld64 a b r is m => Sys2Proof.Machine.execLd64 a b r is m s
  | .ld8s a b r is m => Sys2Proof.Machine.execLd8s a b r is m s
  | .ld16s a b r is m => Sys2Proof.Machine.execLd16s a b r is m s
  | .ld32s a b r is m => Sys2Proof.Machine.execLd32s a b r is m s
  | .st8 a b r is m => Sys2Proof.Machine.execSt8 a b r is m s
  | .st16 a b r is m => Sys2Proof.Machine.execSt16 a b r is m s
  | .st32 a b r is m => Sys2Proof.Machine.execSt32 a b r is m s
  | .st64 a b r is m => Sys2Proof.Machine.execSt64 a b r is m s
  | .ldv a b r is m => Sys2Proof.Machine.execLdv a b r is m s
  | .stv a b r is m => Sys2Proof.Machine.execStv a b r is m s
  | .beqz a b is => Sys2Proof.Machine.execBeqz a b is s
  | .bnez a b is => Sys2Proof.Machine.execBnez a b is s
  | .bltz a b is => Sys2Proof.Machine.execBltz a b is s
  | .bgez a b is => Sys2Proof.Machine.execBgez a b is s
  | .beq a b is => Sys2Proof.Machine.execBeq a b is s
  | .bne a b is => Sys2Proof.Machine.execBne a b is s
  | .blt a b is => Sys2Proof.Machine.execBlt a b is s
  | .bltu a b is => Sys2Proof.Machine.execBltu a b is s
  | .j a b is => Sys2Proof.Machine.execJ a b is s
  | .call a b is => Sys2Proof.Machine.execCall a b is s
  | .callr a b => Sys2Proof.Machine.execCallr a b s
  | .jr a b => Sys2Proof.Machine.execJr a b s
  | .ret a b => Sys2Proof.Machine.execRet a b s
  | .addpc a b is => Sys2Proof.Machine.execAddpc a b is s
  | .rds a b => Sys2Proof.Machine.execRds a b s
  | .wrs a b => Sys2Proof.Machine.execWrs a b s
  | .brk a b is => Sys2Proof.Machine.execBrk a b is s
  | .svc a b is => Sys2Proof.Machine.execSvc a b is s
  | .nop a b => Sys2Proof.Machine.execNop a b s
  | .tret a b => Sys2Proof.Machine.execTret a b s
  | .vadd a b r => Sys2Proof.Machine.execVadd a b r s
  | .vsub a b r => Sys2Proof.Machine.execVsub a b r s
  | .vmul a b r => Sys2Proof.Machine.execVmul a b r s
  | .vmulh a b r => Sys2Proof.Machine.execVmulh a b r s
  | .vmin a b r => Sys2Proof.Machine.execVmin a b r s
  | .vmax a b r => Sys2Proof.Machine.execVmax a b r s
  | .vminu a b r => Sys2Proof.Machine.execVminu a b r s
  | .vmaxu a b r => Sys2Proof.Machine.execVmaxu a b r s
  | .vand a b r => Sys2Proof.Machine.execVand a b r s
  | .vor a b r => Sys2Proof.Machine.execVor a b r s
  | .vxor a b r => Sys2Proof.Machine.execVxor a b r s
  | .vandn a b r => Sys2Proof.Machine.execVandn a b r s
  | .vshl a b r => Sys2Proof.Machine.execVshl a b r s
  | .vshr a b r => Sys2Proof.Machine.execVshr a b r s
  | .vsar a b r => Sys2Proof.Machine.execVsar a b r s
  | .vshli a b r is => Sys2Proof.Machine.execVshli a b r is s
  | .vshri a b r is => Sys2Proof.Machine.execVshri a b r is s
  | .vsari a b r is => Sys2Proof.Machine.execVsari a b r is s
  | .vfma a b r => Sys2Proof.Machine.execVfma a b r s
  | .vfms a b r => Sys2Proof.Machine.execVfms a b r s
  | .vdiv a b r => Sys2Proof.Machine.execVdiv a b r s
  | .vsqrt a b r => Sys2Proof.Machine.execVsqrt a b r s
  | .vrcp a b r => Sys2Proof.Machine.execVrcp a b r s
  | .vrsq a b r => Sys2Proof.Machine.execVrsq a b r s
  | .vexp2 a b r => Sys2Proof.Machine.execVexp2 a b r s
  | .vlog2 a b r => Sys2Proof.Machine.execVlog2 a b r s
  | .vsin a b r => Sys2Proof.Machine.execVsin a b r s
  | .vcos a b r => Sys2Proof.Machine.execVcos a b r s
  | .vabs a b r => Sys2Proof.Machine.execVabs a b r s
  | .vneg a b r => Sys2Proof.Machine.execVneg a b r s
  | .vceq a b r => Sys2Proof.Machine.execVceq a b r s
  | .vclt a b r => Sys2Proof.Machine.execVclt a b r s
  | .vcltu a b r => Sys2Proof.Machine.execVcltu a b r s
  | .vcle a b r => Sys2Proof.Machine.execVcle a b r s
  | .vsel a b r => Sys2Proof.Machine.execVsel a b r s
  | .vsplat a b r => Sys2Proof.Machine.execVsplat a b r s
  | .vext a b r => Sys2Proof.Machine.execVext a b r s
  | .vins a b r => Sys2Proof.Machine.execVins a b r s
  | .vshuf a b r => Sys2Proof.Machine.execVshuf a b r s
  | .vzip a b r => Sys2Proof.Machine.execVzip a b r s
  | .vunzip a b r => Sys2Proof.Machine.execVunzip a b r s
  | .vcvt a b r => Sys2Proof.Machine.execVcvt a b r s
  | .vred a b r => Sys2Proof.Machine.execVred a b r s
  | .vdot a b r => Sys2Proof.Machine.execVdot a b r s
  | .vpopc a b r => Sys2Proof.Machine.execVpopc a b r s
  | .vmulw a b r => Sys2Proof.Machine.execVmulw a b r s
  | .vmov a b => Sys2Proof.Machine.execVmov a b s
  | .tdef a b is => Sys2Proof.Machine.execTdef a b is s
  | .tstat a b => Sys2Proof.Machine.execTstat a b s
  | .tready a b => Sys2Proof.Machine.execTready a b s
  | .tempty a b => Sys2Proof.Machine.execTempty a b s
  | .mma a b => Sys2Proof.Machine.execMma a b s
  | .mmaq a b r => Sys2Proof.Machine.execMmaq a b r s
  | .mmag a b => Sys2Proof.Machine.execMmag a b s
  | .mmagq a b r => Sys2Proof.Machine.execMmagq a b r s
  | .mzero a b => Sys2Proof.Machine.execMzero a b s
  | .mcvt a b => Sys2Proof.Machine.execMcvt a b s
  | .jwait a b => Sys2Proof.Machine.execJwait a b s
  | .jpoll a b => Sys2Proof.Machine.execJpoll a b s
  | .whint a b => Sys2Proof.Machine.execWhint a b s
  | .amaxr a b => Sys2Proof.Machine.execAmaxr a b s
  | .amaxc a b => Sys2Proof.Machine.execAmaxc a b s
  | .copy a b is => Sys2Proof.Machine.execCopy a b is s
  | .copyh a b => Sys2Proof.Machine.execCopyh a b s
  | .hreg a b is => Sys2Proof.Machine.execHreg a b is s
  | .hfree a b => Sys2Proof.Machine.execHfree a b s
  | .hchk a b => Sys2Proof.Machine.execHchk a b s
  | .stxr a b is => Sys2Proof.Machine.execStxr a b is s
  | .stxp a b is => Sys2Proof.Machine.execStxp a b is s
  | .sgath a b is => Sys2Proof.Machine.execSgath a b is s
  | .sredi a b is m => Sys2Proof.Machine.execSredi a b is m s
  | .sred a b r is => Sys2Proof.Machine.execSred a b r is s
  | .sredv a b r is => Sys2Proof.Machine.execSredv a b r is s
  | .sredf a b is m => Sys2Proof.Machine.execSredf a b is m s
  | .scvt a b is => Sys2Proof.Machine.execScvt a b is s
  | .cancel a b => Sys2Proof.Machine.execCancel a b s
  | .spawn a b is => Sys2Proof.Machine.execSpawn a b is s
  | .send a b => Sys2Proof.Machine.execSend a b s
  | .recv a b => Sys2Proof.Machine.execRecv a b s
  | .peek a b r => Sys2Proof.Machine.execPeek a b r s
  | .quit a b => Sys2Proof.Machine.execQuit a b s
  | .task a b r is => Sys2Proof.Machine.execTask a b r is s
  | .launch a b is => Sys2Proof.Machine.execLaunch a b is s
  | .joini a b r is m => Sys2Proof.Machine.execJoini a b r is m s
  | .finit a b is m => Sys2Proof.Machine.execFinit a b is m s
  | .fwait a b is m => Sys2Proof.Machine.execFwait a b is m s
  | .fput a b is m => Sys2Proof.Machine.execFput a b is m s
  | .lock a b is m => Sys2Proof.Machine.execLock a b is m s
  | .unlock a b is m => Sys2Proof.Machine.execUnlock a b is m s
  | .qpush a b is m => Sys2Proof.Machine.execQpush a b is m s
  | .qpop a b is m => Sys2Proof.Machine.execQpop a b is m s
  | .amoadd a b r is m => Sys2Proof.Machine.execAmoadd a b r is m s
  | .amoand a b r is m => Sys2Proof.Machine.execAmoand a b r is m s
  | .amoor a b r is m => Sys2Proof.Machine.execAmoor a b r is m s
  | .amoxor a b r is m => Sys2Proof.Machine.execAmoxor a b r is m s
  | .amomin a b r is m => Sys2Proof.Machine.execAmomin a b r is m s
  | .amomax a b r is m => Sys2Proof.Machine.execAmomax a b r is m s
  | .amominu a b r is m => Sys2Proof.Machine.execAmominu a b r is m s
  | .amomaxu a b r is m => Sys2Proof.Machine.execAmomaxu a b r is m s
  | .amoswp a b r is m => Sys2Proof.Machine.execAmoswp a b r is m s
  | .cas a b r is m => Sys2Proof.Machine.execCas a b r is m s
  | .vamo a b r is m => Sys2Proof.Machine.execVamo a b r is m s
  | .empty a b is m => Sys2Proof.Machine.execEmpty a b is m s
  | .bari a b r is m => Sys2Proof.Machine.execBari a b r is m s
  | .bar a b is m => Sys2Proof.Machine.execBar a b is m s
  | .fence a b m => Sys2Proof.Machine.execFence a b m s
  | .qbind a b => Sys2Proof.Machine.execQbind a b s
  | .qres a b r is m => Sys2Proof.Machine.execQres a b r is m s
  | .rsv a b => Sys2Proof.Machine.execRsv a b s
  | .rsvw a b => Sys2Proof.Machine.execRsvw a b s
  | .rsvq a b => Sys2Proof.Machine.execRsvq a b s
  | .rwait a b => Sys2Proof.Machine.execRwait a b s
  | .leap a b => Sys2Proof.Machine.execLeap a b s
  | .lend a b => Sys2Proof.Machine.execLend a b s
  | .rqry a b => Sys2Proof.Machine.execRqry a b s
  | .mtrq a b => Sys2Proof.Machine.execMtrq a b s
  | .mtrs a b => Sys2Proof.Machine.execMtrs a b s
  | .rdp a b => Sys2Proof.Machine.execRdp a b s
  | .wrp a b => Sys2Proof.Machine.execWrp a b s
  | .stret a b => Sys2Proof.Machine.execStret a b s
  | .tlbi a b => Sys2Proof.Machine.execTlbi a b s
  | .ctxs a b is => Sys2Proof.Machine.execCtxs a b is s
  | .ctxl a b is => Sys2Proof.Machine.execCtxl a b is s
  | .preempt a b => Sys2Proof.Machine.execPreempt a b s
  | .kill a b => Sys2Proof.Machine.execKill a b s
  | .migr a b => Sys2Proof.Machine.execMigr a b s
  | .secm a b is => Sys2Proof.Machine.execSecm a b is s
  | .halt a b => Sys2Proof.Machine.execHalt a b s
  | .icinv a b => Sys2Proof.Machine.execIcinv a b s
  | .mulh a b r => Sys2Proof.Machine.execMulh a b r s
  | .mulhu a b r => Sys2Proof.Machine.execMulhu a b r s
  | .div a b r => Sys2Proof.Machine.execDiv a b r s
  | .divu a b r => Sys2Proof.Machine.execDivu a b r s
  | .rem a b r => Sys2Proof.Machine.execRem a b r s
  | .remu a b r => Sys2Proof.Machine.execRemu a b r s
  | .minu a b r => Sys2Proof.Machine.execMinu a b r s
  | .maxu a b r => Sys2Proof.Machine.execMaxu a b r s
  | .neg a b => Sys2Proof.Machine.execNeg a b s
  | .not a b => Sys2Proof.Machine.execNot a b s
  | .clz a b => Sys2Proof.Machine.execClz a b s
  | .ctz a b => Sys2Proof.Machine.execCtz a b s
  | .popc a b => Sys2Proof.Machine.execPopc a b s
  | .brev a b => Sys2Proof.Machine.execBrev a b s
  | .bswap a b => Sys2Proof.Machine.execBswap a b s
  | .sextb a b => Sys2Proof.Machine.execSextb a b s
  | .sexth a b => Sys2Proof.Machine.execSexth a b s
  | .sextw a b => Sys2Proof.Machine.execSextw a b s
  | .rol a b r => Sys2Proof.Machine.execRol a b r s
  | .ror a b r => Sys2Proof.Machine.execRor a b r s
  | .bext a b r => Sys2Proof.Machine.execBext a b r s
  | .bins a b r => Sys2Proof.Machine.execBins a b r s
  | .fadd a b r => Sys2Proof.Machine.execFadd a b r s
  | .fsub a b r => Sys2Proof.Machine.execFsub a b r s
  | .fmul a b r => Sys2Proof.Machine.execFmul a b r s
  | .fdiv a b r => Sys2Proof.Machine.execFdiv a b r s
  | .fsqrt a b r => Sys2Proof.Machine.execFsqrt a b r s
  | .fma a b r => Sys2Proof.Machine.execFma a b r s
  | .fmin a b r => Sys2Proof.Machine.execFmin a b r s
  | .fmax a b r => Sys2Proof.Machine.execFmax a b r s
  | .feq a b r => Sys2Proof.Machine.execFeq a b r s
  | .flt a b r => Sys2Proof.Machine.execFlt a b r s
  | .fle a b r => Sys2Proof.Machine.execFle a b r s
  | .fcvti a b r => Sys2Proof.Machine.execFcvti a b r s
  | .fcvtf a b r => Sys2Proof.Machine.execFcvtf a b r s
  | .fcvt a b r => Sys2Proof.Machine.execFcvt a b r s
  | .fclass a b r => Sys2Proof.Machine.execFclass a b r s
  | .rcp a b r => Sys2Proof.Machine.execRcp a b r s
  | .rsq a b r => Sys2Proof.Machine.execRsq a b r s
  | .fabs a b r => Sys2Proof.Machine.execFabs a b r s
  | .fneg a b r => Sys2Proof.Machine.execFneg a b r s
  | .qd core => Sys2Proof.Machine.execQd core s
  | .bd cluster index => Sys2Proof.Machine.execBd cluster index s
  | .nd src dst => Sys2Proof.Machine.execNd src dst s
  | .cf cluster line => Sys2Proof.Machine.execCf cluster line s
  | .ce cluster line => Sys2Proof.Machine.execCe cluster line s
  | .ew unit n => Sys2Proof.Machine.execEw unit n s
  | .er unit n => Sys2Proof.Machine.execEr unit n s
  | .pt tid => Sys2Proof.Machine.execPt tid s
  | .ms n => Sys2Proof.Machine.execMs n s
  | .windowSpill tid => Sys2Proof.Machine.execWindowSpill tid s
  | .windowFill tid => Sys2Proof.Machine.execWindowFill tid s
  | .userTrapDelivery tid => Sys2Proof.Machine.execUserTrapDelivery tid s
  | .supervisorTrapDelivery tid => Sys2Proof.Machine.execSupervisorTrapDelivery tid s
  | .startMessageAccept tid => Sys2Proof.Machine.execStartMessageAccept tid s
  | .slotStart core => Sys2Proof.Machine.execSlotStart core s
  | .launchAccept tid => Sys2Proof.Machine.execLaunchAccept tid s
  | .schedulerPlace die => Sys2Proof.Machine.execSchedulerPlace die s
  | .joinDecrement n => Sys2Proof.Machine.execJoinDecrement n s
  | .matrixJobRun cluster octet => Sys2Proof.Machine.execMatrixJobRun cluster octet s
  | .chainWriteback cluster octet => Sys2Proof.Machine.execChainWriteback cluster octet s
  | .mzeroJob cluster octet => Sys2Proof.Machine.execMzeroJob cluster octet s
  | .mcvtJob cluster octet => Sys2Proof.Machine.execMcvtJob cluster octet s
  | .runAhead cluster octet => Sys2Proof.Machine.execRunAhead cluster octet s
  | .engineIdleGate cluster octet => Sys2Proof.Machine.execEngineIdleGate cluster octet s
  | .engineSwitchOn cluster octet => Sys2Proof.Machine.execEngineSwitchOn cluster octet s
  | .copyChunk cluster octet => Sys2Proof.Machine.execCopyChunk cluster octet s
  | .copyJobEnd cluster octet => Sys2Proof.Machine.execCopyJobEnd cluster octet s
  | .stackJobChunk die => Sys2Proof.Machine.execStackJobChunk die s
  | .stackJobEnd die => Sys2Proof.Machine.execStackJobEnd die s
  | .tableWalk tid va => Sys2Proof.Machine.execTableWalk tid va s
  | .tlbiAck n cluster => Sys2Proof.Machine.execTlbiAck n cluster s
  | .preemptHalt tid => Sys2Proof.Machine.execPreemptHalt tid s
  | .killComplete context => Sys2Proof.Machine.execKillComplete context s
  | .migrationPack tid => Sys2Proof.Machine.execMigrationPack tid s
  | .tadpoleShip tid => Sys2Proof.Machine.execTadpoleShip tid s
  | .tadpolePlace die => Sys2Proof.Machine.execTadpolePlace die s
  | .leapcut tid => Sys2Proof.Machine.execLeapcut tid s
  | .leaptrip tid => Sys2Proof.Machine.execLeaptrip tid s
  | .pcapWrite die pond value => Sys2Proof.Machine.execPcapWrite die pond value s
  | .pdrainWrite die pond value => Sys2Proof.Machine.execPdrainWrite die pond value s
  | .rtripWrite die value => Sys2Proof.Machine.execRtripWrite die value s
  | .rsenseWrite die value => Sys2Proof.Machine.execRsenseWrite die value s
  | .cpqreqWrite cluster value => Sys2Proof.Machine.execCpqreqWrite cluster value s
  | .clusterQuiet cluster => Sys2Proof.Machine.execClusterQuiet cluster s
  | .save cluster => Sys2Proof.Machine.execSave cluster s
  | .restore cluster => Sys2Proof.Machine.execRestore cluster s
  | .saveComplete cluster => Sys2Proof.Machine.execSaveComplete cluster s
  | .restoreComplete cluster => Sys2Proof.Machine.execRestoreComplete cluster s
  | .cpcgateWrite cluster value => Sys2Proof.Machine.execCpcgateWrite cluster value s
  | .cprailWrite cluster value => Sys2Proof.Machine.execCprailWrite cluster value s
  | .railStep cluster => Sys2Proof.Machine.execRailStep cluster s
  | .stepWaitExpiry cluster => Sys2Proof.Machine.execStepWaitExpiry cluster s
  | .cpcoreWrite cluster value => Sys2Proof.Machine.execCpcoreWrite cluster value s
  | .cpdivWrite cluster row value => Sys2Proof.Machine.execCpdivWrite cluster row value s
  | .wakereq die cluster value => Sys2Proof.Machine.execWakereq die cluster value s
  | .vexclWindow cluster => Sys2Proof.Machine.execVexclWindow cluster s
  | .phaseFailure cluster row => Sys2Proof.Machine.execPhaseFailure cluster row s
  | .darkRowExpiry cluster row => Sys2Proof.Machine.execDarkRowExpiry cluster row s
  | .pwrinUpdate value => Sys2Proof.Machine.execPwrinUpdate value s
  | .linkctlWrite die link value => Sys2Proof.Machine.execLinkctlWrite die link value s
  | .linkWidthChange die link => Sys2Proof.Machine.execLinkWidthChange die link s
  | .linkRateChange die link => Sys2Proof.Machine.execLinkRateChange die link s
  | .laneFailure die link => Sys2Proof.Machine.execLaneFailure die link s
  | .meterApply n => Sys2Proof.Machine.execMeterApply n s
  | .powerLoss => Sys2Proof.Machine.execPowerLoss s
  | .register => Sys2Proof.Machine.execRegister s
  | .close => Sys2Proof.Machine.execClose s
  | .attach => Sys2Proof.Machine.execAttach s
  | .measure => Sys2Proof.Machine.execMeasure s
  | .unregister => Sys2Proof.Machine.execUnregister s
  | .getlog => Sys2Proof.Machine.execGetlog s
  | .getckpt => Sys2Proof.Machine.execGetckpt s
  | .getkey => Sys2Proof.Machine.execGetkey s
  | .signedRecordRequest => Sys2Proof.Machine.execSignedRecordRequest s
  | .unseal tid => Sys2Proof.Machine.execUnseal tid s
  | .bar2Read fn offset count => Sys2Proof.Machine.execBar2Read fn offset count s
  | .bar2Write fn offset bytes => Sys2Proof.Machine.execBar2Write fn offset bytes s
  | .qtailWrite fn queue value => Sys2Proof.Machine.execQtailWrite fn queue value s
  | .qctlWrite fn queue value sup => Sys2Proof.Machine.execQctlWrite fn queue value sup s
  | .hostQueueTake fn queue => Sys2Proof.Machine.execHostQueueTake fn queue s
  | .hostCompletion fn queue => Sys2Proof.Machine.execHostCompletion fn queue s
  | .bootcmdWrite fn value => Sys2Proof.Machine.execBootcmdWrite fn value s
  | .moduleReset => Sys2Proof.Machine.execModuleReset s
  | .ramovBoot => Sys2Proof.Machine.execRamovBoot s
  | .firmwareVerify => Sys2Proof.Machine.execFirmwareVerify s
  | .controlCoreRelease => Sys2Proof.Machine.execControlCoreRelease s
  | .linkTraining => Sys2Proof.Machine.execLinkTraining s
  | .pcieEnumerate => Sys2Proof.Machine.execPcieEnumerate s
  | .remoteWriteFrame frame => Sys2Proof.Machine.execRemoteWriteFrame frame s
  | .remoteMessageFrame frame => Sys2Proof.Machine.execRemoteMessageFrame frame s
  | .acknowledgementFrame pkg cls upTo => Sys2Proof.Machine.execAcknowledgementFrame pkg cls upTo s
  | .retransmit pkg cls => Sys2Proof.Machine.execRetransmit pkg cls s
  | .registerWrite pa value => Sys2Proof.Machine.execRegisterWrite pa value s
  | .softError pa correctable => Sys2Proof.Machine.execSoftError pa correctable s
  | .shuntUseChange cluster sensor value => Sys2Proof.Machine.execShuntUseChange cluster sensor value s
  | .icinvComplete n => Sys2Proof.Machine.execIcinvComplete n s
  | .badcodeRequest => Sys2Proof.Machine.execBadcodeRequest s

end Sys2Proof.Machine
end

