-- ==== Sys2Proof/WellFormed.lean ====
section
/-!
DEFINITION. Sys2Proof/WellFormed.lean: which instructions a legal group stands for (R39): at most four prefixes, every
field rule kept. A check that reads VTYPE is not made here, since VTYPE belongs to the thread (R40).
-/
namespace Sys2Proof

/-- The prefixes a group carries: PFX.P on pages 1 to 7, PFX.R, PFX.M, and its PFX.I words (R39). -/
def Group.prefixes (g : Group) : Nat :=
  (if g.page = 0 then 0 else 1) + g.r.toList.length + g.m.toList.length + g.is.length

/-- A group is legal: at most four prefixes, a defined scope code (Table 2.5), no field rule broken. -/
def Group.legal (g : Group) : Bool :=
  decide (g.prefixes ≤ 4) && (g.m.all fun m => decide (m.scope.toNat ≤ 4)) && (g.broken none).isEmpty

/-- An instruction is well formed when it is a step without an encoding, or its group is legal. ILL, the one group with an
encoding and no cell, is well formed whatever its fields (R42). -/
def Instr.wf (i : Instr) : Bool :=
  match i.group with
  | some g => g.legal
  | none => true

end Sys2Proof
end

