-- ==== Sys2Proof/Decode.lean ====
section
/-!
DEFINITION. Sys2Proof/Decode.lean: the decode procedure of R40, from 16-bit instruction words to an instruction or a
refusal by name, and the encoder written from the same tables (Tables 2.1, 2.2, 2.5).
-/
namespace Sys2Proof

/-- Why a group is refused (R40), each a cause 1 at the word of its position. -/
inductive Refused where
  | fifthPfx       -- a fifth prefix word
  | splitImm       -- PFX.I words that are not consecutive
  | repeated       -- a second PFX.P, PFX.R or PFX.M
  | page           -- a page above 7
  | modifier       -- PFX.M with bits 1-0 not 00, or a reserved scope
  | cell           -- a reserved cell
  | notAccepted    -- a kind of prefix the instruction does not accept
  | field          -- a field that breaks a rule
  | short          -- the words end before a base word
  deriving DecidableEq, Repr

/-- A refusal: the word the failing check names, and its position in the group (R41). -/
structure DecodeError where
  word : IWord
  pos  : Nat
  why  : Refused
  deriving DecidableEq, Repr

/-- What decoding answers: an instruction with the number of words in its group, or a refusal. -/
inductive Decoded where
  | ok (i : Instr) (len : Nat)
  | bad (e : DecodeError)
  deriving DecidableEq, Repr

/-- The four kinds of prefix word (Table 2.1). -/
inductive PfxKind where
  | imm | reg | page | mod
  deriving DecidableEq, Repr

/-- Bits 15-12 of a prefix word are 1111 (R31). -/
def isPfx (w : IWord) : Bool := w.toNat / 4096 == 15

/-- The kind of a prefix word, bits 11-10 (Table 2.1). -/
def pfxKind (w : IWord) : PfxKind :=
  match w.toNat / 1024 % 4 with
  | 0 => .imm
  | 1 => .reg
  | 2 => .page
  | _ => .mod

/-- D and E of a PFX.R word (R36). -/
def wordR (w : IWord) : RPfx := ⟨w.extractLsb' 5 5, w.extractLsb' 0 5⟩

/-- The fields of a PFX.M word (Table 2.5). -/
def wordM (w : IWord) : MPfx := ⟨w.extractLsb' 8 2, w.extractLsb' 5 3, w.extractLsb' 4 1, w.extractLsb' 2 2⟩

/-- Bits 9-0 of a PFX.I word. -/
def wordI (w : IWord) : BitVec 10 := w.extractLsb' 0 10

/-- What the loop of R40 has gathered from the prefix words read so far, in order. -/
structure Gathered where
  words : List IWord
  page  : Option Nat
  r     : Option RPfx
  m     : Option MPfx
  is    : IPfx
  lastI : Bool
  deriving DecidableEq, Repr

/-- Nothing read. -/
def Gathered.start : Gathered := ⟨[], none, none, none, [], false⟩

/-- One pass of the loop of R40 on the next fetched word: more to come, a base word, or a refusal. -/
inductive Fed where
  | more (g : Gathered)
  | base (g : Gathered) (w : IWord)
  | bad (e : DecodeError)
  deriving DecidableEq, Repr

/-- The checks that R40 makes on a prefix word as it is read. -/
def Gathered.feed (g : Gathered) (w : IWord) : Fed :=
  let n := g.words.length
  if isPfx w = false then .base g w
  else if n = 4 then .bad ⟨w, n, .fifthPfx⟩
  else
    match pfxKind w with
    | .imm =>
      if g.is ≠ [] ∧ g.lastI = false then .bad ⟨w, n, .splitImm⟩
      else .more { g with words := g.words ++ [w], is := g.is ++ [wordI w], lastI := true }
    | .reg =>
      if g.r.isSome then .bad ⟨w, n, .repeated⟩
      else .more { g with words := g.words ++ [w], r := some (wordR w), lastI := false }
    | .page =>
      if g.page.isSome then .bad ⟨w, n, .repeated⟩
      else if 7 < w.toNat % 1024 then .bad ⟨w, n, .page⟩
      else .more { g with words := g.words ++ [w], page := some (w.toNat % 1024), lastI := false }
    | .mod =>
      if g.m.isSome then .bad ⟨w, n, .repeated⟩
      else if w.toNat % 4 ≠ 0 ∨ 4 < w.toNat / 32 % 8 then .bad ⟨w, n, .modifier⟩
      else .more { g with words := g.words ++ [w], m := some (wordM w), lastI := false }

/-- The group that the gathered prefixes and a base word make (Table 2.2). -/
def Gathered.group (g : Gathered) (w : IWord) : Group :=
  ⟨g.page.getD 0, w.toNat / 1024, w.extractLsb' 5 5, w.extractLsb' 0 5, g.r, g.is, g.m⟩

/-- Whether a form accepts a prefix kind; PFX.P is accepted everywhere (R37, R39). -/
def Form.accepts (f : Form) : PfxKind → Bool
  | .imm => f.accI
  | .reg => f.accR
  | .page => true
  | .mod => f.accM

/-- The position of the first word of a kind among the prefixes, else the base word's. -/
def Gathered.posOf (g : Gathered) (k : PfxKind) : Nat :=
  (g.words.findIdx? fun w => pfxKind w == k).getD g.words.length

/-- The position of the word that holds a field (R40). -/
def Gathered.holderPos (g : Gathered) : Holder → Nat
  | .rWord => g.posOf .reg
  | .mWord => g.posOf .mod
  | .base => g.words.length

/-- The least position among the holders of broken rules. -/
def Gathered.firstBroken (g : Gathered) (hs : List Holder) : Option Nat :=
  (hs.map g.holderPos).min?

/-- The checks of R40 once the base word is read, `vt` being VTYPE.TYPE where it is known. Op 0 of page 0 is ILL, whatever its
fields and prefixes (R42): its meaning is the trap. -/
def Gathered.finish (vt : Option Reg) (g : Gathered) (w : IWord) : Decoded :=
  let gr := g.group w
  let n := g.words.length
  match cell gr.page gr.op with
  | none => if gr.page = 0 ∧ gr.op = 0 then .ok (.ill gr.a gr.b) (n + 1) else .bad ⟨w, n, .cell⟩
  | some f =>
    match g.words.findIdx? fun x => !f.accepts (pfxKind x) with
    | some j => .bad ⟨(g.words[j]?).getD w, j, .notAccepted⟩
    | none =>
      match g.firstBroken (f.broken vt gr) with
      | some j => .bad ⟨(g.words[j]?).getD w, j, .field⟩
      | none => .ok (f.build gr) (n + 1)

/-- The decode loop over a list of words; answers the instruction and how many words its group has. -/
def decodeLoop (vt : Option Reg) : Gathered → List IWord → Decoded
  | g, [] => .bad ⟨0, g.words.length, .short⟩
  | g, w :: ws =>
    match g.feed w with
    | .bad e => .bad e
    | .base g w => g.finish vt w
    | .more g => decodeLoop vt g ws

/-- Decode a group that starts with the first of the words (R40), VTYPE not being consulted. -/
def decode (ws : List IWord) : Decoded := decodeLoop none .start ws

/-- The 16-bit words of a list of bytes, little-endian (R2, R30); an odd last byte is dropped. -/
def wordsOfBytes : List Byte → List IWord
  | lo :: hi :: rest => (hi ++ lo) :: wordsOfBytes rest
  | _ => []

/-- Decode from bytes in ascending address order: the instruction and the words of its group. -/
def decodeBytes (bs : List Byte) : Decoded := decode (wordsOfBytes bs)

/-! ### The encoder -/

/-- A PFX.R word. -/
def encR (r : RPfx) : IWord := 0b111101#6 ++ r.d ++ r.e

/-- A PFX.M word. -/
def encM (m : MPfx) : IWord := 0b111111#6 ++ m.order ++ m.scope ++ m.nt ++ m.fe ++ 0#2

/-- A PFX.I word. -/
def encI (x : BitVec 10) : IWord := 0b111100#6 ++ x

/-- A PFX.P word. -/
def encP (p : Nat) : IWord := 0b111110#6 ++ BitVec.ofNat 10 p

/-- A base word. -/
def encBase (op : Nat) (a b : Reg) : IWord := BitVec.ofNat 6 op ++ a ++ b

/-- The words of a group, its prefixes in the order of R53: PFX.M, PFX.P, PFX.R, PFX.I. -/
def Group.words (g : Group) : List IWord :=
  g.m.toList.map encM ++ (if g.page = 0 then [] else [encP g.page]) ++ g.r.toList.map encR ++ g.is.map encI
    ++ [encBase g.op g.a g.b]

/-- The words of an instruction; a step without an encoding has none. -/
def encode (i : Instr) : List IWord :=
  match i.group with
  | some g => g.words
  | none => []

/-- The words of an opcode-table row's number. The table prints a row of two words with the prefix word, which the
core fetches first (R9), in the upper half; the numbering the host asks with may also count the first word lowest. -/
def tableWords (nbits w : Nat) : List IWord :=
  let lo : IWord := BitVec.ofNat 16 w
  let hi : IWord := BitVec.ofNat 16 (w / 65536)
  if nbits ≤ 16 then [lo]
  else if isPfx lo then [lo, hi]
  else if isPfx hi then [hi, lo]
  else [lo, hi]

/-- The instruction that the decoder reads from a word of the opcode table; the bits above `nbits` are 0. -/
def decodeTableWord (nbits w : Nat) : Option Instr :=
  match decode (tableWords nbits w ++ [0, 0, 0, 0]) with
  | .ok i _ => some i
  | .bad _ => none

end Sys2Proof
end

