-- ==== Sys2Proof/Machine/Fetch.lean ====
section
/-!
DEFINITION. Sys2Proof/Machine/Fetch.lean: fetching and decoding a group for a slot (R32, R34, R40, R79, R209), the
groups a control core accepts (R370), and the pops and pushes that a group makes on the hardware queues (R176).
-/
namespace Sys2Proof.Machine

/-- What a fetch of one word gives: the word and the machine after it, or a trap. -/
inductive FetchOne where
  | word (w : IWord) (s : State)
  | trap (cause : Nat) (addr : Word)

/-- A word fetched through an address, as a core's fetch buffer or its cluster's instruction cache keeps it (R209): ICINV drops it by
that address (R337). -/
def State.fetchKept (s : State) (tid pa va : Nat) : Option IWord :=
  let hit (f : FetchWord) : Bool := f.pa == pa && f.va == va
  match (s.core (coreOf tid)).fetch.find? hit with
  | some f => some f.word
  | none =>
    if isCtl tid then none
    else ((s.cluster (clusterOf tid)).icache.find? hit).map (·.word)

/-- The words of a fetch buffer, 16 KiB, and of an instruction cache, 256 KiB (R209, Table 1.3). -/
def bufferWords : Nat := 8192

/-- The words of an instruction cache. -/
def icacheWords : Nat := 131072

/-- Keep a fetched word in the core's fetch buffer and the cluster's instruction cache; a full one drops the word that it has held
longest (log 67). -/
def State.keepFetched (s : State) (tid pa va : Nat) (w : IWord) : State :=
  let add (n : Nat) (l : List FetchWord) : List FetchWord :=
    if l.any fun f => f.pa == pa && f.va == va then l else (⟨pa, va, w⟩ :: l).take n
  let s := s.updCore (coreOf tid) fun c => { c with fetch := add bufferWords c.fetch }
  if isCtl tid then s else s.updCluster (clusterOf tid) fun c => { c with icache := add icacheWords c.icache }

/-- Fetch one instruction word (R30, R34). A kept word that differs from the one at home is either, freely (R79). -/
def State.fetchWord (s : State) (tid : Nat) (va : Word) : FetchOne :=
  let t := s.thread tid
  match s.check tid t.ctx t.tsr.priv va 2 .fetch with
  | .trap c a => .trap c a
  | .ok tg =>
    let home : IWord := BitVec.ofNat 16 (s.readNat tg.pa 2)
    match s.fetchKept tid tg.pa va.toNat with
    | none =>
      if s.anyBad tg.pa 2 then .trap 14 va
      else .word home (if tg.isLocal then s else s.keepFetched tid tg.pa va.toNat home)
    | some kept =>
      if kept = home then .word home s
      else .word (if Config.freeBit s.fresh then kept else home) { s with fresh := s.fresh + 1 }

/-- What fetching a group gives: the instruction, its words and the machine after the fetches; a refused group; or a
fetch trap. -/
inductive Fetched where
  | ok (i : Instr) (words : List IWord) (s : State)
  | bad (e : DecodeError)
  | trap (cause : Nat) (addr : Word)

/-- The loop of R40 over fetched words, at most five. -/
def State.fetchFrom (s : State) (tid : Nat) (g : Gathered) : Nat → Fetched
  | 0 => .trap 5 (s.thread tid).pc
  | n + 1 =>
    match s.fetchWord tid ((s.thread tid).pc + BitVec.ofNat 64 (2 * g.words.length)) with
    | .trap c a => .trap c a
    | .word w s =>
      match g.feed w with
      | .bad e => .bad e
      | .more g => s.fetchFrom tid g n
      | .base g w =>
        match g.finish (some (s.thread tid).vt) w with
        | .ok i _ => .ok i (g.words ++ [w]) s
        | .bad e => .bad e

/-- Fetch and decode the group at a slot's pc. -/
def State.fetchGroup (s : State) (tid : Nat) : Fetched := s.fetchFrom tid .start 5

/-- The groups that a control core accepts (R370). -/
def ctlAccepts (page op : Nat) : Bool :=
  page == 0 || page == 7 || (page == 4 && ((16 ≤ op && op ≤ 25) || op == 30)) ||
    (page == 6 && ((1 ≤ op && op ≤ 4) || op == 11 || op == 12))

end Sys2Proof.Machine
end

