-- ==== Sys2Proof/Machine/Roles.lean ====
section
/-!
DEFINITION. Sys2Proof/Machine/Roles.lean: which scalar registers a group reads and writes through its fields, as the form of each
instruction gives them; what pops and pushes hardware queues (R176).
-/
namespace Sys2Proof.Machine

/-- Scalar registers that a group names as sources and as destinations; one named by no field is register 0. -/
structure Roles where
  reads  : List Reg
  writes : List Reg
  deriving DecidableEq, Repr

/-- Page 0. -/
def roles0 (g : Group) : Roles :=
  let d := destOf g.a g.r
  if g.op = 10 then ⟨[g.b], [g.a]⟩
  else if 1 ≤ g.op ∧ g.op ≤ 15 then ⟨[g.a, g.b], [d]⟩
  else if 16 ≤ g.op ∧ g.op ≤ 24 then ⟨[g.a], [d]⟩
  else if g.op = 25 ∨ g.op = 53 ∨ g.op = 54 then ⟨[], [g.a]⟩
  else if g.op = 26 then ⟨[g.a], [g.a]⟩
  else if 27 ≤ g.op ∧ g.op ≤ 33 then ⟨[g.b, eOf g.r], [g.a]⟩
  else if 34 ≤ g.op ∧ g.op ≤ 37 then ⟨[g.a, g.b, eOf g.r], []⟩
  else if g.op = 38 ∨ g.op = 39 then ⟨[g.b, eOf g.r], []⟩
  else if (40 ≤ g.op ∧ g.op ≤ 43) ∨ g.op = 55 then ⟨[g.a], []⟩
  else if 44 ≤ g.op ∧ g.op ≤ 47 then ⟨[g.a, g.b], []⟩
  else if g.op = 50 ∨ g.op = 51 then ⟨[g.b], []⟩
  else ⟨[], []⟩

/-- Page 1: scalars meet vectors in VSPLAT, VEXT, VINS and VRED. -/
def roles1 (g : Group) : Roles :=
  if g.op = 36 ∨ g.op = 38 then ⟨[g.b], []⟩
  else if g.op = 37 ∨ g.op = 43 then ⟨[], [g.a]⟩
  else ⟨[], []⟩

/-- Page 2. -/
def roles2 (g : Group) : Roles :=
  match g.op with
  | 1 | 15 => ⟨[g.a, g.b], []⟩
  | 2 | 11 | 12 | 14 => ⟨[g.b], [g.a]⟩
  | 6 | 8 => ⟨[g.a], [dOf g.r]⟩
  | 3 | 4 | 5 | 7 | 9 | 10 => ⟨[g.a], []⟩
  | _ => ⟨[], []⟩

/-- Page 3. -/
def roles3 (g : Group) : Roles :=
  match g.op with
  | 9 | 10 => ⟨[g.a, g.b], []⟩
  | 11 => ⟨[g.b], []⟩
  | _ => ⟨[g.b], [g.a]⟩

/-- Page 4. -/
def roles4 (g : Group) : Roles :=
  let d := destOf g.a g.r
  match g.op with
  | 1 | 2 | 5 | 31 => ⟨[g.a], []⟩
  | 4 => ⟨[], g.a :: (g.r.map RPfx.d).toList⟩
  | 6 | 32 => ⟨[g.b, eOf g.r], [g.a]⟩
  | 7 | 10 | 12 | 15 | 29 => ⟨[g.b], [g.a]⟩
  | 8 | 28 => ⟨[g.a, g.b, eOf g.r], []⟩
  | 9 | 11 | 13 | 14 | 27 => ⟨[g.a, g.b], []⟩
  | 25 => ⟨[g.a, g.b, eOf g.r], [g.a]⟩
  | 26 => ⟨[g.b], []⟩
  | 3 | 30 => ⟨[], []⟩
  | _ => ⟨[g.a, g.b], [d]⟩

/-- Page 5. -/
def roles5 (g : Group) : Roles :=
  if 5 ≤ g.op ∧ g.op ≤ 7 then ⟨[], [g.a]⟩ else ⟨[g.b], [g.a]⟩

/-- Page 6. -/
def roles6 (g : Group) : Roles :=
  match g.op with
  | 1 => ⟨[], [g.a]⟩
  | 2 => ⟨[g.a], []⟩
  | 4 | 12 => ⟨[g.a, g.b], []⟩
  | 5 | 6 | 9 => ⟨[g.a, g.b], [g.a]⟩
  | 7 | 8 => ⟨[g.a], [g.a]⟩
  | 10 => ⟨[g.b], [g.a]⟩
  | _ => ⟨[], []⟩

/-- Page 7. -/
def roles7 (g : Group) : Roles :=
  let d := destOf g.a g.r
  if g.op = 22 ∨ g.op = 28 then ⟨[dOf g.r, g.a, g.b], [dOf g.r]⟩
  else if (9 ≤ g.op ∧ g.op ≤ 18) ∨ g.op = 27 ∨ 34 ≤ g.op then ⟨[g.b], [g.a]⟩
  else ⟨[g.a, g.b], [d]⟩

/-- The roles of a group's fields. -/
def rolesOf (g : Group) : Roles :=
  match g.page with
  | 0 => roles0 g
  | 1 => roles1 g
  | 2 => roles2 g
  | 3 => roles3 g
  | 4 => roles4 g
  | 5 => roles5 g
  | 6 => roles6 g
  | _ => roles7 g

/-- A group of the vector or special-function classes, by which the core die asks for power (R380). -/
def vectorClass (g : Group) : Bool :=
  g.page == 1 || (g.page == 7 && (g.op == 26 || g.op == 27 || g.op == 38 || g.op == 39))

end Sys2Proof.Machine
end

