-- ==== Sys2Proof/Machine/Issue.lean ====
section
/-!
DEFINITION. Sys2Proof/Machine/Issue.lean: what one turn of the schedule does before an instruction's meaning: which slots may
issue (R149, R152), the boundary between two groups (R318), fetching, and the checks made at issue (R40, R176, R274, R370).
-/
namespace Sys2Proof.Machine

/-! ### Slots that may issue -/

/-- A number that names a slot: a TID (R20), or a control core's slot (R370). -/
def realSlot (tid : Nat) : Bool := goodTid tid || (isCtl tid && decide (tid < ctlBase + 8))

/-- A park whose group may be tried again at any turn: the wait ends when the group, re-executed, finds what it needs. -/
def Park.retries : Park → Bool
  | .backPressure => true
  | .release _ => true
  | .tile _ _ => true
  | .jobsEnd _ => true
  | .ctxLoad => true
  | _ => false

/-- A slot that may issue a group: it runs, it is not parked or its group may be tried again, its core has power and has not issued in
this cycle (R149). -/
def State.eligible (s : State) (tid : Nat) : Bool :=
  let t := s.thread tid
  realSlot tid && t.state == .running && (t.park.all fun p => p.why.retries) && s.powered tid &&
    (s.core (coreOf tid)).lastIssue != some s.now

/-- The moment from which a slot has been waiting to issue (R149). -/
def Thread.since (t : Thread) : Nat := max t.issuedAt t.wokenAt

/-- The slot that has been eligible longest; ties go to the lower number (R149). -/
def State.longest (s : State) : Option Nat :=
  leastBy (fun tid => (s.thread tid).since) ((s.threads.map (·.1)).filter s.eligible)

/-! ### The boundary before a group (R318) -/

/-- What a slot takes at its boundary before it issues: a pre-emption, an explicit move, or a pending cause 10 or 11. -/
def State.boundary (s : State) (tid : Nat) : Option State :=
  let t := s.thread tid
  if t.preempts ≠ [] then some (s.halt tid)
  else if t.migr.isSome then some (s.packTurn tid)
  else if t.pendTrap.isSome then
    let s := s.boundaryTrap tid
    if (s.thread tid).pendTrap.isNone then some s else none
  else none

/-! ### Hardware queues (R176) -/

/-- The waiters of a core before a slot's own wait, or all of them: those whose turn is still to come. -/
def State.ahead (s : State) (core tid : Nat) : List HwWait :=
  ((s.core core).hwWait.takeWhile (·.tid != tid)).filter s.honoured

/-- A group's pop has a word that no older waiter is to have (R176). -/
def State.popReady (s : State) (tid : Nat) : Bool :=
  let q := (s.thread tid).g6q
  let older := (s.ahead (coreOf tid) tid).filter fun w => w.q == q && w.places == 0
  decide (older.length < (s.hwq (coreOf tid) q).poppable)

/-- A group's pushes have places that no older waiter is to have. -/
def State.pushReady (s : State) (tid n : Nat) : Bool :=
  let q := (s.thread tid).g7q
  let older := (s.ahead (coreOf tid) tid).filter (·.q == q)
  decide ((s.hwq (coreOf tid) q).words.length + (older.map (·.places)).sum + n ≤ 16)

/-- Pop a word for the present group. -/
def State.popHw (s : State) (tid : Nat) : State :=
  let q := (s.thread tid).g6q
  let core := coreOf tid
  let v := (s.hwq core q).words.head?.bind HwWord.value
  ((s.updHwq core q fun x => { x with words := x.words.drop 1 }).upd tid fun t => { t with g6 := v }).relieveHw core q

/-- Take places for the pushes of the present group. -/
def State.takePlaces (s : State) (tid n : Nat) : State :=
  s.updHwq (coreOf tid) (s.thread tid).g7q fun x => { x with words := x.words ++ List.replicate n (⟨tid, none⟩ : HwWord) }

/-- Park on a queue for a pop, or for the places of pushes, behind those that already wait; a slot that waits there keeps its turn. -/
def State.parkHw (s : State) (tid q places : Nat) : State :=
  let w : HwWait := ⟨tid, q, places⟩
  let s := if (s.core (coreOf tid)).hwWait.contains w then s
    else (s.leaveHw tid).updCore (coreOf tid) fun c => { c with hwWait := c.hwWait ++ [w] }
  s.parkAgain (.hwQueue q places)

/-- The pop and the pushes of a group are made before any part of it, or the group parks. -/
def State.claimHw (s : State) (tid : Nat) (g : Group) : State × Bool :=
  let t := s.thread tid
  let pops := t.g6en && (rolesOf g).reads.contains 6 && t.g6.isNone
  let pushes := if t.g7en then ((rolesOf g).writes.filter (· == 7)).length else 0
  if pops && !s.popReady tid then (s.parkHw tid t.g6q 0, false)
  else if decide (0 < pushes) && !s.pushReady tid pushes then (s.parkHw tid t.g7q pushes, false)
  else
    let s := if pops then s.popHw tid else s
    ((if pushes = 0 then s else s.takePlaces tid pushes).leaveHw tid, true)

/-! ### A turn -/

/-- What a turn does before the meaning: it is over, or an instruction runs. -/
inductive Prepared where
  | done (s : State)
  | run (i : Instr) (s : State)

/-- A pending sync job of the group at the pc: the slot waits for it, or the group completes or takes cause 16 (R274). -/
def State.pendingJob (s : State) (tid : Nat) : Option State :=
  let t := s.thread tid
  match t.pendJob with
  | none => none
  | some j =>
    if j.pc = t.pc ∧ j.depth = t.depth then
      let s := s.upd tid fun t => { t with pendJob := none }
      some (if !j.done then s.parkMe (.job j.cluster j.octet j.id tid) 0
        else if j.status = 0 then (s.acquire tid 2).retire 0
        else s.trap 16 0 (4 + j.status * 65536))
    else none

/-- Note the demand on the core die (R380). -/
def State.askCores (s : State) (tid : Nat) (g : Group) : State :=
  if vectorClass g && !isCtl tid then s.updCluster (clusterOf tid) (ClusterSt.asked s.now false (s.thread tid).tsr.leap) else s

/-- The checks on a decoded group of the issuing slot. -/
def State.admitGroup (s : State) (tid : Nat) (i : Instr) (g : Group) : Prepared :=
  let t := s.thread tid
  if isCtl tid && !ctlAccepts g.page g.op then .done (s.illegal 1)
  else if g.page == 6 && !t.tsr.priv then .run i s
  else
    match s.pendingJob tid with
    | some s => .done s
    | none =>
      match s.claimHw tid g with
      | (s, false) => .done s
      | (s, true) => .run i (s.askCores tid g)

/-- The fetch of the group at the pc of the slot that issues. -/
def State.prepareGroup (s : State) (tid : Nat) : Prepared :=
  match s.fetchGroup tid with
  | .trap c a => .done ((s.note14 tid (s.thread tid).ctx c a 2).trap c a 0)
  | .bad e => .done (s.trap 1 (s.thread tid).pc (decodeInfo e.word e.pos))
  | .ok i ws s =>
    let s : State := { s with ir := ws }
    match i.group with
    | some g => s.admitGroup tid i g
    | none => .done s

/-- A LEND of a slot may have left for the pond before the pending cut or trip of its leap reached the slot's boundary: it then finds
NONE and completes, and the trap follows it (R368). Which comes first is free (log 76). -/
def State.lendsFirst (s : State) (tid : Nat) : Bool :=
  let t := s.thread tid
  t.pendTrap.isSome && t.preempts.isEmpty && t.migr.isNone && t.park.isNone && Config.freeBit s.fresh &&
    (match s.fetchGroup tid with
     | .ok (.lend _ _) _ _ => true
     | _ => false)

/-- The group at the pc of a slot is issued. -/
def State.issueGroup (s : State) (tid : Nat) : Prepared :=
  let s := ((s.wake tid).upd tid fun t => { t with issuedAt := s.now }).updCore (coreOf tid) fun c => { c with lastIssue := some s.now }
  ({ s with cur := tid, ir := [] } : State).prepareGroup tid

/-- Whether a slot's park is QUIT's wait for its jobs. -/
def Thread.quits (t : Thread) : Bool := t.park.any fun p => match p.why with | .jobsEnd _ => true | _ => false

/-- A turn of a slot. -/
def State.prepare (s : State) (tid : Nat) : Prepared :=
  if !s.eligible tid then .done s
  else
    let race := (s.thread tid).pendTrap.isSome
    let s' : State := if race then { s with fresh := s.fresh + 1 } else s
    if race && s.lendsFirst tid then s'.issueGroup tid
    else
      match s'.boundary tid with
      | some s => .done s
      | none => if (s.thread tid).quits then .done (s'.quitAgain tid) else s'.issueGroup tid

end Sys2Proof.Machine
end

