-- ==== Sys2Proof/Machine/Step.lean ====
section
/-!
DEFINITION. Sys2Proof/Machine/Step.lean: one step of the module: the next turn of the schedule (log 11), and a machine
that is about to fetch a given instruction.
-/
namespace Sys2Proof.Machine

/-- A turn of the schedule, once the cycles before it have elapsed. -/
def turn (t : Turn) (s : State) : Out :=
  match t with
  | .issue _ tid =>
    if realSlot tid then
      match s.prepare tid with
      | .done s => .next s
      | .run i s => exec i s
    else .fault (.noSuchSlot tid)
  | .event _ i => if i.group.isNone then exec i s else .next s

/-- The cycles that elapse before a turn. -/
def Turn.cycles : Turn → Nat
  | .issue dt _ => dt
  | .event dt _ => dt

/-- The event of a start stage (Table 18.5). -/
def stageEvent (n : Nat) : Option Instr :=
  match n with
  | 1 => some .ramovBoot
  | 2 => some .firmwareVerify
  | 3 => some .controlCoreRelease
  | 4 => some .linkTraining
  | 5 => some .pcieEnumerate
  | _ => none

/-- The turn that follows where the schedule names none: the next start stage, else an issue of the slot that has been eligible
longest, else nothing. -/
def State.ownTurn (s : State) : Option Turn :=
  match (if s.err = 0 then stageEvent s.stage.toNat else none) with
  | some i => some (.event 1 i)
  | none => s.longest.map fun tid => .issue 1 tid

/-- One step. -/
def step (s : State) : Out :=
  match s.turns with
  | t :: rest => turn t { s with turns := rest, now := s.now + t.cycles }
  | [] =>
    match s.ownTurn with
    | some t => turn t { s with now := s.now + t.cycles }
    | none => .next { s with now := s.now + 1 }

/-! ### A given instruction as the next one -/

/-- Where withFetchWord places the code: a virtual address, and its physical address under the tables below. -/
def fetchVa : Word := 0x100000000

/-- The physical address of that page, a page of 2^30 bytes. -/
def fetchPa : Nat := 0x40000000

/-- A context whose tables at 0x10000 and 0x20000 map the page for the supervisor: readable, writable, executable. -/
def fetchCtx : Ctx := { Ctx.zero with ptbase := 0x10000 }

/-- A type in VTYPE with which the words decode: page 1 takes its type from there where E is 0 (R132). -/
def fetchVtype (ws : List IWord) : Word :=
  match (List.range 32).find? fun v => match decodeLoop (some (BitVec.ofNat 5 v)) .start ws with
    | .ok _ _ => true
    | .bad _ => false with
  | some v => BitVec.ofNat 64 v
  | none => 0

/-- The thread that fetches it: TID 0 at supervisor level. -/
def fetchThread (ws : List IWord) : Thread :=
  { Thread.free with
    state := .running
    pc := fetchVa
    tsr := ⟨true, false, false, false, false, false⟩
    ctx := fetchCtx
    vtype := fetchVtype ws }

/-- The instruction of `nbits` bits `w`, zeros after it, stands where the next step of TID 0 fetches, and the schedule names that
step. -/
def State.withFetchWord (s : State) (nbits w : Nat) : State :=
  let ws := tableWords nbits w ++ [0, 0, 0, 0]
  let bytes := ws.flatMap fun x => bytesOf x.toNat 2
  let s := (s.setWord 0x10000 0x20001).setWord 0x20020 0x4000001F
  let s := (s.putBytes fetchPa (bytes.map some)).setThread 0 (fetchThread ws)
  { s with turns := [.issue 0 0] }

end Sys2Proof.Machine
end

