-- ==== Sys2Proof/Safety.lean ====
section
/-!
DEFINITION. Sys2Proof/Safety.lean: the terms in which claims are made: the canonical form of a state, and what an instruction leaves
alone.
-/
namespace Sys2Proof.Machine

/-! ### The canonical form -/

/-- Memory, its full/empty, hold and error marks, and the tables of slots, cores, clusters and dies are in canonical form: equal
contents are equal data. -/
def State.Canonical (s : State) : Prop :=
  Memory.wf s.mem = true ∧ Table.wf false s.empties = true ∧ Table.wf false s.holds = true ∧ Table.wf false s.bad = true ∧
    Table.wf Thread.free s.threads = true ∧ Table.wf CoreSt.init s.cores = true ∧ Table.wf ClusterSt.init s.clusters = true ∧
    Table.wf DieSt.init s.dies = true

/-! ### What an instruction answers -/

/-- An instruction answers a next state, and that state has a property. -/
def Yields (i : Instr) (s : State) (P : State → Prop) : Prop := ∃ t, exec i s = .next t ∧ P t

/-! ### Frames -/

/-- Every byte outside `n` bytes from `pa` reads as before. -/
def State.SameOutside (s t : State) (pa n : Nat) : Prop := ∀ a, a < pa ∨ pa + n ≤ a → t.byte a = s.byte a

/-- Everything of the module but one slot is as before; so are the dies, but for what `drops` of a leap's debit change at the
slot's pond (R357). Every byte of memory reads as before. -/
def State.OnlySlot (s t : State) (drops : Nat) : Prop :=
  t = { s with threads := t.threads, dies := (s.debit s.cur drops s.me.tsr.leap).dies } ∧
    (∀ n, n ≠ s.cur → t.thread n = s.thread n) ∧ ∀ a, t.byte a = s.byte a

/-- A register whose writes are discarded: g0, and g6 while QBND binds it (R60, R176). -/
def Thread.discards (t : Thread) (r : Reg) : Prop := r = 0 ∨ (r = 6 ∧ t.g6en = true)

/-- A register whose writes push a hardware queue: g7 while QBND binds it (R176). -/
def Thread.pushes (t : Thread) (r : Reg) : Prop := r = 7 ∧ t.g7en = true

/-- The group has been performed whole: the slot goes on at `pc`, its leap has been debited, and of its fields only those that
`u` changes differ: no special register but LEAPH.SPENT, no window frame, no exception register. -/
def State.Went (s t : State) (pc : Word) (drops : Nat) (u : Thread → Thread) : Prop :=
  t.thread s.cur = { u s.me with pc := pc, g6 := none, leaph := ((s.debit s.cur drops s.me.tsr.leap).thread s.cur).leaph }

/-- A group whose whole effect is a scalar result: register `rd` holds `v` (a register that discards writes is as before), every
other register is as before, FCTL has gained the flags `fl`, and the slot goes on at the next group. -/
def State.GivesScalar (s : State) (rd : Reg) (v : Word) (fl : FFlags) (drops : Nat) (t : State) : Prop :=
  let u := t.thread s.cur
  (s.me.discards rd → u.regs.get (regIx rd) = s.me.regs.get (regIx rd)) ∧
    (¬s.me.discards rd → u.regs.get (regIx rd) = v) ∧
    (∀ r, r ≠ rd → u.regs.get (regIx r) = s.me.regs.get (regIx r)) ∧
    s.Went t s.nextPc drops (fun x => { x with regs := u.regs, fctl := raiseFlags x.fctl fl }) ∧ s.OnlySlot t drops

/-- A group whose whole effect is a vector result. -/
def State.GivesVector (s : State) (vd : Reg) (v : VWord) (fl : FFlags) (drops : Nat) (t : State) : Prop :=
  let u := t.thread s.cur
  u.vregs.get (regIx vd) = v ∧ (∀ r, r ≠ vd → u.vregs.get (regIx r) = s.me.vregs.get (regIx r)) ∧
    s.Went t s.nextPc drops (fun x => { x with vregs := u.vregs, fctl := raiseFlags x.fctl fl }) ∧ s.OnlySlot t drops

/-- A group whose whole effect is to go on at an address. -/
def State.GoesTo (s : State) (pc : Word) (t : State) : Prop := s.Went t pc 0 (fun x => x) ∧ s.OnlySlot t 0

/-! ### Vectors -/

/-- Lane `i` of `w` bits of a vector register (R129). -/
def vlane (w : Nat) (v : VWord) (i : Nat) : BitVec w := v.extractLsb' (w * i) w

/-- The flags that any lane raises (R109). -/
def anyFlags (n : Nat) (z : Nat → Rounded) : FFlags where
  nv := (List.range n).any fun i => (z i).fl.nv
  dz := (List.range n).any fun i => (z i).fl.dz
  of := (List.range n).any fun i => (z i).fl.of
  uf := (List.range n).any fun i => (z i).fl.uf
  nx := (List.range n).any fun i => (z i).fl.nx

/-! ### Numbers -/

/-- The rational that a finite value stands for; an infinity or a NaN stands for none. -/
def FVal.rat : FVal → Rat
  | .fin neg m e => (if neg then -1 else 1) * (m : Rat) * (2 : Rat) ^ e
  | _ => 0

/-- A finite value. -/
def FVal.finite : FVal → Prop
  | .fin _ _ _ => True
  | _ => False

/-- A real number, as the rationals below it and those above it. -/
structure Cut where
  above : Rat → Prop
  below : Rat → Prop

/-- A rational as a real number. -/
def realOf (x : Rat) : Cut := ⟨fun r => r < x, fun r => x < r⟩

/-- The square root of a rational that is not negative. -/
def realSqrt (x : Rat) : Cut := ⟨fun r => r < 0 ∨ r * r < x, fun r => 0 < r ∧ x < r * r⟩

/-- The reciprocal of the square root of a positive rational. -/
def realRsqrt (x : Rat) : Cut := ⟨fun r => r ≤ 0 ∨ r * r * x < 1, fun r => 0 < r ∧ 1 < r * r * x⟩

/-- The real number is a rational. -/
def Cut.isRat (x : Cut) (r : Rat) : Prop := ¬x.above r ∧ ¬x.below r

/-- The multiple `k` of a unit is the one to which the modes of R108 round a magnitude of a sign: the nearest, the even one of two that
are as near; or the next one toward zero or away from it. -/
def RoundsTo (rm : Rm) (neg : Bool) (unit : Rat) (x : Cut) (k : Nat) : Prop :=
  if rm = .rne then
    ¬x.below (unit * (k - 1 / 2)) ∧ ¬x.above (unit * (k + 1 / 2)) ∧
      (x.isRat (unit * (k - 1 / 2)) ∨ x.isRat (unit * (k + 1 / 2)) → k % 2 = 0)
  else if rm = .rtz ∨ (rm = .rup ∧ neg = true) ∨ (rm = .rdn ∧ neg = false) then ¬x.below (unit * k) ∧ x.below (unit * (k + 1))
  else ¬x.above (unit * k) ∧ x.above (unit * (k - 1))

/-- The largest finite value of a floating-point format (Table 4.2). -/
def Fmt.largest (f : Fmt) : Rat :=
  match f with
  | .fp64 => (2 - (2 : Rat) ^ (-52 : Int)) * 2 ^ 1023
  | .fp32 => (2 - (2 : Rat) ^ (-23 : Int)) * 2 ^ 127
  | .fp19 => (2 - (2 : Rat) ^ (-10 : Int)) * 2 ^ 127
  | .bf16 => (2 - (2 : Rat) ^ (-7 : Int)) * 2 ^ 127
  | .fp16 => 65504
  | .e4m3 => 448
  | .e5m2 => 57344
  | .e3m2 => 28
  | .e2m3 => 15 / 2
  | .e2m1 => 6
  | _ => 0

/-- The smallest normal value of a floating-point format. -/
def Fmt.least (f : Fmt) : Rat := (2 : Rat) ^ f.emin

/-- A result is an element of a sign and magnitude; the bits 12-0 of an FP19 container are 0 (R101). -/
def Rounded.IsElem (f : Fmt) (neg : Bool) (y : Rat) (z : Rounded) : Prop :=
  z.bits < 2 ^ f.width ∧ (f = .fp19 → z.bits % 2 ^ 13 = 0) ∧
    ∃ m e, decodeF f z.bits = .fin neg m e ∧ (m : Rat) * (2 : Rat) ^ e = y

/-- A result has the flags OF and UF as given, and NX where it differs from the exact value (R109). -/
def Rounded.Flagged (z : Rounded) (of uf : Bool) (nx : Prop) : Prop :=
  z.fl = { FFlags.none with of := of, uf := uf, nx := z.fl.nx } ∧ (z.fl.nx = true ↔ nx)

/-- The overflow results of Table 4.6. -/
def Fmt.Overflows (f : Fmt) (neg bounded sat : Bool) (z : Rounded) : Prop :=
  if f ∈ [Fmt.e3m2, .e2m3, .e2m1] ∨ (bounded = true ∨ sat = true) ∧ f ∈ [Fmt.e5m2, .e4m3] ∨ bounded = true ∧ f ∉ [Fmt.e5m2, .e4m3] then
    z.IsElem f neg f.largest
  else if f = .e4m3 then z.bits = (if neg then 0xFF else 0x7F)
  else decodeF f z.bits = .inf neg ∧ z.bits < 2 ^ f.width ∧ (f = .fp19 → z.bits % 2 ^ 13 = 0)

/-- R108 to R110, R113, R114: a result delivers the magnitude of a real number that is not zero, with a sign, in a floating-point format: it
is rounded with unbounded exponent; beyond the largest finite value it overflows; where it is tiny it is flushed, or rounded in the
subnormal range, once from the exact value (log 77). -/
def Fmt.Delivers (f : Fmt) (rm : Rm) (sat flush neg : Bool) (x : Cut) (z : Rounded) : Prop :=
  ∃ (ex : Int) (k : Nat), ¬x.below ((2 : Rat) ^ ex) ∧ x.below ((2 : Rat) ^ (ex + 1)) ∧ RoundsTo rm neg ((2 : Rat) ^ (ex - f.man)) x k ∧
    let y := (k : Rat) * (2 : Rat) ^ (ex - f.man)
    if f.largest < y then
      f.Overflows neg (decide (rm = .rtz ∨ (rm = .rup ∧ neg = true) ∨ (rm = .rdn ∧ neg = false))) sat z ∧ z.Flagged true false True
    else if f.least ≤ y then z.IsElem f neg y ∧ z.Flagged false false ¬x.isRat y
    else if flush then z.IsElem f neg 0 ∧ z.Flagged false true True
    else ∃ n : Nat, RoundsTo rm neg (f.least * (2 : Rat) ^ (-(f.man : Int))) x n ∧
      let v := (n : Rat) * (f.least * (2 : Rat) ^ (-(f.man : Int)))
      z.IsElem f neg v ∧ z.Flagged false z.fl.nx ¬x.isRat v

/-- An arithmetic result: of a value that is not zero, what the modes of FCTL deliver; of zero, the zero of a sign, without a flag. -/
def Fmt.Gives (f : Fmt) (md : Modes) (v : Rat) (zeroNeg : Bool) (z : Rounded) : Prop :=
  if v = 0 then z.IsElem f zeroNeg 0 ∧ z.fl = FFlags.none
  else f.Delivers md.rm false md.flush (decide (v < 0)) (realOf v.abs) z

/-- The sign of a sum or difference that is exactly zero, from the signs of its terms (R108). -/
def zeroSign (rm : Rm) (a b : Bool) : Bool := if a = b then a else rm == .rdn

/-- A value that is not a NaN lies before another in the order of the numbers and infinities; the two zeros are one. -/
def FVal.Before (p q : FVal) : Prop :=
  p = .inf true ∧ q ≠ .inf true ∨ q = .inf false ∧ p ≠ .inf false ∨ p.finite ∧ q.finite ∧ p.rat < q.rat

/-- A result holds a value that is not a NaN, sign and all. -/
def Rounded.Holds (z : Rounded) (f : Fmt) (p : FVal) : Prop :=
  match p with
  | .fin neg _ _ => z.IsElem f neg p.rat.abs
  | _ => z.bits < 2 ^ f.width ∧ decodeF f z.bits = p

/-- R115: a rational is rounded to an integer and clamped to a range, with the flags. -/
def IntoInt (rm : Rm) (lo hi : Int) (x : Rat) (neg : Bool) (c : Int × FFlags) : Prop :=
  ∃ k : Nat, RoundsTo rm neg 1 (realOf x.abs) k ∧
    let v : Int := if neg then -k else k
    if v < lo then c = (lo, { FFlags.none with nv := true })
    else if hi < v then c = (hi, { FFlags.none with nv := true })
    else c.1 = v ∧ c.2 = { FFlags.none with nx := c.2.nx } ∧ (c.2.nx = true ↔ (v : Rat) ≠ x)

/-- R126 and R141: a magnitude rounded RNE to the fraction bits that the type keeps; below the smallest normal it is zero. -/
def Fmt.DeliversShort (f : Fmt) (neg : Bool) (x : Cut) (z : Rounded) : Prop :=
  (x.below f.least → z.IsElem f neg 0 ∧ z.Flagged false true True) ∧
    (¬x.below f.least → ∃ (ex : Int) (k : Nat), ¬x.below ((2 : Rat) ^ ex) ∧ x.below ((2 : Rat) ^ (ex + 1)) ∧
      let n : Int := match f with
        | .fp16 => 10
        | .bf16 => 7
        | _ => 12
      RoundsTo .rne neg ((2 : Rat) ^ (ex - n)) x k ∧
      let y := (k : Rat) * (2 : Rat) ^ (ex - n)
      if f.largest < y then decodeF f z.bits = .inf neg ∧ z.bits < 2 ^ f.width ∧ z.Flagged true false True
      else z.IsElem f neg y ∧ z.Flagged false false ¬x.isRat y)

/-! ### Accesses -/

/-- Nothing is on its way between the issuing slot and the homes of its die, and nothing waits there: empty buffers, read cache,
channels and wait lists, no seal, no uncorrectable word. -/
def State.Idle (s : State) : Prop :=
  isCtl s.cur = false ∧ (s.core (coreOf s.cur)).q = [] ∧ (s.cluster (clusterOf s.cur)).w = [] ∧
    (s.cluster (clusterOf s.cur)).lines = [] ∧ s.chans = [] ∧ s.streams = [] ∧ s.waits = [] ∧ s.seals = [] ∧ s.bad = []

/-- The address checks give a target in memory of the own die, which no policy refuses. -/
def State.Reaches (s : State) (va : Word) (align : Nat) (need : Need) (t : Target) : Prop :=
  s.check s.cur s.me.ctx s.me.tsr.priv va align need = .ok t ∧ t.isReg = false ∧ homeDie t.pa = dieOf s.cur ∧
    s.policy s.me.codeid t = none

/-- A state whose issuing slot has just left its park. -/
def State.woken (s : State) : State :=
  s.updMe fun x =>
    { x with
      park := none
      wokenAt := s.now }

/-- Only memory and full/empty bits have changed: no byte outside `n` bytes from `pa`, no bit of a word that does not meet them. -/
def State.Stored (s v : State) (pa n : Nat) : Prop :=
  v = { s with mem := v.mem, empties := v.empties } ∧ s.SameOutside v pa n ∧
    ∀ a, wordOf a + 8 ≤ pa ∨ pa + n ≤ wordOf a → v.full a = s.full a

/-- The bits of some words have become `f`; nothing else has changed. -/
def State.Marked (s v : State) (ws : List Nat) (f : Bool) : Prop :=
  v = { s with empties := v.empties } ∧ ∀ a, v.full a = if wordOf a ∈ ws then f else s.full a

/-- Every word is full, or every word is empty, and no word is held. -/
def State.AllAre (s : State) (ws : List Nat) (f : Bool) : Prop := ∀ w ∈ ws, s.full w = f ∧ s.held w = false

/-- An access of the issuing slot has been performed with the effects that make `v` of the state, and its group is complete. -/
def State.Completes (v t : State) : Prop := v.woken.Went t v.nextPc 1 (fun x => x) ∧ v.woken.OnlySlot t 1

/-- From a state `v` in which its effects on the rest of the module stand, the issuing slot has performed its group at a cost: of its
fields only those that `u` changes, the program counter, the popped word and LEAPH.SPENT differ. -/
def State.Performs (v : State) (drops : Nat) (u : Thread → Thread) (t : State) : Prop := v.Went t v.nextPc drops u ∧ v.OnlySlot t drops

/-- The issuing slot parks with a reason and is to re-execute its group: what the group took from the hardware queues goes back, and
nothing else changes (R152). -/
def State.Rewaits (s : State) (why : Park) (t : State) : Prop :=
  let v := s.unclaim s.cur
  t.thread s.cur = { v.me with park := some ⟨why, s.nextPc, 0, s.me.tsr.leap⟩ } ∧ t = { v with threads := t.threads } ∧
    ∀ n, n ≠ s.cur → t.thread n = v.thread n

/-- A parked slot has completed its group: of its fields, only those that `u` changes, the park, the program counter, the popped
word and LEAPH.SPENT differ; the other slots are as before, and the dies but for the debit (R152, R357). -/
def State.Wakes (s t : State) (tid : Nat) (p : Parked) (u : Thread → Thread) : Prop :=
  t.thread tid = { u (s.thread tid) with
    park := none
    pc := p.next
    g6 := none
    wokenAt := s.now
    leaph := ((s.debit tid p.drops p.leapt).thread tid).leaph } ∧
  (∀ n, n ≠ tid → t.thread n = s.thread n) ∧ t.dies = (s.debit tid p.drops p.leapt).dies

/-- The issuing slot waits with a reason, its group to be completed at the next group; the other slots are as before. -/
def State.ParksAs (s t : State) (why : Park) : Prop :=
  t.thread s.cur = { s.me with park := some ⟨why, s.nextPc, 1, s.me.tsr.leap⟩ } ∧ ∀ n, n ≠ s.cur → t.thread n = s.thread n

/-- A slot as a start leaves it (R71, R323): p0 to p3 hold the words given, every other register is zero, WSP is the slot's spill base,
and every other part is as in a free slot or as the start loads it. -/
def State.Started (s : State) (tid : Nat) (c : Ctx) (x : Start) (parent : Option Bound) (unit : Option (Nat × Nat)) (u : Thread) : Prop :=
  (∀ i : Fin 32, u.regs.get i = if h : 8 ≤ i.val ∧ i.val < 12 then x.p.get ⟨i.val - 8, by omega⟩ else 0) ∧
  u = { Thread.free with
    state := .running
    pc := x.pc
    regs := u.regs
    wsp := BitVec.ofNat 64 ((c.spbase.extractLsb' 7 41).toNat * 128 + (c.spstride.extractLsb' 7 41).toNat * 128 *
      (((dieOf tid * 12 + tid / 1024 % 16) * 48 + tid / 16 % 64) * 16 + tid % 16))
    tsr := ⟨x.priv, false, false, false, false, false⟩
    fmt := x.fmt &&& fmtMask
    scp := x.scp &&& scpMask
    taskh := x.taskh
    rank := x.rank
    pondid := x.pondid
    codeid := s.codeFor c.id x.pc
    ctx := c
    parent := parent
    unit := unit
    issuedAt := s.now
    wokenAt := s.now }

/-! ### Signed records -/

/-- Bytes are a signed record of a region as Table 17.4 lays it out: KIND, id, SEQ and the requesting party as given, policy, counters, flags and
bounds of the region. -/
def Region.Signed (x : Region) (out : List Byte) (kind id : Nat) (seq party : Word) : Prop :=
  out.length = 1664 ∧
    ∀ e ∈ [(0, BitVec.ofNat 64 (2 ^ 56 + kind * 2 ^ 52 + x.attested.toNat * 2 ^ 49 + x.metMacs.toNat * 2 ^ 48 + x.metBytes.toNat * 2 ^ 47 +
        x.satMacs.toNat * 2 ^ 46 + x.satBytes.toNat * 2 ^ 45 + x.broke.toNat * 2 ^ 44 + id)), (1, x.serial), (2, seq),
        (3, BitVec.ofNat 64 x.bytes), (4, BitVec.ofNat 64 x.macs), (5, if x.broke then BitVec.ofNat 64 (2 ^ 31) else 0),
        (6, if x.broke then BitVec.ofNat 64 (2 ^ 41) else 0), (7, party), (40, BitVec.ofNat 64 x.linkKind), (45, 0), (46, 0), (47, 0)],
      (out.drop (8 * e.1)).take 8 = bytesOf e.2.toNat 8

/-! ### Exceptions -/

/-- One slot of a state has become `u`; everything else is as in `s`, every byte of memory among it. -/
def State.OnlyThread (s t : State) (tid : Nat) (u : Thread) : Prop :=
  t.thread tid = u ∧ t = { s with threads := t.threads } ∧ (∀ n, n ≠ tid → t.thread n = s.thread n) ∧
    ∀ a, t.byte a = s.byte a

/-- The window after a call or a trap (R63): the old p and l stand on top of the frames, p holds the old q, l and q are zero,
g is as before, and the stack is one frame higher. -/
def Thread.SlidIn (t u : Thread) : Prop :=
  u.depth = t.depth + 1 ∧ (∃ f, u.frames = f :: t.frames ∧ ∀ i : Fin 16, f.get i = t.regs.get ⟨i.val + 8, by omega⟩) ∧
    (∀ i : Fin 32, i.val < 8 → u.regs.get i = t.regs.get i) ∧
    (∀ i : Fin 8, u.regs.get ⟨i.val + 8, by omega⟩ = t.regs.get ⟨i.val + 24, by omega⟩) ∧
    ∀ i : Fin 16, u.regs.get ⟨i.val + 16, by omega⟩ = 0

/-- The window after a return (R63): q holds the old p, p and l hold the frame that stood on top, g is as before, and the stack is
one frame lower. -/
def Thread.SlidOut (t u : Thread) : Prop :=
  u.depth = t.depth - 1 ∧ (∃ f, t.frames = f :: u.frames ∧ ∀ i : Fin 16, u.regs.get ⟨i.val + 8, by omega⟩ = f.get i) ∧
    (∀ i : Fin 32, i.val < 8 → u.regs.get i = t.regs.get i) ∧
    ∀ i : Fin 8, u.regs.get ⟨i.val + 24, by omega⟩ = t.regs.get ⟨i.val + 8, by omega⟩

/-- A trap enters the user handler (R76): the trap registers are set, BUSY is set, and the slot goes on at TVEC.ADDR * 2 in the
window after a push; no other field of the slot changes but the park it leaves. -/
def Thread.InUserHandler (t u : Thread) (tid : Nat) (tr : Trap) : Prop :=
  t.SlidIn u ∧
    u = { t with
      regs := u.regs
      frames := u.frames
      depth := u.depth
      tepc := tr.ret
      tcause := BitVec.ofNat 64 tr.cause
      taddr := tr.addr
      tinfo := t.tinfoOf tid tr.info
      tvec := t.tvec ||| 1
      pc := t.tvecAddr
      park := none
      delivery := none
      g6 := none }

/-- A trap enters the supervisor (R68, R319): its registers are set, PPRIV keeps the level, SBUSY and PRIV are set, and the slot goes
on at STVEC.ADDR * 2 in the window after a push, which for cause 18, or where no other place is free, takes the reserve place. -/
def Thread.InSupervisor (t u : Thread) (tid : Nat) (tr : Trap) : Prop :=
  t.SlidIn u ∧
    u = { t with
      regs := u.regs
      frames := u.frames
      depth := u.depth
      reserve := if tr.cause = 18 ∨ t.placeFree = false then some t.depth else t.reserve
      sepc := tr.ret
      scause := BitVec.ofNat 64 tr.cause
      saddr := tr.addr
      sinfo := t.sinfoOf tid tr.cause tr.info
      privst := (if t.tsr.adopted then BitVec.ofNat 64 (tid % 131072 * 2 ^ 40 + 8) else 0) ||| 2#64 |||
        (if t.tsr.priv then 1 else 0)
      tsr := { t.tsr with priv := true }
      pc := t.ctx.stvec &&& 0x0000FFFFFFFFFFFE#64
      park := none
      delivery := none
      g6 := none }

/-- A cause that goes to the user handler (R76, R319). -/
def Thread.ForUser (t : Thread) (cause : Nat) : Prop :=
  cause ∈ [3, 4, 5, 6, 8, 10, 11, 12, 15, 16, 19] ∧ t.tsr.priv = false ∧ t.tvecAddr ≠ 0 ∧ t.tvec.getLsbD 0 = false

/-- The supervisor can take a cause now: SBUSY is 0, and the frame of its entry has a place, for cause 18 the reserve place (R68,
R319). -/
def Thread.SupervisorReady (t : Thread) (cause : Nat) : Prop :=
  t.privst.getLsbD 1 = false ∧ (t.reserve = none ∨ (t.placeFree = true ∧ cause ≠ 18))

/-- A window fault that the push of a delivery finds at DEPTH 2^32 - 1 takes the trap's place (Table 3.1, R68; that its own entry is
made all the same is the model's choice, log 65). -/
def Thread.inPlace (t : Thread) (tr : Trap) : Trap := if 2 ^ 32 - 1 ≤ t.depth then ⟨18, tr.ret, 0, 3⟩ else tr

/-- What an abandoned group of the issuing slot leaves: the words it popped and the places it claimed are given back to the hardware
queues, the slot waits on none of them, and slots whose turn has come are woken (R33, R176). -/
def State.givenBack (s : State) : State := (s.unclaim s.cur).leaveHw s.cur

/-- What a trap of the issuing slot leaves: the user handler entered, the supervisor entered, or the slot stopped; everything else
is as an abandoned group leaves it (R33). A slot that issues is not parked (R152). -/
def State.Trapped (s : State) (tr : Trap) (t : State) : Prop :=
  let v := s.givenBack
  let sup := s.me.inPlace tr
  s.me.park = none →
  (s.me.ForUser tr.cause → s.me.placeFree = true → s.me.depth < 2 ^ 32 - 1 →
      ∃ u, s.me.InUserHandler u s.cur tr ∧ v.OnlyThread t s.cur u) ∧
    (¬s.me.ForUser tr.cause → s.me.SupervisorReady sup.cause → ∃ u, s.me.InSupervisor u s.cur sup ∧ v.OnlyThread t s.cur u) ∧
    (¬s.me.ForUser tr.cause → ¬s.me.SupervisorReady sup.cause → t = v.stopSlot s.cur sup.cause)

end Sys2Proof.Machine
end

