-- ==== Sys2Proof/Certificates/Slice0/Obligations.lean ====
section
/-!
DEFINITION. Sys2Proof/Certificates/Slice0/Obligations.lean: the statements about the model.
-/
open Sys2Proof
open Sys2Proof.Machine

/-! ### Scalar results (page 0, page 7) -/

/-- R81, R83, Tables 3.8 and 3.9: the register operations of page 0 but MOV, and the operations with an immediate, whose value is B's five bits
extended; a shift amount is taken from the low six bits of B's register, or from the immediate. R35: the fields of the PFX.I words, the first most
significant, stand above the base word's own bits, and the immediate is zero-extended or sign-extended from its full width. Each writes its
destination and nothing else, with no flag and no drop. -/
def Obligations.IntegerArithmetic : Prop :=
  (∀ (s : State) (a b : Reg) (r : Option RPfx), s.Canonical → ¬s.me.pushes (destOf a r) →
    let x := s.r a
    let y := s.r b
    let n := (y.extractLsb' 0 6).toNat
    ∀ e ∈ [(Instr.add a b r, x + y), (.sub a b r, x - y), (.and a b r, x &&& y), (.or a b r, x ||| y),
        (.xor a b r, x ^^^ y), (.shl a b r, x <<< n), (.shr a b r, x >>> n), (.sar a b r, x.sshiftRight n),
        (.mul a b r, x * y), (.slt a b r, if x.toInt < y.toInt then 1 else 0),
        (.sltu a b r, if x.toNat < y.toNat then 1 else 0), (.seq a b r, if x = y then 1 else 0),
        (.min a b r, if x.toInt ≤ y.toInt then x else y), (.max a b r, if x.toInt ≤ y.toInt then y else x)],
      Yields e.1 s (s.GivesScalar (destOf a r) e.2 FFlags.none 0)) ∧
  (∀ (s : State) (a b : Reg) (r : Option RPfx) (is : IPfx), s.Canonical → ¬s.me.pushes (destOf a r) →
    let x := s.r a
    let i := immS is b
    let z := immZ is b
    let n := immShift is b
    ∀ e ∈ [(Instr.addi a b r is, x + i), (.andi a b r is, x &&& i), (.ori a b r is, x ||| z), (.xori a b r is, x ^^^ z),
        (.shli a b r is, x <<< n), (.shri a b r is, x >>> n), (.sari a b r is, x.sshiftRight n),
        (.slti a b r is, if x.toInt < i.toInt then 1 else 0), (.seqi a b r is, if x = i then 1 else 0)],
      Yields e.1 s (s.GivesScalar (destOf a r) e.2 FFlags.none 0)) ∧
  (∀ (a b : Reg) (f g : BitVec 10),
    immZ [] b = b.setWidth 64 ∧ immS [] b = b.signExtend 64 ∧ immShift [] b = b.toNat ∧
    immZ [f] b = (f ++ b).setWidth 64 ∧ immS [f] b = (f ++ b).signExtend 64 ∧
    immZ [f, g] b = (f ++ g ++ b).setWidth 64 ∧ immS [f, g] b = (f ++ g ++ b).signExtend 64 ∧
    immAB [] a b = (a ++ b).signExtend 64 ∧ immAB [f] a b = (f ++ a ++ b).signExtend 64 ∧
    immAB [f, g] a b = (f ++ g ++ a ++ b).signExtend 64 ∧
    offS [] = 0 ∧ offS [f] = f.signExtend 64 ∧ offS [f, g] = (f ++ g).signExtend 64 ∧
    immCode [] a b = (a ++ b).toNat ∧ immCode [f, g] a b = (f ++ g ++ a ++ b).toNat)

/-- R82, R84, R91, R94: MOV, LDI, LDIX and ADDPC write their value to A and nothing else; NOP only goes on. -/
def Obligations.MovesAndConstants : Prop :=
  ∀ (s : State) (a b : Reg) (is : IPfx), s.Canonical → ¬s.me.pushes a →
    (∀ e ∈ [(Instr.mov a b, s.r b), (.ldi a b is, immS is b),
        (.ldix a b is, (s.r a <<< (5 + 10 * is.length)) ||| immZ is b), (.addpc a b is, s.nextPc + immS is b)],
      Yields e.1 s (s.GivesScalar a e.2 FFlags.none 0)) ∧
    Yields (.nop a b) s (s.GoesTo s.nextPc)

/-- R96, R97, Table 3.14: the multiplications, divisions, minima, maxima, rotations and unary operations of page 7; a division truncates toward zero,
a remainder takes the sign of the dividend, and no division traps. R96 and R98, bit by bit: CLZ, CTZ, POPC, BREV, BSWAP, BEXT and BINS. -/
def Obligations.IntegerUnit : Prop :=
  (∀ (s : State) (a b : Reg) (r : Option RPfx), s.Canonical → ¬s.me.pushes a → ¬s.me.pushes (destOf a r) →
    let x := s.r a
    let y := s.r b
    let n := (y.extractLsb' 0 6).toNat
    (∀ e ∈ [(Instr.mulh a b r, (x.signExtend 128 * y.signExtend 128).extractLsb' 64 64),
        (.mulhu a b r, (x.setWidth 128 * y.setWidth 128).extractLsb' 64 64),
        (.div a b r, if y = 0 then BitVec.allOnes 64 else x.sdiv y), (.divu a b r, if y = 0 then BitVec.allOnes 64 else x / y),
        (.rem a b r, if y = 0 then x else x - x.sdiv y * y), (.remu a b r, if y = 0 then x else x - x / y * y),
        (.minu a b r, if x.toNat ≤ y.toNat then x else y), (.maxu a b r, if x.toNat ≤ y.toNat then y else x),
        (.rol a b r, (x <<< n) ||| (x >>> (64 - n))), (.ror a b r, (x >>> n) ||| (x <<< (64 - n)))],
      Yields e.1 s (s.GivesScalar (destOf a r) e.2 FFlags.none 0)) ∧
    ∀ e ∈ [(Instr.neg a b, 0 - y), (.not a b, y ^^^ BitVec.allOnes 64),
        (.sextb a b, (y.setWidth 8).signExtend 64), (.sexth a b, (y.setWidth 16).signExtend 64),
        (.sextw a b, (y.setWidth 32).signExtend 64)],
      Yields e.1 s (s.GivesScalar a e.2 FFlags.none 0)) ∧
  (∀ (s : State) (a b : Reg) (r : Option RPfx), s.Canonical →
    let x := s.r a
    let y := s.r b
    let pos := (y.extractLsb' 0 6).toNat
    let len := (y.extractLsb' 6 7).toNat
    (¬s.me.pushes a →
      (∃ n, n ≤ 64 ∧ (∀ i, i < n → y.getLsbD (63 - i) = false) ∧ (n < 64 → y.getLsbD (63 - n) = true) ∧
        Yields (.clz a b) s (s.GivesScalar a (BitVec.ofNat 64 n) FFlags.none 0)) ∧
      (∃ n, n ≤ 64 ∧ (∀ i, i < n → y.getLsbD i = false) ∧ (n < 64 → y.getLsbD n = true) ∧
        Yields (.ctz a b) s (s.GivesScalar a (BitVec.ofNat 64 n) FFlags.none 0)) ∧
      Yields (.popc a b) s (s.GivesScalar a (BitVec.ofNat 64 ((List.range 64).countP fun i => y.getLsbD i)) FFlags.none 0) ∧
      (∃ v : Word, (∀ i, i < 64 → v.getLsbD i = y.getLsbD (63 - i)) ∧ Yields (.brev a b) s (s.GivesScalar a v FFlags.none 0)) ∧
      ∃ v : Word, (∀ i, i < 8 → v.extractLsb' (8 * i) 8 = y.extractLsb' (56 - 8 * i) 8) ∧
        Yields (.bswap a b) s (s.GivesScalar a v FFlags.none 0)) ∧
    (¬s.me.pushes (destOf a r) → ∃ v : Word, (∀ i, i < 64 → v.getLsbD i = (decide (i < len) && x.getLsbD (pos + i))) ∧
      Yields (.bext a b r) s (s.GivesScalar (destOf a r) v FFlags.none 0)) ∧
    (¬s.me.pushes (dOf r) → ∃ v : Word, (∀ i, i < 64 → v.getLsbD i =
        if pos ≤ i ∧ i < pos + len then x.getLsbD (i - pos) else (s.r (dOf r)).getLsbD i) ∧
      Yields (.bins a b r) s (s.GivesScalar (dOf r) v FFlags.none 0)))

/-! ### Branches, calls, returns -/

/-- R87, Table 3.13: the eight conditional branches, which go to the next group's address plus twice the offset where their condition holds. The
group's address is even, so a taken target is even too. R88 and R89: J and JR. A target that lies outside 48 bits, or that is odd, raises cause 3. -/
def Obligations.BranchesAndJumps : Prop :=
  (∀ (s : State) (a b : Reg) (is : IPfx), s.Canonical →
    let x := s.r a
    let y := s.r b
    ∀ e ∈ [(Instr.beqz a b is, x = 0, immS is b), (.bnez a b is, x ≠ 0, immS is b), (.bltz a b is, x.toInt < 0, immS is b),
        (.bgez a b is, 0 ≤ x.toInt, immS is b), (.beq a b is, x = y, offS is), (.bne a b is, x ≠ y, offS is),
        (.blt a b is, x.toInt < y.toInt, offS is), (.bltu a b is, x.toNat < y.toNat, offS is)],
      let target := s.nextPc + 2 * e.2.2
      (¬e.2.1 → Yields e.1 s (s.GoesTo s.nextPc)) ∧
      (e.2.1 → target.getLsbD 0 = false → target.extractLsb' 48 16 = 0 → Yields e.1 s (s.GoesTo target)) ∧
      (e.2.1 → target.extractLsb' 48 16 ≠ 0 → Yields e.1 s (s.Trapped ⟨3, s.me.pc, target, 0⟩))) ∧
  (∀ (s : State) (a b : Reg) (is : IPfx), s.Canonical →
    ∀ e ∈ [(Instr.j a b is, s.nextPc + 2 * immAB is a b), (.jr a b, s.r b)],
      (e.2.getLsbD 0 = false → e.2.extractLsb' 48 16 = 0 → Yields e.1 s (s.GoesTo e.2)) ∧
      (e.2.getLsbD 0 = true ∨ e.2.extractLsb' 48 16 ≠ 0 → Yields e.1 s (s.Trapped ⟨3, s.me.pc, e.2, 0⟩)))

/-- R63, R66, R68, R88, R89: CALL and CALLR. q7 takes the next group's address, so that p7 holds it after the push; a push without a place waits for a
spill and then completes (R152), and one that nothing can free raises cause 18. R63, R67, R89, R90, R95, R335: RET, TRET and, at supervisor level,
STRET; a pop whose frame is spilled waits for its fill and then completes. -/
def Obligations.CallsAndReturns : Prop :=
  (∀ (s : State) (a b : Reg) (is : IPfx), s.Canonical →
    ∀ e ∈ [(Instr.call a b is, s.nextPc + 2 * immAB is a b), (.callr a b, s.r b)],
      (e.2.getLsbD 0 = true ∨ e.2.extractLsb' 48 16 ≠ 0 → Yields e.1 s (s.Trapped ⟨3, s.me.pc, e.2, 0⟩)) ∧
      (e.2.getLsbD 0 = false → e.2.extractLsb' 48 16 = 0 →
        (s.me.placeFree = true → s.me.depth < 2 ^ 32 - 1 → Yields e.1 s fun t => ∃ u,
          ({ s.me with regs := s.me.regs.set 31 s.nextPc } : Thread).SlidIn u ∧
          u = { s.me with regs := u.regs, frames := u.frames, depth := u.depth, pc := e.2, g6 := none } ∧
          s.OnlyThread t s.cur u) ∧
        (s.me.placeFree = false → s.me.wsp ≠ 0 → s.me.frames ≠ [] → s.me.depth < 2 ^ 32 - 1 → Yields e.1 s fun t =>
          s.OnlyThread t s.cur { s.me with park := some ⟨.framePlace (some e.2), s.nextPc, 0, s.me.tsr.leap⟩ }) ∧
        (2 ^ 32 - 1 ≤ s.me.depth → Yields e.1 s (s.Trapped ⟨18, s.me.pc, 0, 3⟩)) ∧
        (s.me.depth < 2 ^ 32 - 1 → s.me.placeFree = false → s.me.wsp = 0 ∨ s.me.frames = [] →
          Yields e.1 s (s.Trapped ⟨18, s.me.pc, s.me.wsp, 1⟩)))) ∧
  (∀ (s : State) (a b : Reg), s.Canonical →
    ∀ e ∈ [(Instr.ret a b, s.r 15, RetKind.ret, fun (u : Thread) => u),
        (.tret a b, s.me.tepc, .tret, fun u => { u with tvec := s.me.tvec &&& ~~~1#64 }),
        (.stret a b, s.me.sepc, .stret, fun u =>
          { u with
            privst := s.me.privst &&& ~~~2#64
            tsr := { s.me.tsr with priv := isCtl s.cur || s.me.privst.getLsbD 0 } })],
      (e.1 = .stret a b → s.me.tsr.priv = true) →
      (e.2.1.getLsbD 0 = true ∨ e.2.1.extractLsb' 48 16 ≠ 0 → Yields e.1 s (s.Trapped ⟨3, s.me.pc, e.2.1, 0⟩)) ∧
      (e.2.1.getLsbD 0 = false → e.2.1.extractLsb' 48 16 = 0 →
        (s.me.depth = 0 → Yields e.1 s (s.Trapped ⟨18, s.me.pc, 0, 3⟩)) ∧
        (s.me.depth ≠ 0 → s.me.frames = [] → Yields e.1 s fun t =>
          s.OnlyThread t s.cur { s.me with park := some ⟨.frameFill e.2.1 e.2.2.1, s.nextPc, 0, s.me.tsr.leap⟩ }) ∧
        (s.me.depth ≠ 0 → s.me.frames ≠ [] → Yields e.1 s fun t => ∃ u, s.me.SlidOut u ∧
          u = { e.2.2.2 s.me with
            regs := u.regs
            frames := u.frames
            depth := u.depth
            reserve := if s.me.reserve = some (s.me.depth - 1) then none else s.me.reserve
            pc := e.2.1
            g6 := none } ∧
          s.OnlyThread t s.cur u)))

/-! ### Exceptions and special registers -/

/-- R63, R66, R68, R76, R319, R321: taking an exception enters the user handler, enters the supervisor or stops the slot. The push of a delivery to
the user handler that finds no place waits for one, with the trap held; one that nothing can free, or that would pass the greatest depth, takes cause
18 in its place. The supervisor's entry for cause 18 uses the reserve place; a window fault with that place in use stops the slot. That an entry at
the greatest depth is made for that fault is the model's choice (log 65). R321, R346: a stopped slot keeps every register, becomes STOPPED, and a
kind-4 message with STATUS 1 goes to its die's supervisor slot; without a valid one DROPS counts, up to 2^64 - 1. -/
def Obligations.TakingAnException : Prop :=
  (∀ (s : State) (tr : Trap), s.Canonical → s.me.park = none →
    let v := s.givenBack
    let t := s.deliver s.cur tr
    let low := s.me.depth < 2 ^ 32 - 1
    let stuck := s.me.placeFree = false ∧ (s.me.wsp = 0 ∨ s.me.frames = [])
    s.Trapped tr t ∧ v.thread s.cur = { s.me with g6 := none } ∧ (∀ n, n ≠ s.cur → (s.thread n).park = none → v.thread n = s.thread n) ∧
    (s.me.ForUser tr.cause →
      (low → s.me.placeFree = false → ¬stuck →
        v.OnlyThread t s.cur { s.me with g6 := none, delivery := some tr, park := some ⟨.framePlace none, tr.ret, 0, false⟩ }) ∧
      (low → stuck → s.me.SupervisorReady 18 → ∃ u, s.me.InSupervisor u s.cur ⟨18, tr.ret, s.me.wsp, 1⟩ ∧ v.OnlyThread t s.cur u) ∧
      (¬low → s.me.SupervisorReady 18 → ∃ u, s.me.InSupervisor u s.cur ⟨18, tr.ret, 0, 3⟩ ∧ v.OnlyThread t s.cur u) ∧
      (¬low ∨ stuck → ¬s.me.SupervisorReady 18 → t = v.stopSlot s.cur 18))) ∧
  (∀ (s : State) (cause : Nat), s.Canonical → goodTid s.cur = true →
    let t := s.stopSlot s.cur cause
    let sup := (s.die (dieOf s.cur)).suptid
    let target := (sup.extractLsb' 0 17).toNat
    t.thread s.cur = { s.me with state := .stopped, park := none } ∧ (∀ n, n ≠ s.cur → t.thread n = s.thread n) ∧
    (∀ a, t.byte a = s.byte a) ∧
    (sup.getLsbD 63 = true ∧ goodTid target = true →
      t = { s with
        threads := t.threads
        outbox := s.outbox ++ [⟨target, header 0 4 0 1, #v[BitVec.ofNat 64 s.cur, BitVec.ofNat 64 cause, 0, 0], 3⟩] }) ∧
    (¬(sup.getLsbD 63 = true ∧ goodTid target = true) → t = { s with threads := t.threads, dies := t.dies } ∧
      t.die (dieOf s.cur) = { s.die (dieOf s.cur) with
        drops := if (s.die (dieOf s.cur)).drops = BitVec.allOnes 64 then BitVec.allOnes 64 else (s.die (dieOf s.cur)).drops + 1 }))

/-- R42, R77, R93: BRK raises cause 8 and SVC cause 9 with the next group as return point, page 0's op 0 raises cause 1 at its base word; these
instructions' effect is the exception. R40, R41, Table 13.1: at user level every instruction of page 6 raises cause 2 at its base word and has no
other effect. -/
def Obligations.RequestedAndPrivilegeTraps : Prop :=
  (∀ (s : State) (a b : Reg) (is : IPfx), s.Canonical →
    Yields (.brk a b is) s (s.Trapped ⟨8, s.nextPc, 0, BitVec.ofNat 64 (immCode is a b)⟩) ∧
    Yields (.svc a b is) s (s.Trapped ⟨9, s.nextPc, 0, BitVec.ofNat 64 (immCode is a b)⟩) ∧
    ∀ w : IWord, s.ir = [w] → Yields (.ill a b) s (s.Trapped ⟨1, s.me.pc, s.me.pc, BitVec.ofNat 64 w.toNat⟩)) ∧
  (∀ (s : State) (a b : Reg) (is : IPfx) (w : IWord), s.Canonical → s.me.tsr.priv = false → s.ir.getLast? = some w →
    ∀ i ∈ [Instr.rdp a b, .wrp a b, .stret a b, .tlbi a b, .ctxs a b is, .ctxl a b is, .preempt a b, .kill a b, .migr a b,
        .secm a b is, .halt a b, .icinv a b],
      Yields i s (s.Trapped ⟨2, s.me.pc, s.me.pc, BitVec.ofNat 64 (w.toNat + (s.ir.length - 1) * 65536)⟩))

/-- R92, Table 3.2: RDS of each special register; TSR as Table 3.3 lays it out, LEAPH as Table 14.2, WDEPTH with its two fields where
Table 3.4 has them. That RES is the number of resident frames up to 7 (log 2, DEDUCED) and that DEPTH stops at 2^32 - 1 (log 65), and the lead of a
core's count, a free value (log 64), are the model's choice. R322, R334, Table 13.3: RDP of each privileged register at supervisor level. A takes the
value and nothing else changes. -/
def Obligations.RegisterReads : Prop :=
  (∀ (s : State) (a : Reg), s.Canonical → ¬s.me.pushes a →
    let t := s.me
    ∀ e ∈ [((0 : Reg), if isCtl s.cur then (0 : Word) else BitVec.ofNat 64 s.cur),
        (1, 0#58 ++ BitVec.ofBool t.tsr.priv ++ BitVec.ofBool t.tsr.migrated ++ BitVec.ofBool t.tsr.adopted ++
          BitVec.ofBool t.tsr.lost ++ BitVec.ofBool t.tsr.cut ++ BitVec.ofBool t.tsr.leap),
        (2, t.fctl), (3, t.vtype), (4, t.fmt), (5, t.scp), (6, t.taskh), (7, t.mhdr),
        (8, BitVec.ofNat 64 (s.now + Config.cycLead (coreOf s.cur) - (s.core (coreOf s.cur)).cyc0)), (9, t.rank.setWidth 64),
        (10, BitVec.ofNat 64 (t.leaph.state.code * 2 ^ 61 + t.leaph.rank * 2 ^ 58 + t.leaph.pond * 2 ^ 50 +
          t.leaph.units * 2 ^ 36 + t.leaph.spent * 2 ^ 14 + t.leaph.seq)),
        (11, t.wsp), (12, BitVec.ofNat 64 (min t.frames.length 7 * 2 ^ 32 + min t.depth (2 ^ 32 - 1))), (13, t.qbnd.setWidth 64),
        (14, t.tvec), (15, t.tcause), (16, t.taddr), (17, t.tepc), (18, t.tinfo), (19, BitVec.ofNat 64 t.adepth)],
      Yields (.rds a e.1) s (s.GivesScalar a e.2 FFlags.none 0)) ∧
  (∀ (s : State) (a : Reg), s.Canonical → ¬s.me.pushes a → s.me.tsr.priv = true →
    let t := s.me
    ∀ e ∈ [((0 : Reg), (t.ctx.id.setWidth 64 : Word)), (1, t.ctx.tenant.setWidth 64), (2, t.pondid.setWidth 64), (3, t.ctx.ptbase),
        (4, t.ctx.stvec), (5, t.scause), (6, t.saddr), (7, t.sepc), (8, t.sinfo), (9, t.privst),
        (10, t.ctx.rankset.setWidth 64), (11, t.codeid.setWidth 64)],
      Yields (.rdp a e.1) s (s.GivesScalar a e.2 FFlags.none 0))

/-- R72, R74, R92, R131: WRS of each writable register changes that register alone, its reserved fields written as zero; a VTYPE outside Table 5.1
raises cause 1, a WSP that Table 3.4 does not admit cause 3 with the value as address. R322, R334, R341, Table 13.4: WRP of each writable privileged
register at supervisor level changes that register alone; SHTID and SADOPT of PRIVST are kept, and a PRIVST with UNSEAL waits for the home's answer. -/
def Obligations.RegisterWrites : Prop :=
  (∀ (s : State) (a : Reg), s.Canonical →
    let v := s.r a
    let sets (n : Reg) (u : Thread → Thread) : Prop :=
      Yields (.wrs a n) s fun t => s.Went t s.nextPc 0 u ∧ s.OnlySlot t 0
    sets 2 (fun u => { u with fctl := v &&& 0x1F7#64 }) ∧
    (v.extractLsb' 0 5 = 0 ∨ v.extractLsb' 0 5 ∈ [1#5, 2#5, 3#5, 4#5, 8#5, 9#5, 10#5, 11#5] →
      sets 3 (fun u => { u with vtype := v &&& 0x1F#64 })) ∧
    (¬(v.extractLsb' 0 5 = 0 ∨ v.extractLsb' 0 5 ∈ [1#5, 2#5, 3#5, 4#5, 8#5, 9#5, 10#5, 11#5]) → ∀ w : IWord, s.ir = [w] →
      Yields (.wrs a 3) s (s.Trapped ⟨1, s.me.pc, s.me.pc, BitVec.ofNat 64 w.toNat⟩)) ∧
    sets 4 (fun u => { u with fmt := v &&& 0x3FFFF#64 }) ∧
    sets 5 (fun u => { u with scp := v &&& 0xFC00FFFFFFFFFFF8#64 }) ∧
    (v.extractLsb' 48 16 = 0 → v.extractLsb' 0 7 = 0 → sets 11 (fun u => { u with wsp := v, spillBad := false })) ∧
    (v.extractLsb' 48 16 ≠ 0 ∨ v.extractLsb' 0 7 ≠ 0 → Yields (.wrs a 11) s (s.Trapped ⟨3, s.me.pc, v, 0⟩)) ∧
    sets 14 (fun u => { u with tvec := v.setWidth 48 |>.setWidth 64 }) ∧
    sets 17 (fun u => { u with tepc := v })) ∧
  (∀ (s : State) (a : Reg), s.Canonical → s.me.tsr.priv = true →
    let v := s.r a
    let sets (n : Reg) (u : Thread → Thread) : Prop :=
      Yields (.wrp a n) s fun t => s.Went t s.nextPc 0 u ∧ s.OnlySlot t 0
    let privst := (s.me.privst &&& 0x01FFFF0000000008#64) ||| (v &&& 3#64)
    sets 2 (fun u => { u with pondid := v.setWidth 8 }) ∧
    sets 3 (fun u => { u with ctx := { u.ctx with ptbase := v &&& 0x000FFFFFFFFFF000#64 } }) ∧
    sets 4 (fun u => { u with ctx := { u.ctx with stvec := v &&& 0x0000FFFFFFFFFFFE#64 } }) ∧
    sets 7 (fun u => { u with sepc := v }) ∧
    (v.getLsbD 2 = false → sets 9 (fun u => { u with privst := privst })) ∧
    (v.getLsbD 2 = true → Yields (.wrp a 9) s fun t =>
      s.OnlyThread t s.cur { s.me with privst := privst, park := some ⟨.unseal, s.nextPc, 0, s.me.tsr.leap⟩ }) ∧
    sets 10 (fun u => { u with ctx := { u.ctx with rankset := v.setWidth 3 } }))

/-! ### Floating point (page 4) -/

/-- R116, R118 to R120, R122 to R128: the type is E's, inputs are the low bits of their registers, the result is zero-extended, the flags are ORed
into FCTL, and FDIV, FSQRT, RCP and RSQ cost four drops; the operations are those of Machine/Float.lean, of whose values the further clauses speak.
R100, R102: the value of an element. R108 to R110, R113 to R115, Tables 4.3 and 4.6: what a conversion delivers in each format, of a subnormal result the one
rounding of the exact value (log 77). R118 to R120, R122 to R126: the values of the operations on numbers, each rounded once.
R121: FEQ, FLT and FLE write 1 or 0; a comparison with a NaN is false; FEQ sets NV for a signalling NaN only, FLT and FLE for any. R118, R119, R120,
R126, Table 4.9, for the four types: NaNs, infinities, zeros. R102, R122: a conversion of a number to its own type returns its bits and raises no
flag, for every element of the four types but NaNs, and subnormals where FLUSH is 1. -/
def Obligations.ScalarFloat : Prop :=
  (∀ (s : State) (a b : Reg) (r : Option RPfx), s.Canonical →
    let d := dOf r
    let f := fmtOfType (floatType (eOf r))
    let md := s.me.modes
    let x := (s.r a).toNat % 2 ^ f.width
    let y := (s.r b).toNat % 2 ^ f.width
    let gives (i : Instr) (rd : Reg) (z : Rounded) (drops : Nat) : Prop :=
      ¬s.me.pushes rd → Yields i s (s.GivesScalar rd (BitVec.ofNat 64 z.bits) z.fl drops)
    gives (.fadd a b r) (destOf a r) (fAdd f md x y) 0 ∧ gives (.fsub a b r) (destOf a r) (fSub f md x y) 0 ∧
    gives (.fmul a b r) (destOf a r) (fMul f md x y) 0 ∧ gives (.fdiv a b r) (destOf a r) (fDiv f md x y) 4 ∧
    gives (.fmin a b r) (destOf a r) (fPick false f md x y) 0 ∧ gives (.fmax a b r) (destOf a r) (fPick true f md x y) 0 ∧
    gives (.fsqrt a b r) a (fSqrt f md y) 4 ∧ gives (.rcp a b r) a (fRecip false f y) 4 ∧
    gives (.rsq a b r) a (fRecip true f y) 4 ∧
    gives (.fma a b r) d (fFma f md x y ((s.r d).toNat % 2 ^ f.width)) 0 ∧
    gives (.fcvt a b r) a (fConvert f (fmtOfType (floatType d)) md y) 0 ∧
    gives (.fcvtf a b r) a (fOfInt f md (if d = 0 then (s.r b).toInt else (s.r b).toNat)) 0 ∧
    gives (.fabs a b r) a ⟨y % 2 ^ (f.width - 1), FFlags.none⟩ 0 ∧
    gives (.fneg a b r) a ⟨(y + 2 ^ (f.width - 1)) % 2 ^ f.width, FFlags.none⟩ 0 ∧
    gives (.fclass a b r) a ⟨2 ^ fClass f y, FFlags.none⟩ 0 ∧
    (¬s.me.pushes a →
      let c := fToInt f md (if d.getLsbD 1 then .rtz else md.rm) (if d.getLsbD 0 then 0 else -(2 ^ 63))
        (if d.getLsbD 0 then 2 ^ 64 - 1 else 2 ^ 63 - 1) y
      Yields (.fcvti a b r) s (s.GivesScalar a (BitVec.ofInt 64 c.1) c.2 0))) ∧
  (∀ (s : State) (a b : Reg) (r : Option RPfx), s.Canonical → ¬s.me.pushes (destOf a r) →
    let f := fmtOfType (floatType (eOf r))
    let x := inF f s.me.modes ((s.r a).toNat % 2 ^ f.width)
    let y := inF f s.me.modes ((s.r b).toNat % 2 ^ f.width)
    let nan := x.isNan || y.isNan
    let snan := x.isSnan || y.isSnan
    ∀ e ∈ [(Instr.feq a b r, decide (x.cmp y = .eq), snan), (.flt a b r, decide (x.cmp y = .lt), nan),
        (.fle a b r, decide (x.cmp y ≠ .gt), nan)],
      Yields e.1 s (s.GivesScalar (destOf a r) (if !nan && e.2.1 then 1 else 0)
        { FFlags.none with nv := nan && e.2.2 } 0)) ∧
  (∀ f ∈ [Fmt.fp16, .bf16, .fp32, .fp64], ∀ (md : Modes) (x y : Nat),
    let p := inF f md x
    let q := inF f md y
    let nan (nv : Bool) : Rounded := ⟨f.nan false, { FFlags.none with nv := nv }⟩
    let inf (neg : Bool) : Rounded := ⟨(if neg then 2 ^ (f.width - 1) else 0) + f.infBits, FFlags.none⟩
    (p.isNan = true ∨ q.isNan = true → ∀ op ∈ [fAdd f md x y, fSub f md x y, fMul f md x y, fDiv f md x y],
      op = nan (p.isSnan || q.isSnan)) ∧
    (∀ n, p = .inf n → q = .inf n → fAdd f md x y = inf n ∧ fSub f md x y = nan true) ∧
    (∀ n, p = .inf n → q = .inf (!n) → fAdd f md x y = nan true ∧ fSub f md x y = inf n) ∧
    (∀ n k e, p = .inf n → q = .fin k 0 e → fMul f md x y = nan true ∧ fMul f md y x = nan true) ∧
    (∀ n k m e, p = .inf n → q = .fin k m e → m ≠ 0 → fMul f md x y = inf (n != k)) ∧
    (∀ n k, p = .inf n → q = .inf k → fDiv f md x y = nan true) ∧
    (∀ n k e g, p = .fin n 0 e → q = .fin k 0 g → fDiv f md x y = nan true) ∧
    (∀ n k m e g, p = .fin n m e → m ≠ 0 → q = .fin k 0 g →
      fDiv f md x y = ⟨(inf (n != k)).bits, { FFlags.none with dz := true }⟩) ∧
    (∀ m e, p = .fin true m e → m ≠ 0 → fSqrt f md x = nan true) ∧ (p = .inf false → fSqrt f md x = inf false) ∧
    (∀ n e, p = .fin n 0 e → (fSqrt f md x).bits = (if n then 2 ^ (f.width - 1) else 0)) ∧
    (∀ n e, decodeF f x = .fin n 0 e → ∀ root, fRecip root f x = ⟨(inf n).bits, { FFlags.none with dz := true }⟩) ∧
    (∀ n m e, decodeF f x = .fin n m e → m ≠ 0 → n = true → fRecip true f x = nan true)) ∧
  (∀ f ∈ [Fmt.fp16, .bf16, .fp32, .fp64], ∀ (md : Modes) (x : Nat), x < 2 ^ f.width → (decodeF f x).isNan = false →
    (md.flush = false ∨ (decodeF f x).isZero = true ∨ ∀ n m e, decodeF f x = .fin n m e → 2 ^ f.man ≤ m) →
    fConvert f f md x = ⟨x, FFlags.none⟩) ∧
  (∀ c ∈ [(Fmt.fp16, 5, 10, 15, 0x7E00), (.bf16, 8, 7, 127, 0x7FC0), (.fp32, 8, 23, 127, 0x7FC00000), (.fp64, 11, 52, 1023, 0x7FF8000000000000)],
    ∀ (md : Modes) (x : Nat),
    let (f, E, M, b, n) := c
    let v := decodeF f x
    let s := decide (x / 2 ^ (E + M) % 2 = 1)
    let e : Nat := x / 2 ^ M % 2 ^ E
    let r : Nat := x % 2 ^ M
    f.nan false = n ∧ (e = 2 ^ E - 1 → v = if r = 0 then .inf s else .nan (decide (r < 2 ^ (M - 1))) s) ∧
    (e ≠ 2 ^ E - 1 → v.finite ∧ v.neg = s ∧ v.rat = (if s then -1 else 1) *
      (if e = 0 then (2 : Rat) ^ (1 - (b : Int)) * (r / 2 ^ M) else (2 : Rat) ^ ((e : Int) - b) * (1 + r / 2 ^ M))) ∧
    (inF f md x).neg = v.neg ∧ (v.finite → (inF f md x).finite ∧ (inF f md x).rat = if md.flush = true ∧ v.rat.abs < f.least then 0 else v.rat) ∧
    (¬v.finite → inF f md x = v) ∧
    fClass f x = match v with
      | .inf s => if s then 0 else 7
      | .nan q _ => if q then 8 else 9
      | .fin s _ _ => if v.rat = 0 then (if s then 3 else 4) else if v.rat.abs < f.least then (if s then 2 else 5) else if s then 1 else 6) ∧
  (∀ (f : Fmt) (rm : Rm) (sat flush neg : Bool), f.isInt = false →
    (∀ (m : Nat) (e : Int), let z := encodeRound f rm sat flush (.fin neg m e)
      if m = 0 then z.IsElem f neg 0 ∧ z.fl = FFlags.none else f.Delivers rm sat flush neg (realOf (m * (2 : Rat) ^ e)) z) ∧
    (∀ z, z = encodeRound f rm sat flush (.inf neg) →
      f.Overflows neg false sat z ∧ z.fl = { FFlags.none with nv := decide (f = .e4m3) && !sat }) ∧
    ∀ sig, encodeRound f rm sat flush (.nan sig neg) = if f ∈ [Fmt.e3m2, .e2m3, .e2m1] then ⟨0, { FFlags.none with nv := true }⟩
      else ⟨f.nan neg, { FFlags.none with nv := sig }⟩) ∧
  (∀ f ∈ [Fmt.fp16, .bf16, .fp32, .fp64], ∀ (md : Modes) (x y d : Nat),
    let p := inF f md x
    let q := inF f md y
    let r := inF f md d
    (p.finite → q.finite →
      f.Gives md (p.rat + q.rat) (zeroSign md.rm p.neg q.neg) (fAdd f md x y) ∧
      f.Gives md (p.rat - q.rat) (zeroSign md.rm p.neg !q.neg) (fSub f md x y) ∧
      f.Gives md (p.rat * q.rat) (p.neg != q.neg) (fMul f md x y) ∧
      (q.rat ≠ 0 → f.Gives md (p.rat / q.rat) (p.neg != q.neg) (fDiv f md x y)) ∧
      (r.finite → f.Gives md (p.rat * q.rat + r.rat) (zeroSign md.rm (p.neg != q.neg) r.neg) (fFma f md x y d) ∧
        f.Gives md (r.rat - p.rat * q.rat) (zeroSign md.rm (p.neg == q.neg) r.neg) (fFms f md x y d))) ∧
    (p.finite → 0 < p.rat → f.Delivers md.rm false md.flush false (realSqrt p.rat) (fSqrt f md x)) ∧
    (p.isNan = false → q.isNan = false →
      let low : Prop := p.Before q ∨ ¬q.Before p ∧ p.neg = true
      (p.cmp q = .lt ↔ p.Before q) ∧ (p.cmp q = .gt ↔ q.Before p) ∧
      ∀ greater, let z := fPick greater f md x y
        z.fl = FFlags.none ∧ (low → z.Holds f (if greater then q else p)) ∧ (¬low → z.Holds f (if greater then p else q))) ∧
    ∀ greater, let z := fPick greater f md x y
      (p.isNan = true ∨ q.isNan = true → z.fl = { FFlags.none with nv := p.isSnan || q.isSnan }) ∧
      (p.isNan = true → q.isNan = true → z.bits = f.nan false) ∧
      (p.isNan = true → q.isNan = false → z.Holds f q) ∧ (p.isNan = false → q.isNan = true → z.Holds f p)) ∧
  (∀ f ∈ [Fmt.fp16, .bf16, .fp32, .fp64], ∀ g ∈ [Fmt.fp16, .bf16, .fp32, .fp64], ∀ (md : Modes) (x : Nat),
    let p := inF f md x
    (p.finite → g.Gives md p.rat p.neg (fConvert f g md x)) ∧
    (∀ n, p = .inf n → fConvert f g md x = ⟨(if n then 2 ^ (g.width - 1) else 0) + g.infBits, FFlags.none⟩) ∧
    (p.isNan = true → fConvert f g md x = ⟨g.nan false, { FFlags.none with nv := p.isSnan }⟩)) ∧
  ∀ f ∈ [Fmt.fp16, .bf16, .fp32, .fp64], ∀ (md : Modes) (x : Nat),
    let p := inF f md x
    let v := decodeF f x
    (∀ i : Int, f.Gives md i false (fOfInt f md i)) ∧
    (∀ (rm : Rm) (lo hi : Int), lo ≤ 0 → 0 ≤ hi →
      (p.finite → IntoInt rm lo hi p.rat p.neg (fToInt f md rm lo hi x)) ∧
      (∀ n, p = .inf n → fToInt f md rm lo hi x = (if n then lo else hi, { FFlags.none with nv := true })) ∧
      (p.isNan = true → fToInt f md rm lo hi x = (0, { FFlags.none with nv := true }))) ∧
    (v.finite → v.rat ≠ 0 → f.DeliversShort v.neg (realOf (1 / v.rat.abs)) (fRecip false f x) ∧
      (v.neg = false → f.DeliversShort false (realRsqrt v.rat) (fRecip true f x))) ∧
    (∀ n, v = .inf n → fRecip false f x = ⟨if n then 2 ^ (f.width - 1) else 0, FFlags.none⟩ ∧
      fRecip true f x = if n then ⟨f.nan false, { FFlags.none with nv := true }⟩ else ⟨0, FFlags.none⟩) ∧
    (v.isNan = true → ∀ root, fRecip root f x = ⟨f.nan false, { FFlags.none with nv := v.isSnan }⟩)

/-! ### Vectors (page 1) -/

/-- R129, R135 to R137, Table 5.4: the lane-wise instructions of page 1 on integer types, lane by lane: arithmetic wraps modulo 2^w, VMULH keeps the upper
half of the exact signed product, and none traps or sets a flag; one drop each. -/
def Obligations.VectorIntegerLanes : Prop :=
  ∀ (s : State) (a b : Reg) (r : Option RPfx) (is : IPfx), s.Canonical →
    let t := s.elem (eOf r)
    t ∈ [1#5, 2#5, 3#5, 4#5] →
    let w := laneWidth t
    let k := immShift is b
    let mask (c : Bool) : BitVec w := if c then BitVec.allOnes w else 0
    (∀ e ∈ [(Instr.vadd a b r, fun (x y : BitVec w) => x + y), (.vsub a b r, fun x y => x - y), (.vmul a b r, fun x y => x * y),
        (.vmulh a b r, fun x y => BitVec.ofInt w (x.toInt * y.toInt / 2 ^ w)),
        (.vmin a b r, fun x y => if x.toInt ≤ y.toInt then x else y), (.vmax a b r, fun x y => if x.toInt ≤ y.toInt then y else x),
        (.vminu a b r, fun x y => if x.toNat ≤ y.toNat then x else y), (.vmaxu a b r, fun x y => if x.toNat ≤ y.toNat then y else x),
        (.vshl a b r, fun x y => x <<< y.toNat), (.vshr a b r, fun x y => x >>> y.toNat), (.vsar a b r, fun x y => x.sshiftRight y.toNat),
        (.vceq a b r, fun x y => mask (x == y)), (.vclt a b r, fun x y => mask (x.slt y)), (.vcltu a b r, fun x y => mask (x.ult y)),
        (.vcle a b r, fun x y => mask (x.sle y))],
      ∃ v, (∀ i, i < 128 / w → vlane w v i = e.2 (vlane w (s.v a) i) (vlane w (s.v b) i)) ∧
        Yields e.1 s (s.GivesVector (destOf a r) v FFlags.none 1)) ∧
    (k < w → ∀ e ∈ [(Instr.vshli a b r is, fun (x : BitVec w) => x <<< k), (.vshri a b r is, fun x => x >>> k),
        (.vsari a b r is, fun x => x.sshiftRight k)],
      ∃ v, (∀ i, i < 128 / w → vlane w v i = e.2 (vlane w (s.v a) i)) ∧
        Yields e.1 s (s.GivesVector (destOf a r) v FFlags.none 1)) ∧
    ∀ e ∈ [(Instr.vabs a b r, fun (y : BitVec w) => if y.toInt < 0 then -y else y), (.vneg a b r, fun y => -y),
        (.vpopc a b r, fun y => BitVec.ofNat w ((List.range w).countP fun i => y.getLsbD i))],
      ∃ v, (∀ i, i < 128 / w → vlane w v i = e.2 (vlane w (s.v b) i)) ∧ Yields e.1 s (s.GivesVector a v FFlags.none 1)

/-- R109, R138, R141, R148: the lane-wise instructions of page 1 on floating-point types. Each lane is what the scalar operation of the same name
gives; the flags of all lanes are ORed; the special-function class costs four drops, the others two. R141, Table 5.6: the special functions of NaNs,
infinities and zeros, and their exact values; other values lie between the exact ones beside them and are inexact (R126). -/
def Obligations.VectorFloatLanes : Prop :=
  (∀ (s : State) (a b : Reg) (r : Option RPfx), s.Canonical →
    let t := s.elem (eOf r)
    t ∈ [8#5, 9#5, 10#5, 11#5] →
    let f := fmtOfType t
    let w := laneWidth t
    let md := s.me.modes
    let x (i : Nat) : Nat := (vlane w (s.v a) i).toNat
    let y (i : Nat) : Nat := (vlane w (s.v b) i).toNat
    let d (i : Nat) : Nat := (vlane w (s.v (dOf r)) i).toNat
    let mask (c : Bool × FFlags) : Rounded := ⟨if c.1 then 2 ^ w - 1 else 0, c.2⟩
    let plain (n : Nat) : Rounded := ⟨n, FFlags.none⟩
    ∀ e ∈ [(Instr.vadd a b r, destOf a r, 2, fun i => fAdd f md (x i) (y i)), (.vsub a b r, destOf a r, 2, fun i => fSub f md (x i) (y i)),
        (.vmul a b r, destOf a r, 2, fun i => fMul f md (x i) (y i)), (.vdiv a b r, destOf a r, 4, fun i => fDiv f md (x i) (y i)),
        (.vmin a b r, destOf a r, 2, fun i => fPick false f md (x i) (y i)),
        (.vmax a b r, destOf a r, 2, fun i => fPick true f md (x i) (y i)),
        (.vceq a b r, destOf a r, 2, fun i => mask (fCompare .eq f md (x i) (y i))),
        (.vclt a b r, destOf a r, 2, fun i => mask (fCompare .lt f md (x i) (y i))),
        (.vcle a b r, destOf a r, 2, fun i => mask (fCompare .le f md (x i) (y i))),
        (.vfma a b r, dOf r, 2, fun i => fFma f md (x i) (y i) (d i)), (.vfms a b r, dOf r, 2, fun i => fFms f md (x i) (y i) (d i)),
        (.vsqrt a b r, a, 4, fun i => fSqrt f md (y i)), (.vrcp a b r, a, 4, fun i => fRecip false f (y i)),
        (.vrsq a b r, a, 4, fun i => fRecip true f (y i)), (.vexp2 a b r, a, 4, fun i => specialLane .exp2 f md (y i)),
        (.vlog2 a b r, a, 4, fun i => specialLane .log2 f md (y i)), (.vsin a b r, a, 4, fun i => specialLane .sin f md (y i)),
        (.vcos a b r, a, 4, fun i => specialLane .cos f md (y i)), (.vabs a b r, a, 2, fun i => plain (fAbs f (y i))),
        (.vneg a b r, a, 2, fun i => plain (fNeg f (y i)))],
      ∃ v, (∀ i, i < 128 / w → vlane w v i = BitVec.ofNat w (e.2.2.2 i).bits) ∧
        Yields e.1 s (s.GivesVector e.2.1 v (anyFlags (128 / w) e.2.2.2) e.2.2.1)) ∧
  ∀ f ∈ [Fmt.fp16, .bf16, .fp32, .fp64], ∀ (md : Modes) (x : Nat),
    let p := inF f md x
    let fn (g : SpecialFn) : Rounded := specialLane g f md x
    let nan (nv : Bool) : Rounded := ⟨f.nan false, { FFlags.none with nv := nv }⟩
    let inf (n : Bool) : Nat := (if n then 2 ^ (f.width - 1) else 0) + f.infBits
    let is (z : Rounded) (neg : Bool) (v : Rat) : Prop := z.IsElem f neg v ∧ z.fl = FFlags.none
    (p.isNan = true → ∀ g, fn g = nan p.isSnan) ∧
    (∀ n, p = .inf n → fn .exp2 = ⟨if n then 0 else inf false, FFlags.none⟩ ∧ fn .log2 = (if n then nan true else ⟨inf false, FFlags.none⟩) ∧
      fn .sin = nan true ∧ fn .cos = nan true) ∧
    (p.finite → p.rat = 0 → is (fn .exp2) false 1 ∧ fn .log2 = ⟨inf true, { FFlags.none with dz := true }⟩ ∧ is (fn .sin) p.neg 0 ∧
      is (fn .cos) false 1) ∧
    (p.finite → p.rat < 0 → fn .log2 = nan true) ∧
    (p.finite → p.rat ≠ 0 → ∀ n : Int,
      (p.rat = n → f.DeliversShort false (realOf ((2 : Rat) ^ n)) (fn .exp2)) ∧
      ((n : Rat) < p.rat → p.rat < n + 1 → (fn .exp2).fl.nx = true ∧
        ∃ y : Rat, (2 : Rat) ^ n ≤ y ∧ y ≤ (2 : Rat) ^ (n + 1) ∧ f.DeliversShort false (realOf y) (fn .exp2)) ∧
      (p.rat = (2 : Rat) ^ n → if n = 0 then fn .log2 = ⟨0, FFlags.none⟩ else f.DeliversShort (decide (n < 0)) (realOf (n : Rat).abs) (fn .log2)) ∧
      ((2 : Rat) ^ n < p.rat → p.rat < (2 : Rat) ^ (n + 1) → (fn .log2).fl.nx = true ∧
        ∃ y : Rat, y ≠ 0 ∧ (n : Rat) ≤ y ∧ y ≤ n + 1 ∧ f.DeliversShort (decide (y < 0)) (realOf y.abs) (fn .log2)) ∧
      (4 * p.rat = n →
        (n % 2 = 0 → fn .sin = ⟨0, FFlags.none⟩ ∧ is (fn .cos) (decide (n % 4 = 2)) 1) ∧
        (n % 2 = 1 → is (fn .sin) (decide (n % 4 = 3)) 1 ∧ fn .cos = ⟨0, FFlags.none⟩)) ∧
      ((n : Rat) < 4 * p.rat → 4 * p.rat < n + 1 → (fn .sin).fl.nx = true ∧ (decodeF f (fn .sin).bits).neg = decide (2 ≤ n % 4) ∧
        (fn .cos).fl.nx = true ∧ (decodeF f (fn .cos).bits).neg = decide (n % 4 = 1 ∨ n % 4 = 2)))

/-- R136, R139, R140: the typeless instructions, and those that move lanes. R140: VZIP and VUNZIP write D, then A. R143 to R146: conversions,
reductions by the fixed pairwise tree, dot products and widening products; Table 5.8; the values of a lane conversion, of a dot product and of a
widening product (R113, R115, R118; of a subnormal result log 77 holds). -/
def Obligations.VectorMovesAndWidening : Prop :=
  (∀ (s : State) (a b : Reg) (r : Option RPfx), s.Canonical →
    let t := s.elem (eOf r)
    let w := laneWidth t
    let n := 128 / w
    let d := dOf r
    let x := s.v a
    let y := s.v b
    let cost := if t ∈ [8#5, 9#5, 10#5, 11#5] then 2 else 1
    (∀ e ∈ [(Instr.vand a b r, destOf a r, x &&& y), (.vor a b r, destOf a r, x ||| y), (.vxor a b r, destOf a r, x ^^^ y),
        (.vandn a b r, destOf a r, x &&& ~~~y), (.vsel a b r, d, (s.v d &&& x) ||| (~~~(s.v d) &&& y)), (.vmov a b, a, y)],
      Yields e.1 s (s.GivesVector e.2.1 e.2.2 FFlags.none 1)) ∧
    (t ∈ [1#5, 2#5, 3#5, 4#5, 8#5, 9#5, 10#5, 11#5] →
      (∃ v, (∀ i, i < n → vlane w v i = (s.r b).setWidth w) ∧ Yields (.vsplat a b r) s (s.GivesVector a v FFlags.none cost)) ∧
      (d.toNat < n → ∃ v, (∀ i, i < n → vlane w v i = if i = d.toNat then (s.r b).setWidth w else vlane w x i) ∧
        Yields (.vins a b r) s (s.GivesVector a v FFlags.none cost)) ∧
      (d.toNat < n → ¬s.me.pushes a → Yields (.vext a b r) s (s.GivesScalar a
        (if t ∈ [1#5, 2#5, 3#5, 4#5] then (vlane w y d.toNat).signExtend 64 else (vlane w y d.toNat).setWidth 64) FFlags.none cost)) ∧
      (∃ v, (∀ i, i < n → vlane w v i = if (vlane w y i).toNat < n then vlane w x (vlane w y i).toNat else 0) ∧
        Yields (.vshuf a b r) s (s.GivesVector (destOf a r) v FFlags.none 1)))) ∧
  (∀ (s : State) (a b : Reg) (r : Option RPfx), s.Canonical →
    let t := s.elem (eOf r)
    t ∈ [1#5, 2#5, 3#5, 4#5, 8#5, 9#5, 10#5, 11#5] → dOf r ≠ a →
    let w := laneWidth t
    let h := 64 / w
    let x := vlane w (s.v a)
    let y := vlane w (s.v b)
    ∀ e ∈ [(Instr.vzip a b r, fun i => if i % 2 = 0 then x (i / 2) else y (i / 2),
          fun i => if i % 2 = 0 then x (h + i / 2) else y (h + i / 2)),
        (.vunzip a b r, fun i => if i < h then x (2 * i) else y (2 * (i - h)),
          fun i => if i < h then x (2 * i + 1) else y (2 * (i - h) + 1))],
      Yields e.1 s fun z =>
        let u := z.thread s.cur
        (∀ i, i < 2 * h → vlane w (u.vregs.get (regIx (dOf r))) i = e.2.1 i) ∧
        (∀ i, i < 2 * h → vlane w (u.vregs.get (regIx a)) i = e.2.2 i) ∧
        (∀ q, q ≠ a → q ≠ dOf r → u.vregs.get (regIx q) = s.me.vregs.get (regIx q)) ∧
        s.Went z s.nextPc 1 (fun c => { c with vregs := u.vregs }) ∧ s.OnlySlot z 1) ∧
  (∀ (s : State) (a b : Reg) (r : Option RPfx), s.Canonical →
    let t := s.elem (eOf r)
    let w := laneWidth t
    let md := s.me.modes
    let f := fmtOfType t
    let d := dOf r
    let sx (x : VWord) (i : Nat) : Int := (vlane w x i).toInt
    let nx (x : VWord) (i : Nat) : Nat := (vlane w x i).toNat
    let types := [1#5, 2#5, 3#5, 4#5, 8#5, 9#5, 10#5, 11#5]
    (t ∈ types → s.elem d ∈ types →
      let k := laneWidth (s.elem d)
      let n := min (128 / w) (128 / k)
      ∃ v, (∀ i, i < n → vlane k v i = BitVec.ofNat k (cvtLane t (s.elem d) md (nx (s.v b) i)).bits) ∧
        (∀ i, n ≤ i → i < 128 / k → vlane k v i = 0) ∧
        Yields (.vcvt a b r) s (s.GivesVector a v (anyFlags n fun i => cvtLane t (s.elem d) md (nx (s.v b) i))
          (if t ∈ [8#5, 9#5, 10#5, 11#5] ∨ s.elem d ∈ [8#5, 9#5, 10#5, 11#5] then 2 else 1))) ∧
    (t ∈ [1#5, 2#5, 3#5, 4#5] → d.toNat < 8 → ¬s.me.pushes a →
      let x := (treeOf (redInt d.toNat w) 4 ((List.range (128 / w)).map (nx (s.v b)))).headD 0
      Yields (.vred a b r) s (s.GivesScalar a
        (if d.toNat ≤ 2 then (BitVec.ofNat w x).signExtend 64 else BitVec.ofNat 64 x) FFlags.none 1)) ∧
    (t ∈ [8#5, 9#5, 10#5, 11#5] → d.toNat < 3 → ¬s.me.pushes a →
      let step (p q : Rounded) : Rounded :=
        let z := redFloat d.toNat f md p.bits q.bits
        ⟨z.bits, (p.fl.or q.fl).or z.fl⟩
      let x := (treeOf step 4 ((List.range (128 / w)).map fun i => ⟨nx (s.v b) i, FFlags.none⟩)).headD ⟨0, FFlags.none⟩
      Yields (.vred a b r) s (s.GivesScalar a (BitVec.ofNat 64 x.bits) x.fl 2)) ∧
    (t ∈ [1#5, 2#5] → ∃ v, (∀ j, j < 128 / (4 * w) → vlane (4 * w) v j =
        vlane (4 * w) (s.v d) j + BitVec.ofInt (4 * w) (sx (s.v a) (4 * j) * sx (s.v b) (4 * j) +
          sx (s.v a) (4 * j + 1) * sx (s.v b) (4 * j + 1) + sx (s.v a) (4 * j + 2) * sx (s.v b) (4 * j + 2) +
          sx (s.v a) (4 * j + 3) * sx (s.v b) (4 * j + 3))) ∧
      Yields (.vdot a b r) s (s.GivesVector d v FFlags.none 1)) ∧
    (t ∈ [8#5, 9#5] →
      let z (j : Nat) : Rounded := dotFloat f md (vlane 32 (s.v d) j).toNat (nx (s.v a) (2 * j)) (nx (s.v b) (2 * j))
        (nx (s.v a) (2 * j + 1)) (nx (s.v b) (2 * j + 1))
      ∃ v, (∀ j, j < 4 → vlane 32 v j = BitVec.ofNat 32 (z j).bits) ∧
        Yields (.vdot a b r) s (s.GivesVector d v (anyFlags 4 z) 2)) ∧
    (t ∈ [1#5, 2#5, 3#5] → ∃ v, (∀ i, i < 64 / w → vlane (2 * w) v i = BitVec.ofInt (2 * w) (sx (s.v a) i * sx (s.v b) i)) ∧
      Yields (.vmulw a b r) s (s.GivesVector (destOf a r) v FFlags.none 1)) ∧
    (t ∈ [8#5, 9#5, 10#5] →
      let g := if t = 10#5 then Fmt.fp64 else .fp32
      let z (i : Nat) : Rounded := deliverF g md (exactMul (inF f md (nx (s.v a) i)) (inF f md (nx (s.v b) i)))
      ∃ v, (∀ i, i < 64 / w → vlane (2 * w) v i = BitVec.ofNat (2 * w) (z i).bits) ∧
        Yields (.vmulw a b r) s (s.GivesVector (destOf a r) v (anyFlags (64 / w) z) 2))) ∧
  (∀ (α : Type) (f : α → α → α) (a b c d : α) (g h : List α), g.length = 8 → h.length = 8 →
    let four (a b c d : α) : α := f (f a b) (f c d)
    treeOf f 4 [a, b] = [f a b] ∧ treeOf f 4 [a, b, c, d] = [four a b c d] ∧
    (∀ i j k l, treeOf f 4 [a, b, c, d, i, j, k, l] = [f (four a b c d) (four i j k l)]) ∧
    ∀ u v, treeOf f 4 g = [u] → treeOf f 4 h = [v] → treeOf f 4 (g ++ h) = [f u v]) ∧
  (∀ w ∈ [8, 16, 32, 64], ∀ x y : BitVec w,
    (List.range 8).map (fun d => redInt d w x.toNat y.toNat) = [x + y, if x.toInt ≤ y.toInt then x else y, if x.toInt ≤ y.toInt then y else x,
      if x.toNat ≤ y.toNat then x else y, if x.toNat ≤ y.toNat then y else x, x &&& y, x ||| y, x ^^^ y].map (·.toNat)) ∧
  (∀ (f : Fmt) (md : Modes) (x y : Nat), redFloat 0 f md x y = fAdd f md x y ∧ redFloat 1 f md x y = fPick false f md x y ∧
    redFloat 2 f md x y = fPick true f md x y) ∧
  (∀ (md : Modes) (x : Nat), ∀ u ∈ [1#5, 2#5, 3#5, 4#5], ∀ t ∈ [1#5, 2#5, 3#5, 4#5], ∀ f ∈ [8#5, 9#5, 10#5, 11#5], ∀ g ∈ [8#5, 9#5, 10#5, 11#5],
    let lo : Int := -(2 ^ (laneWidth t - 1))
    let hi : Int := 2 ^ (laneWidth t - 1) - 1
    let lane := BitVec.ofNat (laneWidth u) x
    let v := lane.toInt
    let asLane (i : Int) : Nat := (BitVec.ofInt (laneWidth t) i).toNat
    let p := inF (fmtOfType f) md x
    let z := cvtLane f t md x
    cvtLane u t md lane.toNat = (if v < lo then ⟨asLane lo, { FFlags.none with nv := true }⟩ else if hi < v then ⟨asLane hi, { FFlags.none with nv := true }⟩
      else ⟨asLane v, FFlags.none⟩) ∧
    (fmtOfType f).Gives md v false (cvtLane u f md lane.toNat) ∧
    (p.finite → ∃ i, z.bits = asLane i ∧ IntoInt md.rm lo hi p.rat p.neg (i, z.fl)) ∧
    (∀ n, p = .inf n → z = ⟨asLane (if n then lo else hi), { FFlags.none with nv := true }⟩) ∧
    (p.isNan = true → z = ⟨0, { FFlags.none with nv := true }⟩) ∧
    cvtLane f g md x = fConvert (fmtOfType f) (fmtOfType g) md x) ∧
  (∀ f ∈ [Fmt.fp16, .bf16, .fp32], ∀ (md : Modes) (x y i j d : Nat),
    let p := inF f md x
    let q := inF f md y
    let a := inF f md i
    let b := inF f md j
    let c := inF .fp32 md d
    let g := if f = .fp32 then Fmt.fp64 else .fp32
    let product := deliverF g md (exactMul p q)
    let isInf (p : FVal) : Prop := ¬p.finite ∧ p.isNan = false
    let lost (p q : FVal) : Prop := isInf p ∧ q.isZero = true ∨ p.isZero = true ∧ isInf q
    let nan (nv : Bool) : Rounded := ⟨0x7FC00000, { FFlags.none with nv := nv }⟩
    let snan : Bool := p.isSnan || q.isSnan || a.isSnan || b.isSnan || c.isSnan
    let anyNan : Prop := p.isNan = true ∨ q.isNan = true ∨ a.isNan = true ∨ b.isNan = true ∨ c.isNan = true
    let infs (n : Bool) : Prop := c = .inf n ∨ ∃ t ∈ [(p, q), (a, b)], (t.1.neg != t.2.neg) = n ∧
      (isInf t.1 ∧ t.2.isZero = false ∧ t.2.isNan = false ∨ isInf t.2 ∧ t.1.isZero = false ∧ t.1.isNan = false)
    let z := dotFloat f md d x y i j
    (p.finite → q.finite → g.Gives md (p.rat * q.rat) (p.neg != q.neg) product) ∧
    (p.isNan = true ∨ q.isNan = true → product = ⟨g.nan false, { FFlags.none with nv := p.isSnan || q.isSnan }⟩) ∧
    (lost p q → product = ⟨g.nan false, { FFlags.none with nv := true }⟩) ∧
    (p.isNan = false → q.isNan = false → isInf p ∨ isInf q → ¬lost p q →
      product = ⟨(if p.neg != q.neg then 2 ^ (g.width - 1) else 0) + g.infBits, FFlags.none⟩) ∧
    (f ≠ .fp32 →
      (lost p q ∨ lost a b ∨ infs true ∧ infs false → z = nan true) ∧
      (anyNan → ¬lost p q → ¬lost a b → ¬(infs true ∧ infs false) → z = nan snan) ∧
      (∀ n, ¬anyNan → ¬lost p q → ¬lost a b → infs n → ¬infs (!n) → z = ⟨if n then 0xFF800000 else 0x7F800000, FFlags.none⟩) ∧
      (p.finite → q.finite → a.finite → b.finite → c.finite → Fmt.fp32.Gives md (c.rat + p.rat * q.rat + a.rat * b.rat)
        (if (p.neg != q.neg) = c.neg ∧ (a.neg != b.neg) = c.neg then c.neg else md.rm == .rdn) z)))

/-- R132, R139: a type that lies outside an instruction's set raises cause 1: at the base word where it comes from VTYPE without PFX.R, at the PFX.R
word where the group has one. -/
def Obligations.VectorTypeTrap : Prop :=
  ∀ (s : State) (a b : Reg) (r : Option RPfx) (is : IPfx) (m : Option MPfx) (pos : Nat) (w : IWord), s.Canonical →
    (if r.isSome then s.ir.findIdx? (fun x => x.toNat / 1024 == 61) = some pos else pos = s.ir.length - 1) → s.ir[pos]? = some w →
    let t := s.elem (eOf r)
    let traps (i : Instr) : Prop := Yields i s (s.Trapped ⟨1, s.me.pc, s.me.pc, BitVec.ofNat 64 (w.toNat + pos * 65536)⟩)
    (t ∉ [1#5, 2#5, 3#5, 4#5, 8#5, 9#5, 10#5, 11#5] → ∀ i ∈ [Instr.vadd a b r, .vsub a b r, .vmul a b r, .vmin a b r, .vmax a b r,
      .vabs a b r, .vneg a b r, .vceq a b r, .vclt a b r, .vcle a b r, .vsplat a b r, .vext a b r, .vins a b r, .vshuf a b r,
      .vzip a b r, .vunzip a b r, .vcvt a b r, .vred a b r], traps i) ∧
    (t ∉ [1#5, 2#5, 3#5, 4#5] → ∀ i ∈ [Instr.vmulh a b r, .vminu a b r, .vmaxu a b r, .vshl a b r, .vshr a b r, .vsar a b r,
      .vshli a b r is, .vshri a b r is, .vsari a b r is, .vcltu a b r, .vpopc a b r, .vamo a b r is m], traps i) ∧
    (t ∉ [8#5, 9#5, 10#5, 11#5] → ∀ i ∈ [Instr.vfma a b r, .vfms a b r, .vdiv a b r, .vsqrt a b r, .vrcp a b r, .vrsq a b r,
      .vexp2 a b r, .vlog2 a b r, .vsin a b r, .vcos a b r, .sredv a b r is], traps i) ∧
    (t ∉ [1#5, 2#5, 8#5, 9#5] → traps (.vdot a b r)) ∧ (t ∉ [1#5, 2#5, 3#5, 8#5, 9#5, 10#5] → traps (.vmulw a b r))

/-! ### Memory (pages 0 and 4) -/

/-- R2, R78, R85, R86, R154, R215: the loads of page 0 at a home of the own die. The value is the bytes at the home, the least significant first;
modes 01, 10 and 11 want full words, mode 10 leaves them empty. R2, R78, R85, R86, R154, R223: the stores of page 0. A strong store, and one with a
full/empty mode, is performed at once at a home of the own die: mode 01 wants full words, mode 11 wants empty ones and fills them. A store that is not
strong and has no mode enters the core's store queue and changes no memory. -/
def Obligations.LoadsAndStores : Prop :=
  (∀ (s : State) (a b : Reg) (r : Option RPfx) (is : IPfx) (m : Option MPfx) (t : Target), s.Canonical → s.Idle →
    let marks (n : Nat) : List Nat := if feOf m = 2 then wordsTouched t.pa n else []
    let counted (n : Nat) : State := { s with meter := s.meter ++ (if t.kind = 3 then [⟨t.region, false, n, s.cur⟩] else []) }
    let fits (n : Nat) : Prop := s.Reaches (s.ea b r is n) n .read t ∧ (feOf m ≠ 0 → s.AllAre (wordsTouched t.pa n) true)
    (∀ e ∈ [(Instr.ld8 a b r is m, 1, false), (.ld16 a b r is m, 2, false), (.ld32 a b r is m, 4, false), (.ld64 a b r is m, 8, false),
        (.ld8s a b r is m, 1, true), (.ld16s a b r is m, 2, true), (.ld32s a b r is m, 4, true)],
      fits e.2.1 → ¬s.me.pushes a → ∃ (x : BitVec (8 * e.2.1)) (v : State),
        (∀ i, i < e.2.1 → x.extractLsb' (8 * i) 8 = s.byte (t.pa + i)) ∧ (counted e.2.1).Marked v (marks e.2.1) false ∧
        Yields e.1 s (v.woken.GivesScalar a (if e.2.2 then x.signExtend 64 else x.setWidth 64) FFlags.none 1)) ∧
    (fits 16 → ∃ (x : VWord) (v : State),
        (∀ i, i < 16 → x.extractLsb' (8 * i) 8 = s.byte (t.pa + i)) ∧ (counted 16).Marked v (marks 16) false ∧
        Yields (.ldv a b r is m) s (v.woken.GivesVector a x FFlags.none 1))) ∧
  (∀ (s : State) (a b : Reg) (r : Option RPfx) (is : IPfx) (m : Option MPfx) (t : Target), s.Canonical → s.Idle → feOf m ≠ 2 →
    let fe := feOf m
    let c := coreOf s.cur
    ∀ e ∈ [(Instr.st8 a b r is m, 1, fun (i : Nat) => (s.r a).extractLsb' (8 * i) 8),
        (.st16 a b r is m, 2, fun i => (s.r a).extractLsb' (8 * i) 8), (.st32 a b r is m, 4, fun i => (s.r a).extractLsb' (8 * i) 8),
        (.st64 a b r is m, 8, fun i => (s.r a).extractLsb' (8 * i) 8), (.stv a b r is m, 16, fun i => (s.v a).extractLsb' (8 * i) 8)],
      let n := e.2.1
      let va := s.ea b r is n
      let ws := wordsTouched t.pa n
      s.Reaches va n .write t → (fe = 1 → s.AllAre ws true) → (fe = 3 → s.AllAre ws false) →
      (orderOf m = 0 ∨ fe ≠ 0 → s.guarded t.pa n = false → ∃ v : State, s.Stored v t.pa n ∧
        (∀ i, i < n → v.byte (t.pa + i) = e.2.2 i) ∧ (∀ w ∈ ws, v.full w = (s.full w || fe == 3)) ∧ Yields e.1 s v.Completes) ∧
      (orderOf m ≠ 0 → fe = 0 → ∃ v : State, v = { s with cores := v.cores } ∧ (∀ k, k ≠ c → v.core k = s.core k) ∧
        v.core c = { s.core c with
          q := [⟨va, t.pa, (List.range n).map fun i => some (e.2.2 i), s.me.ctx.id, clusterOf s.cur, [s.cur], []⟩] } ∧
        Yields e.1 s fun u => v.Went u s.nextPc 1 (fun x => x) ∧ v.OnlySlot u 1))

/-- R215, R216, R217, R220, R221: an atomic on full words is granted: they become empty and held, and the slot waits with the old value for its put.
R156, R215: an access that finds a bit not as it needs it, or a word held, joins the wait lists of its words and parks; nothing else changes. R215,
R217, R220, R221, Table 8.4: on the reply of a take the destination receives the old value, the put writes the new one at a home of the own die, sets
the words full and ends their hold, and the group completes. -/
def Obligations.TakesAndWaits : Prop :=
  (∀ (s : State) (a b : Reg) (r : Option RPfx) (is : IPfx) (m : Option MPfx) (t : Target), s.Canonical → s.Idle → atomicTarget t = true →
    let va := s.addrOf b is
    let y := s.r a
    let rd := destOf a r
    ∀ e ∈ [(Instr.amoadd a b r is m, 8, HomeOp.amo 16 y rd), (.amoand a b r is m, 8, .amo 17 y rd), (.amoor a b r is m, 8, .amo 18 y rd),
        (.amoxor a b r is m, 8, .amo 19 y rd), (.amomin a b r is m, 8, .amo 20 y rd), (.amomax a b r is m, 8, .amo 21 y rd),
        (.amominu a b r is m, 8, .amo 22 y rd), (.amomaxu a b r is m, 8, .amo 23 y rd), (.amoswp a b r is m, 8, .amo 24 y rd),
        (.cas a b r is m, 8, .cas y (s.r (eOf r)) a),
        (.vamo a b r is m, 16, .vamo (dOf r).toNat (laneWidth (s.elem (eOf r))) (s.v a) a)],
      let ws := wordsTouched t.pa e.2.1
      (e.2.1 = 16 → s.elem (eOf r) ∈ [1#5, 2#5, 3#5, 4#5]) → s.Reaches va e.2.1 .rmw t → s.AllAre ws true →
      Yields e.1 s fun u => ∃ x : Access,
        (x.tid = s.cur ∧ x.va = va ∧ x.pa = t.pa ∧ x.op = e.2.2 ∧ x.acq = acqOf (orderOf m) (scopeOfM m) ∧ x.ctx = s.me.ctx.id) ∧
        s.ParksAs u (.granted x (s.readNat t.pa e.2.1)) ∧ (∀ w, u.full w = if wordOf w ∈ ws then false else s.full w) ∧
        (∀ w, u.held w = if wordOf w ∈ ws then true else s.held w) ∧
        u = { s with
          threads := u.threads
          empties := u.empties
          holds := u.holds
          meter := s.meter ++ (if t.kind = 3 then [⟨t.region, false, e.2.1, s.cur⟩] else []) }) ∧
  (∀ (s : State) (a b : Reg) (r : Option RPfx) (is : IPfx) (m : Option MPfx) (t : Target), s.Canonical → s.Idle → atomicTarget t = true →
    let fe := feOf m
    let va := s.ea b r is
    let oa := s.addrOf b is
    let w := if fe = 3 then Want.empty else .full
    ∀ e ∈ [(Instr.ld8 a b r is m, va 1, 1, Need.read, Want.full, fe ≠ 0), (.ld16 a b r is m, va 2, 2, .read, .full, fe ≠ 0),
        (.ld32 a b r is m, va 4, 4, .read, .full, fe ≠ 0), (.ld64 a b r is m, va 8, 8, .read, .full, fe ≠ 0),
        (.ldv a b r is m, va 16, 16, .read, .full, fe ≠ 0), (.st8 a b r is m, va 1, 1, .write, w, fe = 1 ∨ fe = 3),
        (.st64 a b r is m, va 8, 8, .write, w, fe = 1 ∨ fe = 3), (.stv a b r is m, va 16, 16, .write, w, fe = 1 ∨ fe = 3),
        (.amoadd a b r is m, oa, 8, .rmw, .full, True), (.cas a b r is m, oa, 8, .rmw, .full, True),
        (.fput a b is m, oa, 8, .write, .empty, True)],
      let n := e.2.2.1
      let ws := wordsTouched t.pa n
      e.2.2.2.2.2 → s.Reaches e.2.1 n e.2.2.2.1 t → t.pa % n = 0 → ¬s.AllAre ws (e.2.2.2.2.1 == .full) →
      Yields e.1 s fun u => ∃ x : Access, x.tid = s.cur ∧ x.pa = t.pa ∧ x.size = n ∧ s.ParksAs u (.word x) ∧
        u = { s with threads := u.threads, waits := [⟨ws, e.2.2.2.2.1, .perform x⟩] }) ∧
  (∀ (s : State) (tid old next drops : Nat) (leapt : Bool) (x : Access), s.Canonical → s.waits = [] → s.seals = [] → s.bad = [] →
    x.tid = tid → (s.cluster (clusterOf tid)).lines = [] → homeDie x.pa = dieOf tid → s.guarded x.pa x.size = false →
    let p : Parked := ⟨.granted x old, BitVec.ofNat 64 next, drops, leapt⟩
    (s.thread tid).park = some p →
    let ws := wordsTouched x.pa x.size
    let ends (u : State) (f : Thread → Thread) : Prop :=
      s.SameOutside u x.pa x.size ∧ (∀ w, u.full w = if wordOf w ∈ ws then true else s.full w) ∧
        (∀ w, u.held w = if wordOf w ∈ ws then false else s.held w) ∧ s.Wakes u tid p f
    let o : Word := BitVec.ofNat 64 old
    let reg (rd : Reg) (u : State) : Prop :=
      let R := (u.thread tid).regs
      (¬(s.thread tid).discards rd → R.get (regIx rd) = o) ∧ (∀ q, q ≠ rd → R.get (regIx q) = (s.thread tid).regs.get (regIx q)) ∧
        ends u fun c => { c with regs := R }
    (∀ (y : Word) (rd : Reg), ¬(s.thread tid).pushes rd → x.size = 8 → x.pa % 8 = 0 →
      ∀ e ∈ [(16, o + y), (17, o &&& y), (18, o ||| y), (19, o ^^^ y), (20, if o.toInt ≤ y.toInt then o else y),
          (21, if o.toInt ≤ y.toInt then y else o), (22, if o.toNat ≤ y.toNat then o else y), (23, if o.toNat ≤ y.toNat then y else o),
          (24, y)],
        x.op = .amo e.1 y rd → Yields (.pt tid) s fun u => u.word x.pa = e.2 ∧ reg rd u) ∧
    (∀ (y z : Word) (rd : Reg), ¬(s.thread tid).pushes rd → x.size = 8 → x.pa % 8 = 0 → x.op = .cas y z rd →
      Yields (.pt tid) s fun u => u.word x.pa = (if o = y then z else o) ∧ reg rd u) ∧
    ∀ (sel w : Nat) (y : VWord) (vd : Reg), x.size = 16 → x.pa % 16 = 0 → x.op = .vamo sel w y vd → w ∈ [8, 16, 32, 64] → old < 2 ^ 128 →
      let v : VWord := BitVec.ofNat 128 old
      ∃ z : VWord, (sel = 0 → z = v ||| y) ∧ (sel = 1 → z = v &&& y) ∧ (sel = 2 → z = v ^^^ y) ∧
        (sel = 3 → ∀ i, i < 128 / w → vlane w z i = vlane w v i + vlane w y i) ∧
        Yields (.pt tid) s fun u => u.word (x.pa + 8) ++ u.word x.pa = z ∧
          let V := (u.thread tid).vregs
          V.get (regIx vd) = v ∧ (∀ q, q ≠ vd → V.get (regIx q) = (s.thread tid).vregs.get (regIx q)) ∧
            ends u fun c => { c with vregs := V })

/-- R157, R184 to R189, Table 7.5: FINIT, FWAIT, FPUT, LOCK, UNLOCK and EMPTY where they can be performed. R193 to R196, R199, R201, Table
7.7: FWAIT and LOCK on a word that is not ready, by the owner word: no task, the wait joins the list; one of the slot's own tasks, cause 19; a task
that has ended, cause 12; an unstarted task of the slot's die below depth 4 is adopted: the adoption frame is stored at WSP, the entry is RUNNING with
ADOPTED set, WSP and ADEPTH go up, and the owner starts in the slot; at depth 4, or for one of another die, the wait joins the list; a frame that
cannot be stored raises cause 18 with SINFO 1. -/
def Obligations.CellsAndLocks : Prop :=
  (∀ (s : State) (a b : Reg) (is : IPfx) (m : Option MPfx) (t : Target), s.Canonical → s.Idle → atomicTarget t = true →
    let va := s.addrOf b is
    let c := t.pa
    let x := s.r a
    let n := x.toNat
    let at16 (need : Need) : Prop := s.Reaches va 16 need t ∧ c % 16 = 0
    let free : State := { s with meter := s.meter ++ (if t.kind = 3 then [⟨t.region, false, 8, s.cur⟩] else []) }
    (at16 .write → s.guarded c 16 = false → ∃ v : State, s.Stored v c 16 ∧ v.word c = 0 ∧ v.full c = false ∧ v.word (c + 8) = x ∧
      v.full (c + 8) = true ∧ Yields (.finit a b is m) s v.Completes) ∧
    (at16 .read → s.AllAre [c] true → ¬s.me.pushes a →
      Yields (.fwait a b is m) s (free.woken.GivesScalar a (s.word c) FFlags.none 1)) ∧
    (s.Reaches va 8 .write t → c % 8 = 0 → s.AllAre [c] false → s.guarded c 8 = false → ∃ v : State, s.Stored v c 8 ∧ v.word c = x ∧
      v.full c = true ∧ Yields (.fput a b is m) s v.Completes) ∧
    (at16 .rmw → s.AllAre [c] true → ¬s.me.pushes a → s.guarded c 16 = false → ∃ v : State, s.Stored v c 16 ∧ v.word c = s.word c ∧
      v.full c = false ∧ v.word (c + 8) = s.me.taskh ∧ v.full (c + 8) = s.full (c + 8) ∧
      Yields (.lock a b is m) s (v.woken.GivesScalar a (s.word c) FFlags.none 1)) ∧
    (at16 .write → s.full c = true → Yields (.unlock a b is m) s s.Completes) ∧
    (at16 .write → s.full c = false → s.guarded c 16 = false → ∃ v : State, s.Stored v c 16 ∧ v.word c = x ∧ v.full c = true ∧
      v.word (c + 8) = 0 ∧ v.full (c + 8) = s.full (c + 8) ∧ Yields (.unlock a b is m) s v.Completes) ∧
    (n = 0 → Yields (.empty a b is m) s fun u => s.Went u s.nextPc 1 (fun y => y) ∧ s.OnlySlot u 1) ∧
    (0 < n → va.toNat % 8 = 0 → n ≤ 512 → va.extractLsb' 12 36 = (va + BitVec.ofNat 64 (8 * n - 1)).extractLsb' 12 36 →
      s.Reaches va 8 .write t → s.guarded c (8 * n) = false → ∃ v : State, s.Marked v (wordsTouched c (8 * n)) false ∧
      Yields (.empty a b is m) s v.Completes) ∧
    (0 < n → va.toNat % 8 ≠ 0 ∨ 512 < n ∨ va.extractLsb' 12 36 ≠ (va + BitVec.ofNat 64 (8 * n - 1)).extractLsb' 12 36 → Yields (.empty a b is m) s (s.Trapped ⟨3, s.me.pc, va, 0⟩))) ∧
  (∀ (s : State) (a b : Reg) (is : IPfx) (m : Option MPfx) (t : Target), s.Canonical → s.Idle → atomicTarget t = true →
    let va := s.addrOf b is
    let c := t.pa
    let h := s.word (c + 8)
    ∀ e ∈ [(Instr.fwait a b is m, 1, Need.read), (.lock a b is m, 2, .rmw)],
      s.Reaches va 16 e.2.2 t → c % 16 = 0 → s.AllAre [c] false →
      (s.me.ctx.validHandle h = false → Yields e.1 s fun u => ∃ x : Access, x.tid = s.cur ∧ x.pa = c ∧ s.ParksAs u (.word x) ∧
        u = { s with threads := u.threads, waits := [⟨[c], .full, .perform x⟩] }) ∧
      (s.me.ctx.validHandle h = true →
        (∀ d, s.me.ownTask h = some d → Yields e.1 s (s.Trapped ⟨19, s.me.pc, h, BitVec.ofNat 64 (e.2.1 + d * 8)⟩)) ∧
        (∀ pa, s.me.ownTask h = none → s.taskPa s.me.ctx (handleIndex h) = some pa → bits (s.word pa) 63 48 = bits h 63 48 →
          (taskStateOf (s.word pa) = .done → Yields e.1 s (s.Trapped ⟨12, s.me.pc, h, BitVec.ofNat 64 (e.2.1 + 4 * 8)⟩)) ∧
          (taskStateOf (s.word pa) = .failed → Yields e.1 s (s.Trapped ⟨12, s.me.pc, h, BitVec.ofNat 64 (e.2.1 + 5 * 8)⟩))) ∧
        (∀ pa, s.me.ownTask h = none → s.liveEntry s.me.ctx h = some pa → taskStateOf (s.word pa) = .unstarted →
          let y := s.me
          let here : Prop := bits (s.word (pa + 8)) 50 48 = dieOf s.cur
          (¬here ∨ 4 ≤ y.adepth → Yields e.1 s fun u => ∃ x : Access, x.tid = s.cur ∧ x.pa = c ∧ s.ParksAs u (.word x) ∧
            u = { s with threads := u.threads, waits := [⟨[c], .full, .perform x⟩] }) ∧
          ∀ p, here → y.adepth < 4 → s.packetOfTask (s.word (pa + 8)) h y.ctx.id = some p → y.frames = [] →
            (y.wsp = 0 → Yields e.1 s (s.Trapped ⟨18, y.pc, 0, 1⟩)) ∧
            (y.wsp ≠ 0 → s.frameLoc s.cur y.wsp .write = none → Yields e.1 s (s.Trapped ⟨18, y.pc, y.wsp, 1⟩)) ∧
            ∀ fpa, y.wsp ≠ 0 → s.frameLoc s.cur y.wsp .write = some ⟨fpa, 128, 0⟩ → y.pendTrap = none → y.qbnd = 0 → y.preempts = [] →
              y.migr = none → s.guarded pa 16 = false →
              let w (i : Nat) : Word := p.words.get (Fin.ofNat 8 i)
              let entry : Word := ((w 0).extractLsb' 0 48).setWidth 64
              Yields e.1 s fun u => u = { s with threads := u.threads, cores := u.cores, mem := u.mem } ∧
                (∀ n, n ≠ s.cur → u.thread n = s.thread n) ∧ (∀ k, k ≠ coreOf s.cur → u.core k = s.core k) ∧
                u.core (coreOf s.cur) = { s.core (coreOf s.cur) with q := (u.core (coreOf s.cur)).q } ∧
                u.word pa = (s.word pa).extractLsb' 48 16 ++ 0#37 ++ (s.word pa).extractLsb' 8 3 ++ 1#1 ++ 0#4 ++ 2#3 ∧
                u.word (pa + 8) = BitVec.ofNat 64 (3 * 2 ^ 60 + dieOf s.cur * 2 ^ 48 + s.cur) ∧ s.SameOutside u pa 16 ∧
                (∀ z ∈ (u.core (coreOf s.cur)).q, fpa ≤ z.pa ∧ z.pa + z.bytes.length ≤ fpa + 1024) ∧
                (∀ f ∈ [(0, y.pc), (1, y.taskh), (2, BitVec.ofNat 64 y.depth), (3, y.fctl), (4, y.vtype), (5, y.fmt), (6, y.scp),
                    (7, BitVec.ofNat 64 (y.rank.toNat + y.tsr.lost.toNat * 1024 + y.tsr.cut.toNat * 512 + y.tsr.leap.toNat * 256)),
                    (8, y.codeid.setWidth 64), (9, y.qbnd.setWidth 64), (10, y.tvec), (11, y.tepc), (12, y.tcause), (13, y.taddr), (14, y.tinfo),
                    (15, y.leaph.word)], u.peekWord s.cur (fpa + 8 * f.1) = f.2) ∧
                (∀ i : Fin 32, i.val ≠ 0 → u.peekWord s.cur (fpa + 8 * (16 + i.val)) = y.regs.get i) ∧
                (∀ i : Fin 32, u.peekWord s.cur (fpa + 8 * (48 + 2 * i.val)) = (y.vregs.get i).extractLsb' 0 64 ∧
                  u.peekWord s.cur (fpa + 8 * (49 + 2 * i.val)) = (y.vregs.get i).extractLsb' 64 64) ∧
                (∀ i : Fin 32, (u.thread s.cur).regs.get i = if 8 ≤ i.val ∧ i.val < 12 then w (i.val - 7) else 0) ∧
                u.thread s.cur = { Thread.free with
                  state := .running
                  pc := entry
                  regs := (u.thread s.cur).regs
                  wsp := y.wsp + 1024
                  tsr := { Thread.free.tsr with adopted := true }
                  fmt := w 5 &&& fmtMask
                  scp := w 6 &&& scpMask
                  taskh := p.handle
                  rank := p.rank
                  adepth := y.adepth + 1
                  pondid := y.pondid
                  codeid := s.codeFor p.ctx.id entry
                  ctx := y.ctx
                  parent := p.parent
                  levels := ⟨y.pc, y.taskh, y.parent, y.unit, y.leaph, y.leaph.state == .active, false, none, y.tsr.priv, y.tsr.migrated⟩ :: y.levels
                  issuedAt := y.issuedAt
                  wokenAt := s.now })))

/-- R183, R190, R191: QPUSH, QRES and QPOP on a queue object; a full or empty queue parks the group until its index moves. R175, Table 6.8: QBIND
writes A[7:0] to QBND; a queue it names becomes its context's, one that no slot of the core binds any longer is emptied and released; a queue of
another context raises cause 5. -/
def Obligations.QueueObjectsAndBindings : Prop :=
  (∀ (s : State) (a b : Reg) (r : Option RPfx) (is : IPfx) (m : Option MPfx) (t : Target) (i : Nat) (y : Target), s.Canonical → s.Idle →
    atomicTarget t = true → s.Reaches (s.addrOf b is) 32 .rmw t → s.me.g6 = none → s.me.g7en = false →
    let va := s.addrOf b is
    let c := t.pa
    let e := y.pa
    let head := s.word c
    let tail := s.word (c + 8)
    let cap := (s.word (c + 16)).toNat % 2 ^ 32
    let used := (tail - head).toNat
    let entry (k : Word) : Prop := i = k.toNat ∧ (∀ x : Access, x.tid = s.cur → x.va = va → x.pa = c → s.queueEntry x i = .ok y)
    let apart : Prop := c % 32 = 0 ∧ e % 16 = 0 ∧ (e + 16 ≤ c ∨ c + 32 ≤ e)
    let waits (i : Instr) (w : Nat) : Prop := Yields i s fun u => s.ParksAs u .queueWord ∧
      u = { s with threads := u.threads, waits := [⟨[w], .woken, .again s.cur⟩] }
    let only (v : State) : Prop := v = { s with mem := v.mem, empties := v.empties } ∧
      ∀ p, (p < c ∨ c + 32 ≤ p) → (p < e ∨ e + 16 ≤ p) → v.byte p = s.byte p ∧ v.full p = s.full p
    let free (v : State) : State := { v with meter := s.meter ++ (if t.kind = 3 then [⟨t.region, false, 8, s.cur⟩] else []) }
    (entry tail → va.toNat < 2 ^ 32 → e = c + 32 + 16 * (i % cap)) ∧
    (entry tail → apart → used < cap → ∃ v : State, only v ∧ v.word e = s.r a ∧ v.full e = true ∧ v.word (e + 8) = 0 ∧
      v.word (c + 8) = tail + 1 ∧ v.word c = head ∧ Yields (.qpush a b is m) s v.Completes) ∧
    (entry tail → apart → used < cap → ¬s.me.pushes a → ∃ v : State, only v ∧ v.word e = 0 ∧ v.full e = false ∧
      v.word (e + 8) = (match r with | some x => s.r x.e | none => s.me.taskh) ∧ v.word (c + 8) = tail + 1 ∧ v.word c = head ∧
      Yields (.qres a b r is m) s (v.woken.GivesScalar a (va + BitVec.ofNat 64 (32 + 16 * (i % cap))) FFlags.none 1)) ∧
    (entry tail → cap ≤ used → waits (.qpush a b is m) (c + 8) ∧ waits (.qres a b r is m) (c + 8)) ∧
    (entry head → apart → head ≠ tail → s.AllAre [e] true → ¬s.me.pushes a → ∃ v : State, only v ∧ v.word e = s.word e ∧
      v.full e = false ∧ v.word c = head + 1 ∧ v.word (c + 8) = tail ∧
      Yields (.qpop a b is m) s ((free v).woken.GivesScalar a (s.word e) FFlags.none 1)) ∧
    (entry head → head = tail → waits (.qpop a b is m) c) ∧
    (cap = 0 ∨ 65536 < cap → Yields (.qpush a b is m) s (s.Trapped ⟨7, s.me.pc, va, 0⟩) ∧
      Yields (.qres a b r is m) s (s.Trapped ⟨7, s.me.pc, va, 0⟩) ∧ Yields (.qpop a b is m) s (s.Trapped ⟨7, s.me.pc, va, 0⟩))) ∧
  (∀ (s : State) (a b : Reg), s.Canonical →
    let v := s.r a
    let c := coreOf s.cur
    let t := s.me
    let binds (x : BitVec 8) (q : Nat) : Prop :=
      (x.getLsbD 3 = true ∧ (x.extractLsb' 0 3).toNat = q) ∨ (x.getLsbD 7 = true ∧ (x.extractLsb' 4 3).toNat = q)
    let x : BitVec 8 := v.extractLsb' 0 8
    (∀ q o, binds x q → (s.hwq c q).owner = some o → o ≠ t.ctx.id → Yields (.qbind a b) s (s.Trapped ⟨5, t.pc, v, 0⟩)) ∧
    ((∀ q o, binds x q → (s.hwq c q).owner = some o → o = t.ctx.id) → Yields (.qbind a b) s fun u =>
      ∃ w : State, w = { s with cores := w.cores } ∧ w.Performs 0 (fun y => { y with qbnd := x }) u ∧
        (∀ k, k ≠ c → w.core k = s.core k) ∧
        ∀ q, q < 8 →
          (binds x q → w.hwq c q = { s.hwq c q with owner := some t.ctx.id }) ∧
          (¬binds x q → binds t.qbnd q → (∀ n ∈ slotsOf c, n ≠ s.cur → ¬binds (s.thread n).qbnd q) → w.hwq c q = ⟨none, []⟩) ∧
          (¬binds x q → ¬binds t.qbnd q ∨ (∃ n ∈ slotsOf c, n ≠ s.cur ∧ binds (s.thread n).qbnd q) → w.hwq c q = s.hwq c q)))

/-- R168, R172, R173, R174: JOINI, BARI, and BAR, which arrives and advances a complete phase, or waits. -/
def Obligations.CountersAndBarriers : Prop :=
  ∀ (s : State) (a b : Reg) (r : Option RPfx) (is : IPfx) (m : Option MPfx) (t : Target), s.Canonical → s.Idle → atomicTarget t = true →
    let va := s.addrOf b is
    let c := t.pa
    let x := s.r a
    let y := s.r (eOf r)
    let w (i : Nat) : Word := s.word (c + 8 * i)
    let lo (z : Word) : Nat := z.toNat % 2 ^ 24
    let holds (v : State) (q0 q1 q2 q3 : Word) : Prop := v.word c = q0 ∧ v.word (c + 8) = q1 ∧ v.word (c + 16) = q2 ∧ v.word (c + 24) = q3
    (s.Reaches va 16 .write t → c % 16 = 0 → s.guarded c 16 = false → ∃ v : State, s.Stored v c 16 ∧ v.word c = x ∧
      v.word (c + 8) = y ∧ v.full c = true ∧ v.full (c + 8) = true ∧ Yields (.joini a b r is m) s v.Completes) ∧
    (s.Reaches va 32 .write t → c % 32 = 0 → s.guarded c 32 = false → s.barWaiters c = [] → ∃ v : State, s.Stored v c 32 ∧
      holds v (BitVec.ofNat 64 (lo x)) (BitVec.ofNat 64 (lo y)) 0 (BitVec.ofNat 64 (lo y * 2 ^ 40 + lo x)) ∧
      (∀ i, i < 4 → v.full (c + 8 * i) = true) ∧ Yields (.bari a b r is m) s v.Completes) ∧
    (s.Reaches va 32 .rmw t → c % 32 = 0 → s.guarded c 32 = false → s.barWaiters c = [] → s.me.barWait = none → ¬s.me.pushes a →
      (w 0 = 1 → w 1 = 0 → ∃ v : State, s.Stored v c 32 ∧ holds v (BitVec.ofNat 64 (lo (w 3))) (BitVec.ofNat 64 ((w 3).toNat / 2 ^ 40)) (w 2 + 1) (w 3) ∧
        Yields (.bar a b is m) s (v.woken.GivesScalar a (w 2) FFlags.none 1)) ∧
      (w 0 ≠ 0 → ¬(w 0 = 1 ∧ w 1 = 0) → ∃ (v : State) (z : Access), s.Stored v c 32 ∧ holds v (w 0 - 1) (w 1) (w 2) (w 3) ∧ z.tid = s.cur ∧
        z.pa = c ∧ Yields (.bar a b is m) s fun u => s.ParksAs u (.barWait z (w 2)) ∧ u = { v with threads := u.threads }) ∧
      (w 0 = 0 → ∃ z : Access, z.tid = s.cur ∧ z.pa = c ∧ Yields (.bar a b is m) s fun u => s.ParksAs u (.barWait z (w 2)) ∧
        u = { s with threads := u.threads }))

/-- R313 to R317: SREDI, SRED, SREDV and SREDF on a cell in device memory of the own die. -/
def Obligations.ReductionCells : Prop :=
  ∀ (s : State) (a b : Reg) (r : Option RPfx) (is : IPfx) (m : Option MPfx) (t : Target), s.Canonical → s.Idle →
    storageOf t.pa = .device → t.pa % 32 = 0 → s.guarded t.pa 32 = false →
    let va := s.addrOf b is
    let c := t.pa
    let w0 := s.word c
    let emax := (w0.setWidth 16).toInt
    let acc : BitVec 128 := s.word (c + 24) ++ s.word (c + 16)
    let e := ((s.r a).setWidth 16).toInt
    let clamped : Int := if e < -1074 then -1074 else if 1024 < e then 1024 else e
    let posts (i : Instr) (v : State) : Prop := Yields i s fun u => v.Went u s.nextPc 1 (fun x => x) ∧ v.OnlySlot u 1
    let ty := floatType (eOf r)
    let tv := s.elem (eOf r)
    let free : State := { s with meter := s.meter ++ (if t.kind = 3 then [⟨t.region, false, 32, s.cur⟩] else []) }
    (s.Reaches va 32 .write t → ∃ v : State, s.Stored v c 32 ∧ v.word c = ((BitVec.ofInt 16 clamped).setWidth 64) ∧ v.word (c + 8) = 0 ∧
      v.word (c + 16) = 0 ∧ v.word (c + 24) = 0 ∧ (∀ i, i < 4 → v.full (c + 8 * i) = true) ∧ Yields (.sredi a b is m) s v.Completes) ∧
    (s.Reaches va 32 .rmw t →
      (ty ∈ [8#5, 9#5, 10#5, 11#5] → posts (.sred a b r is)
        (s.contribute c (decodeF (fmtOfType ty) ((s.r a).toNat % 2 ^ (fmtOfType ty).width)))) ∧
      (tv ∈ [8#5, 9#5, 10#5, 11#5] → posts (.sredv a b r is)
        ((List.range (128 / laneWidth tv)).foldl (fun u i => u.contribute c (decodeF (fmtOfType tv) (vlane (laneWidth tv) (s.v a) i).toNat)) s))) ∧
    (s.Reaches va 32 .read t → ¬s.me.pushes a → Yields (.sredf a b is m) s (free.woken.GivesScalar a
      (if w0.getLsbD 16 ∨ w0.getLsbD 17 then 0x7FF8000000000000#64
       else BitVec.ofNat 64 (encodeRound .fp64 .rne false false (.fin (decide (acc.toInt < 0)) acc.toInt.natAbs (emax - 107))).bits)
      FFlags.none 1)) ∧
    ∀ x : FVal,
      let u := s.contribute c x
      let kept : Prop := u.word (c + 8) = s.word (c + 8) ∧ s.SameOutside u c 32 ∧ u = { s with mem := u.mem }
      kept ∧ ((∀ n p q, x ≠ .fin n p q) → u.word c = w0 ||| 0x10000#64 ∧ u.word (c + 24) ++ u.word (c + 16) = acc) ∧
      ∀ n p q, x = .fin n p q →
        (p ≠ 0 → ltPow2 p q (emax + 1) = false → u.word c = w0 ||| 0x10000#64 ∧ u.word (c + 24) ++ u.word (c + 16) = acc) ∧
        (p = 0 ∨ ltPow2 p q (emax + 1) = true →
          (w0.extractLsb' 32 32 = BitVec.ofNat 32 (2 ^ 19 - 1) → u.word c = w0 ||| 0x20000#64 ∧ u.word (c + 24) ++ u.word (c + 16) = acc) ∧
          (w0.extractLsb' 32 32 ≠ BitVec.ofNat 32 (2 ^ 19 - 1) → u.word c = w0 + 0x100000000#64 ∧
            u.word (c + 24) ++ u.word (c + 16) = acc + BitVec.ofInt 128 (signedOf n (roundUnits .rne n p (q - (emax - 107))))))

/-- Table 1.8, Table 3.6, R78, R327, R329: the address checks of an access, step by step, and the trap that a failed one raises. R327, R328, R330: a
walk reads one entry at each level, in device memory; an entry that R328 calls not present ends it. -/
def Obligations.AddressChecksAndWalks : Prop :=
  (∀ (s : State) (a b : Reg) (r : Option RPfx) (is : IPfx) (m : Option MPfx), s.Canonical →
    let check (va : Word) (n : Nat) (need : Need) : Check := s.check s.cur s.me.ctx s.me.tsr.priv va n need
    (∀ e ∈ [(Instr.ld8 a b r is m, s.ea b r is 1, 1, Need.read), (.ld16 a b r is m, s.ea b r is 2, 2, .read),
        (.ld32 a b r is m, s.ea b r is 4, 4, .read), (.ld64 a b r is m, s.ea b r is 8, 8, .read),
        (.ld8s a b r is m, s.ea b r is 1, 1, .read), (.ld16s a b r is m, s.ea b r is 2, 2, .read),
        (.ld32s a b r is m, s.ea b r is 4, 4, .read), (.ldv a b r is m, s.ea b r is 16, 16, .read),
        (.st8 a b r is m, s.ea b r is 1, 1, .write), (.st16 a b r is m, s.ea b r is 2, 2, .write),
        (.st32 a b r is m, s.ea b r is 4, 4, .write), (.st64 a b r is m, s.ea b r is 8, 8, .write),
        (.stv a b r is m, s.ea b r is 16, 16, .write), (.amoadd a b r is m, s.addrOf b is, 8, .rmw), (.cas a b r is m, s.addrOf b is, 8, .rmw),
        (.finit a b is m, s.addrOf b is, 16, .write), (.fwait a b is m, s.addrOf b is, 16, .read), (.fput a b is m, s.addrOf b is, 8, .write),
        (.lock a b is m, s.addrOf b is, 16, .rmw), (.unlock a b is m, s.addrOf b is, 16, .write), (.qpush a b is m, s.addrOf b is, 32, .rmw),
        (.qpop a b is m, s.addrOf b is, 32, .rmw), (.qres a b r is m, s.addrOf b is, 32, .rmw), (.joini a b r is m, s.addrOf b is, 16, .write),
        (.bari a b r is m, s.addrOf b is, 32, .write), (.bar a b is m, s.addrOf b is, 32, .rmw)],
      ∀ c x, c ≠ 14 → check e.2.1 e.2.2.1 e.2.2.2 = .trap c x → Yields e.1 s (s.Trapped ⟨c, s.me.pc, x, 0⟩)) ∧
    ∀ (va : Word) (n : Nat) (need : Need),
      let v := va.toNat
      let k := check va n need
      let plain (pa : Nat) : Prop := k = if need = .fetch then .trap 5 va else .ok ⟨pa, 0, 0, 15, true, false, pa, 1⟩
      let peer := (v - 0x800000) % 0x20000
      (2 ^ 48 ≤ v ∨ v % n ≠ 0 → k = .trap 3 va) ∧
      (v % n = 0 → isCtl s.cur = false →
        (v < 0x1C000 → plain (tcmPa (coreOf s.cur) v)) ∧
        (0x800000 ≤ v → v < 0xE00000 → peer < 0x1C000 → plain (tcmPa (clusterOf s.cur * 64 + (v - 0x800000) / 0x20000) peer)) ∧
        (0x1000000 ≤ v → v < 0x2000000 → plain (spadPa (clusterOf s.cur) (v - 0x1000000))) ∧
        (0x10000000 ≤ v → v < 0x18000000 → plain (sramPa (dieOf s.cur) (v - 0x10000000))) ∧
        ((0x1C000 ≤ v ∧ v < 0x800000) ∨ (0x800000 ≤ v ∧ v < 0xE00000 ∧ 0x1C000 ≤ peer) ∨ (0xE00000 ≤ v ∧ v < 0x1000000) ∨
          (0x2000000 ≤ v ∧ v < 0x10000000) ∨ (0x18000000 ≤ v ∧ v < 2 ^ 32) → k = .trap 5 va)) ∧
      (v % n = 0 → 2 ^ 32 ≤ v → v < 2 ^ 48 →
        (s.xlate s.cur s.me.ctx v = .absent → k = .trap 4 va) ∧ (∀ pa, s.xlate s.cur s.me.ctx v = .bad pa → k = .trap 14 va) ∧
        ∀ e span, s.xlate s.cur s.me.ctx v = .leaf e span →
          let pa := leafPa e + v % span
          let allowed : Prop := (s.me.tsr.priv = true ∨ e.getLsbD 5 = true) ∧ (need = .read → e.getLsbD 2 = true) ∧
            (need = .write → e.getLsbD 3 = true) ∧ (need = .rmw → e.getLsbD 2 = true ∧ e.getLsbD 3 = true) ∧
            (need = .fetch → e.getLsbD 4 = true ∧ e.getLsbD 5 = !s.me.tsr.priv)
          (storageOf pa = .nothing → k = .trap 4 va) ∧ (storageOf pa ≠ .nothing → ¬allowed → k = .trap 5 va) ∧
          (storageOf pa ≠ .nothing → allowed → storageOf pa = .spad ∨ (need = .fetch ∧ storageOf pa ≠ .device) → k = .trap 5 va) ∧
          (storageOf pa ≠ .nothing → allowed → storageOf pa ≠ .spad → (need = .fetch → storageOf pa = .device) →
            k = .ok ⟨pa, (e.extractLsb' 6 3).toNat, (e.extractLsb' 52 12).toNat, (e.extractLsb' 2 4).toNat, false, false,
              leafPa e, span⟩))) ∧
  (∀ (s : State) (root : Word) (va : Nat), s.bad = [] →
    let field (w : Word) (lo n : Nat) : Nat := w.toNat / 2 ^ lo % 2 ^ n
    let at0 := field root 12 40 * 4096 + 8 * (va / 2 ^ 39 % 512)
    let e0 := s.word at0
    let at1 := field e0 8 44 * 256 + 8 * (va / 2 ^ 30 % 512)
    let e1 := s.word at1
    let at2 := field e1 8 44 * 256 + 8 * (va / 2 ^ 21 % 512)
    let e2 := s.word at2
    let at3 := field e2 8 44 * 256 + 8 * (va / 2 ^ 16 % 32)
    let e3 := s.word at3
    let pointer (e : Word) (size : Nat) : Prop := e.getLsbD 0 = true ∧ e.getLsbD 1 = false ∧ field e 2 6 = 0 ∧ field e 52 12 = 0 ∧
      field e 8 44 * 256 % size = 0
    let leaf (e : Word) (span : Nat) : Prop := e.getLsbD 0 = true ∧ e.getLsbD 1 = true ∧ field e 9 7 = 0 ∧ field e 16 36 * 65536 % span = 0 ∧
      field e 6 3 ≤ 4 ∧ (field e 52 12 = 0 ∨ field e 6 3 = 3) ∧
      (field e 6 3 = 4 ↔ 0xA000000000000 ≤ field e 16 36 * 65536 ∧ field e 16 36 * 65536 < 0xA000000000000 + 2 ^ 48)
    let inside (a : Nat) : Prop := storageOf a = .device
    let w := s.walk root va
    (¬inside at0 ∨ ¬pointer e0 4096 → w = .absent) ∧
    (inside at0 → pointer e0 4096 →
      (leaf e1 (2 ^ 30) → inside at1 → w = .leaf e1 (2 ^ 30)) ∧
      (¬inside at1 ∨ (¬leaf e1 (2 ^ 30) ∧ ¬pointer e1 4096) → w = .absent) ∧
      (inside at1 → pointer e1 4096 →
        (leaf e2 (2 ^ 21) → inside at2 → w = .leaf e2 (2 ^ 21)) ∧
        (¬inside at2 ∨ (¬leaf e2 (2 ^ 21) ∧ ¬pointer e2 256) → w = .absent) ∧
        (inside at2 → pointer e2 256 →
          (leaf e3 (2 ^ 16) → inside at3 → w = .leaf e3 (2 ^ 16)) ∧ (¬inside at3 ∨ ¬leaf e3 (2 ^ 16) → w = .absent)))))

/-- R79, R210, R223, R224: a relaxed load in mode ignore takes each byte from the youngest store of its core's queue that has it, else from its
cluster's write buffer, else, on an RC page, from a read-cache line, else from its home. R210, R211, R224, R225, R384: QD moves the oldest store of a
queue into the write buffer, which holds one entry a word; BD and ND perform a store at its home or pass it on; CF and CE fill and drop a read-cache
line. R227, R230, R232: FENCE completes; one of acquire order and die scope or wider drops the read cache, one of release order and cluster scope or wider
empties the store queue, and of die scope or wider the write buffer, each of whose bytes is then at its home; one of system scope waits for frames of
its context that are not acknowledged. That a release drains in one step, and which line a full read cache drops, are the model's choices (logs 15
and 67). -/
def Obligations.BuffersAndFences : Prop :=
  (∀ (s : State) (a b : Reg) (r : Option RPfx) (is : IPfx) (m : Option MPfx) (t : Target), s.Canonical → isCtl s.cur = false → s.waits = [] →
    s.bad = [] → orderOf m = 1 → feOf m = 0 → t.kind ≠ 3 → s.Reaches (s.ea b r is 8) 8 .read t → ¬s.me.pushes a →
    let q := (s.core (coreOf s.cur)).q
    let w := (s.cluster (clusterOf s.cur)).w
    let lines := (s.cluster (clusterOf s.cur)).lines
    let byte (p : Nat) : Byte := (s.forwardByte s.cur (t.kind == 1) p).getD (s.byte p)
    (∃ x : Word, (∀ i, i < 8 → x.extractLsb' (8 * i) 8 = byte (t.pa + i)) ∧
      Yields (.ld64 a b r is m) s (s.woken.GivesScalar a x FFlags.none 1)) ∧
    ∀ p v,
      (∀ q1 e q2, q = q1 ++ e :: q2 → e.at p = some v → (∀ x ∈ q2, x.at p = none) → byte p = v) ∧
      ((∀ x ∈ q, x.at p = none) →
        (∀ w1 e w2, w = w1 ++ e :: w2 → e.at p = some v → (∀ x ∈ w2, x.at p = none) → byte p = v) ∧
        ((∀ x ∈ w, x.at p = none) → (t.kind ≠ 1 ∨ (∀ l ∈ lines, p < l.pa ∨ l.pa + 128 ≤ p) → byte p = s.byte p) ∧
          ∀ l, t.kind = 1 → lines = [l] → l.pa ≤ p → p < l.pa + 128 → l.bytes[p - l.pa]? = some v → byte p = v))) ∧
  (∀ (s : State) (core cluster index src dst line : Nat) (e : Store), s.Canonical → s.waits = [] → s.seals = [] → s.bad = [] →
    e.saved = [] → s.guarded e.pa e.bytes.length = false →
    let w := (s.cluster (core / 64)).w
    let performed (u : State) : Prop := ∀ a, u.byte a = (e.at a).getD (s.byte a)
    let sent (u : State) : Prop := (u.cluster cluster).w = (s.cluster cluster).w.filter (fun x => x != e) ∧
      (∀ l, l ∈ (u.cluster cluster).lines ↔ l ∈ (s.cluster cluster).lines ∧ overlaps l.pa 128 e.pa e.bytes.length = false) ∧
      u.threads = s.threads ∧ u.cores = s.cores ∧ u.empties = s.empties
    let chan (u : State) (d k : Nat) : List ChanItem := Table.get [] u.chans (d * 8 + k)
    ((s.core core).q = [] → Yields (.qd core) s (· = s)) ∧
    (∀ rest, (s.core core).q = e :: rest → (∀ a, (w.filter fun x => (x.at a).isSome).length ≤ 1) → Yields (.qd core) s fun u =>
      (u.core core).q = rest ∧ (∀ a, youngest a (u.cluster (core / 64)).w = (e.at a).orElse fun _ => youngest a w) ∧
      (∀ k, k ≠ core / 64 → u.cluster k = s.cluster k) ∧ (∀ k, k ≠ core → u.core k = s.core k) ∧ u.mem = s.mem) ∧
    ((s.cluster cluster).w[index]? = some e → homeDie e.pa = cluster / 16 → Yields (.bd cluster index) s fun u => sent u ∧ performed u ∧ u.chans = s.chans) ∧
    ((s.cluster cluster).w[index]? = some e → homeDie e.pa ≠ cluster / 16 → Yields (.bd cluster index) s fun u => sent u ∧ u.mem = s.mem ∧
      u.chans = Table.set [] (cluster / 16 * 8 + homeDie e.pa) (chan s (cluster / 16) (homeDie e.pa) ++ [.store e]) s.chans) ∧
    (∀ rest, src < 8 → dst < 8 → s.routeOpen src dst = true → chan s src dst = .store e :: rest → Yields (.nd src dst) s fun u =>
      performed u ∧ u.chans = Table.set [] (src * 8 + dst) rest s.chans ∧ u.threads = s.threads ∧ u.empties = s.empties) ∧
    (∀ ctx va, s.rcPage cluster (line * 128) = some (ctx, va) → s.lineFree cluster (line * 128) = true → Yields (.cf cluster line) s fun u =>
      u = { s with clusters := u.clusters } ∧ (∀ k, k ≠ cluster → u.cluster k = s.cluster k) ∧ u.cluster cluster = { s.cluster cluster with
        lines := (⟨line * 128, (List.range 128).map (fun i => s.byte (line * 128 + i)), ctx, va⟩ ::
          (s.cluster cluster).lines.filter (fun l => l.pa != line * 128)).take (2 ^ 22 / 128) }) ∧
    (s.rcPage cluster (line * 128) = none ∨ s.lineFree cluster (line * 128) = false → Yields (.cf cluster line) s (· = s)) ∧
    Yields (.ce cluster line) s fun u => u = { s with clusters := u.clusters } ∧ (∀ k, k ≠ cluster → u.cluster k = s.cluster k) ∧
      u.cluster cluster = { s.cluster cluster with lines := (s.cluster cluster).lines.filter (fun l => l.pa != line * 128) }) ∧
  (∀ (s : State) (a b : Reg) (m : Option MPfx), s.Canonical → isCtl s.cur = false → s.seals = [] →
    let sc := scopeOfM m
    let cl := clusterOf s.cur
    let goes (v u : State) : Prop := v.Went u s.nextPc 1 (fun x => x) ∧ v.OnlySlot u 1
    (orderOf m = 2 → ∃ v : State, v = { s with clusters := v.clusters } ∧ (∀ k, k ≠ cl → v.cluster k = s.cluster k) ∧
      v.cluster cl = { s.cluster cl with lines := if 2 ≤ sc then [] else (s.cluster cl).lines } ∧ Yields (.fence a b m) s (goes v)) ∧
    let q := (s.core (coreOf s.cur)).q
    let w := (s.cluster cl).w
    (orderOf m ≠ 2 → s.waits = [] → s.chans = [] → s.streams = [] → (∀ e ∈ q ++ w, homeDie e.pa = dieOf s.cur ∧ e.saved = []) →
      (∀ a, (w.filter fun x => (x.at a).isSome).length ≤ 1) → s.regions = [] → s.codes = [] → s.bad = [] →
      Yields (.fence a b m) s fun u => ∃ v, goes v u ∧ v = { s with cores := v.cores, clusters := v.clusters, mem := v.mem } ∧
        (∀ k, k ≠ coreOf s.cur → v.core k = s.core k) ∧ (∀ k, k ≠ cl → v.cluster k = s.cluster k) ∧
        v.core (coreOf s.cur) = { s.core (coreOf s.cur) with q := if 1 ≤ sc then [] else q } ∧
        v.cluster cl = { s.cluster cl with w := (v.cluster cl).w, lines := (v.cluster cl).lines } ∧
        (sc = 0 → (v.cluster cl).w = w) ∧
        (sc = 1 → ∀ x, youngest x (v.cluster cl).w = (youngest x q).orElse fun _ => youngest x w) ∧
        (2 ≤ sc → (v.cluster cl).w = []) ∧
        (sc < 2 → (v.cluster cl).lines = (s.cluster cl).lines) ∧ (orderOf m ≠ 3 → 2 ≤ sc → (v.cluster cl).lines = []) ∧
        (orderOf m = 3 → 2 ≤ sc → ∀ l, l ∈ (v.cluster cl).lines → l ∈ (s.cluster cl).lines) ∧
        ∀ x, v.byte x = if 2 ≤ sc then ((youngest x q).orElse fun _ => youngest x w).getD (s.byte x) else s.byte x) ∧
    (orderOf m ≠ 2 → sc = 4 → q = [] → w = [] → s.chans = [] →
      (∃ e ∈ s.streams, ∃ f ∈ e.2.unacked, f.frame.cls = 0 ∧ f.frame.ctx = s.me.ctx.id.toNat) → Yields (.fence a b m) s (s.Rewaits (.release 4))))

/-! ### Threads and messages (page 4) -/

/-- R161, R425, Table 6.3: SEND puts its message into the target core's mailbox, or hands a frame of class 1 to the port toward another package; it
waits while the core does not accept it, and a destination that does not exist raises cause 5. R158, R159, R162, R163, Table 6.2: RECV takes the
oldest message of its slot, frees its entry, which a waiting system message fills, and acquires; with none it parks. PEEK counts them and gives the
oldest header. MS puts a message under way into its target's mailbox or system-message queue, as far as R158 gives it room, and wakes a slot that
waits for one. -/
def Obligations.Messages : Prop :=
  (∀ (s : State) (a b : Reg), s.Canonical →
    let w := s.r a
    let n := (w.extractLsb' 0 17).toNat
    let pkg := (w.extractLsb' 48 15).toNat
    let q (i : Nat) : Word := s.r (BitVec.ofNat 5 (b.toNat + i))
    let head : Word := BitVec.ofNat 17 s.cur ++ 0#15 ++ w.extractLsb' 32 16 ++ 0#16
    let m : Msg := ⟨n, head, #v[q 0, q 1, q 2, q 3], scopeOf s.cur n⟩
    let core := s.core (coreOf n)
    let exists? : Prop := n / 1024 % 16 < 12 ∧ n / 16 % 64 < 48
    let room : Prop := core.sysq = [] ∧ core.mailbox.length + 8 ≤ 32
    (¬exists? → Yields (.send a b) s (s.Trapped ⟨5, s.me.pc, w, 0⟩)) ∧
    (exists? → w.getLsbD 63 = true → s.peerOf pkg = none → Yields (.send a b) s (s.Trapped ⟨5, s.me.pc, w, 0⟩)) ∧
    let near := s.routeOpen (dieOf s.cur) (dieOf n)
    (exists? → w.getLsbD 63 = false → s.Idle → near = true → room → (s.thread n).park = none →
      Yields (.send a b) s ((s.updCore (coreOf n) fun c => { c with mailbox := c.mailbox ++ [m] }).Performs 1 fun x => x)) ∧
    (exists? → w.getLsbD 63 = false → s.Idle → near = false ∨ ¬room → Yields (.send a b) s (s.Rewaits .backPressure)) ∧
    (∀ p, exists? → w.getLsbD 63 = true → s.peerOf pkg = some p → s.Idle →
      let open_ := s.pkgid ≠ 0x7FFF#15 ∧ s.routeOpen (dieOf s.cur) 7 = true
      let f : Frame := ⟨p.a.getLsbD 62, p.mac.setWidth 48, s.pkgid.toNat, pkg, 1, 0, 0, w, s.me.ctx.id.toNat, [head, q 0, q 1, q 2, q 3], 40⟩
      (¬open_ → Yields (.send a b) s (s.Rewaits .backPressure)) ∧
      (open_ → Yields (.send a b) s (State.Performs
        { s with
          sent := s.sent ++ [f]
          streams := Table.set Stream.zero (pkg * 4 + 1) ⟨1, [⟨f, s.now, 0⟩], false, 0⟩ [] } 1 fun x => x)))) ∧
  (∀ (s : State) (a b : Reg) (r : Option RPfx) (n : Nat), s.Canonical →
    let c := coreOf s.cur
    let mine := (s.core c).mailbox.filter fun m => m.dest == s.cur
    let lines (sc : Nat) : List RcLine := if 2 ≤ sc then [] else (s.cluster (clusterOf s.cur)).lines
    (mine = [] → Yields (.recv a b) s (s.Rewaits .mailbox)) ∧
    (∀ pre m post, (s.core c).mailbox = pre ++ m :: post → (∀ x ∈ pre, x.dest ≠ s.cur) → m.dest = s.cur → a.toNat % 4 = 0 → 8 ≤ a.toNat →
      isCtl s.cur = false → ∀ (mail sys : List Msg),
      ((s.core c).sysq = [] ∧ mail = pre ++ post ∧ sys = []) ∨
        (∃ y, (s.core c).sysq = y :: sys ∧ (s.core c).mailbox.length = 32 ∧ coreOf y.dest = c ∧ (s.thread y.dest).park = none ∧
          mail = pre ++ post ++ [y]) →
      Yields (.recv a b) s fun u => ∃ (v : State) (R : Vector Word 32), v = { s with cores := v.cores, clusters := v.clusters } ∧
        v.core c = { s.core c with mailbox := mail, sysq := sys } ∧ (∀ k, k ≠ c → v.core k = s.core k) ∧
        v.cluster (clusterOf s.cur) = { s.cluster (clusterOf s.cur) with lines := lines m.scope } ∧
        (∀ k, k ≠ clusterOf s.cur → v.cluster k = s.cluster k) ∧
        (∀ i : Fin 4, R.get (regIx (a + BitVec.ofNat 5 i.val)) = m.payload.get i) ∧
        (∀ x : Reg, (∀ i : Fin 4, x ≠ a + BitVec.ofNat 5 i.val) → R.get (regIx x) = s.me.regs.get (regIx x)) ∧
        v.Performs 1 (fun x => { x with regs := R, mhdr := m.header }) u) ∧
    (¬s.me.pushes a → Yields (.peek a b none) s (s.GivesScalar a (BitVec.ofNat 64 mine.length) FFlags.none 0)) ∧
    (∀ x, r = some x → ¬s.me.pushes a → ¬s.me.pushes x.d → Yields (.peek a b r) s fun u => ∃ R : Vector Word 32,
      (¬s.me.discards x.d → R.get (regIx x.d) = match mine with | m :: _ => m.header | [] => 0) ∧
      (¬s.me.discards a → a ≠ x.d → R.get (regIx a) = BitVec.ofNat 64 mine.length) ∧
      (∀ y, y ≠ a → y ≠ x.d → R.get (regIx y) = s.me.regs.get (regIx y)) ∧ s.Performs 0 (fun t => { t with regs := R }) u) ∧
    ∀ m : Msg, s.outbox[n]? = some m → m.dest < 2 ^ 56 →
      let d := s.core (coreOf m.dest)
      let kind := (m.header.extractLsb' 44 3).toNat
      let v : State := { s with outbox := s.outbox.eraseIdx n }
      let inMail : Prop := d.sysq = [] ∧ d.mailbox.length + (if kind = 0 then 8 else 1) ≤ 32
      let arrived : State := v.updCore (coreOf m.dest) fun c => { c with mailbox := c.mailbox ++ [m] }
      (inMail → (s.thread m.dest).park = none → Yields (.ms n) s (· = arrived)) ∧
      (∀ p, inMail → (s.thread m.dest).park = some p → p.why = .mailbox → Yields (.ms n) s (· = arrived.upd m.dest fun t =>
        { t with park := none, wokenAt := s.now })) ∧
      (∀ p, inMail → (s.thread m.dest).park = some p → p.why = .halt → Yields (.ms n) s fun u => arrived.Wakes u m.dest p fun x => x) ∧
      (¬inMail → 4 ≤ kind → d.sysq.length < 16 →
        Yields (.ms n) s (· = v.updCore (coreOf m.dest) fun c => { c with sysq := c.sysq ++ [m] })) ∧
      (¬inMail → kind < 4 ∨ 16 ≤ d.sysq.length → Yields (.ms n) s (· = s)))

/-- R164, R165, R373, R379, Table 13.4: SPAWN puts a start message into the target core's start queue, which holds eight, with the rank clamped to the
ceiling of RANKSET; it waits for room, for a route that carries traffic, and for a cluster that is quiesced, whose CPWAKE bit it sets; a dark core
raises cause 5 with the TID. What the handler table gives for the index is an unnamed function of the sender's context, code object and the index (log 55,
DESIGN CHOICE), and that a core which does not exist has the whole of A as address is the model's choice (log 74). START_MESSAGE_ACCEPT re-executes the
SPAWN. -/
def Obligations.Spawns : Prop :=
  ∀ (s : State) (a b : Reg) (is : IPfx) (tid : Nat), s.Canonical →
    let v := s.r a
    let n := (v.extractLsb' 0 17).toNat
    let k := n / 16
    let exists? : Prop := n / 1024 % 16 < 12 ∧ k % 64 < 48
    let lit := s.darkCore k = false
    let cl := s.cluster (k / 64)
    let t := s.me
    let near := s.routeOpen (dieOf s.cur) (dieOf n)
    let i := (immZ is b).toNat
    let entry := match Table.get none s.codes t.codeid.toNat with
      | some c => Config.handler t.ctx.id c.digest c.base i
      | none => Config.handler t.ctx.id [] 0 i
    let m : StartMsg :=
      { sender := s.cur, index := i, entry := entry, regs := #v[s.r 24, s.r 25, s.r 26, s.r 27]
        ctx := t.ctx, fmt := t.fmt, scp := t.scp, pondid := t.pondid, rank := clampRank t.ctx t.rank.toNat, scope := scopeOf s.cur (k * 16) }
    (¬exists? → Yields (.spawn a b is) s (s.Trapped ⟨5, t.pc, v, 0⟩)) ∧
    (exists? → ¬lit → Yields (.spawn a b is) s (s.Trapped ⟨5, t.pc, BitVec.ofNat 64 n, 0⟩)) ∧
    (exists? → lit → s.Idle → cl.qreq = false → near = true → (s.core k).startq.length < 8 → Yields (.spawn a b is) s
      (State.Performs { s with
        cores := Table.set CoreSt.init k { s.core k with startq := (s.core k).startq ++ [m] } s.cores } 1 fun x => x)) ∧
    (exists? → lit → s.Idle → cl.qreq = false → near = false ∨ 8 ≤ (s.core k).startq.length →
      Yields (.spawn a b is) s (s.Rewaits .backPressure)) ∧
    (exists? → lit → s.Idle → cl.qreq = true → Yields (.spawn a b is) s ((s.setWake (k / 64) .start).Rewaits .backPressure)) ∧
    (∀ p, (s.thread tid).park = some p → p.why = .backPressure → Yields (.startMessageAccept tid) s (· = s.upd tid fun x =>
      { x with park := none, wokenAt := s.now })) ∧
    ((∀ p, (s.thread tid).park = some p → p.why ≠ .backPressure) → Yields (.startMessageAccept tid) s (· = s))

/-- R71, R165, R167, R171, R181, Table 7.3: a core with a free slot starts the oldest start message, else the oldest item of the highest rank of its
task queue, in its lowest free slot; a message without a handler is discarded with STATUS 2, and a packet whose task is no longer UNSTARTED is
discarded. The claim writes the task's entry, which no protected range holds (R402). -/
def Obligations.SlotStarts : Prop :=
  ∀ (s : State) (core tid : Nat), s.Canonical → goodTid (core * 16) = true → s.coreTakes core = true → s.forTadpole core = false →
    (s.freeSlots core).head? = some tid →
    let c := s.core core
    let d := dieOf tid
    let lines (sc : Nat) : List RcLine := if 2 ≤ sc then [] else (s.cluster (clusterOf tid)).lines
    let starts (u : State) (c' : CoreSt) (x : Ctx) (y : Start) (p : Option Bound) (w : Option (Nat × Nat)) (sc : Nat) : Prop :=
      u.core core = c' ∧ (∀ k, k ≠ core → u.core k = s.core k) ∧ s.Started tid x y p w (u.thread tid) ∧
        (∀ n, n ≠ tid → u.thread n = s.thread n) ∧ u.cluster (clusterOf tid) = { s.cluster (clusterOf tid) with lines := lines sc } ∧
        (∀ k, k ≠ clusterOf tid → u.cluster k = s.cluster k) ∧
        u = { s with
          threads := u.threads
          cores := u.cores
          clusters := u.clusters
          ctxs := Table.set none x.id.toNat (some x) s.ctxs
          mem := u.mem }
    let pond (x : Ctx) (from_ : Nat) (own : BitVec 8) : BitVec 8 := if dieOf from_ = d then own else x.pondmap.extractLsb' (8 * d) 8
    let entry (w : Word) : Word := (w.extractLsb' 0 48).setWidth 64
    (∀ m rest e, c.startq = m :: rest → m.entry = some e → Yields (.slotStart core) s fun u => u.mem = s.mem ∧
      starts u { c with startq := rest } m.ctx ⟨entry e, m.regs, m.fmt, m.scp, m.rank, pond m.ctx m.sender m.pondid, 0, false⟩ none none m.scope) ∧
    (∀ m rest, c.startq = m :: rest → m.entry = none → Yields (.slotStart core) s fun u =>
      u = (s.updCore core fun c => { c with startq := rest }).tellSup d 2 (BitVec.ofNat 64 m.sender) (BitVec.ofNat 64 m.index) 0 0) ∧
    ∀ pre x post, c.startq = [] → c.taskq = pre ++ x :: post → (∀ y ∈ pre, s.rankOf y < s.rankOf x) → (∀ y ∈ post, s.rankOf y ≤ s.rankOf x) →
      let c' : CoreSt := { c with taskq := pre ++ post }
      (∀ p pa, x = .packet p → s.liveEntry p.ctx p.handle = some pa → s.bad = [] → s.guarded pa 16 = false →
        let q := p.words
        ((s.word pa).extractLsb' 0 3 = 1#3 → Yields (.slotStart core) s fun u =>
          u.word pa = (s.word pa).extractLsb' 48 16 ++ 0#37 ++ (s.word pa).extractLsb' 8 3 ++ 0#5 ++ 2#3 ∧
          u.word (pa + 8) = BitVec.ofNat 64 (3 * 2 ^ 60 + d * 2 ^ 48 + tid) ∧ s.SameOutside u pa 16 ∧
          starts u c' p.ctx ⟨entry (q.get 0), #v[q.get 1, q.get 2, q.get 3, q.get 4], q.get 5, q.get 6, p.rank,
            pond p.ctx p.issuer p.pondid, p.handle, false⟩ p.parent none p.scope) ∧
        ((s.word pa).extractLsb' 0 3 ≠ 1#3 → Yields (.slotStart core) s (· = s.updCore core fun _ => c'))) ∧
      (∀ e n i r, x = .unit e n i → Table.get none (s.die e).launches n = some r →
        let q := r.block
        let k := BitVec.ofNat 64 i
        Yields (.slotStart core) s fun u => u.mem = s.mem ∧ starts u c' r.ctx ⟨entry (q.get 0), #v[k, q.get 3 + q.get 4 * k, r.addr, 0],
          q.get 5, q.get 6, r.rank, pond r.ctx r.tid r.pondid, 0, false⟩ none (some (e, n)) 3)

/-- R152, R159, R169, R170, R198, R200, Tables 7.3 and 7.7: QUIT of a thread that adopted nothing decrements the counter of A and that of its packet, marks its task DONE,
discards its messages and frees its slot; it waits while its jobs have not ended, to go on from there, and an operand that no store could reach traps.
QUIT of adopted work does the same but for the slot and its messages, and then the helper's state comes back from the frame at WSP - 1,024 and the slot
goes on at the waiting group; a frame that cannot be read raises cause 18 with SINFO 2 there. The supervisor's default action for a fault of adopted
work, which leaves the task FAILED and pops the frame without QUIT's steps, is a step of its own in the model, taken where the supervisor's handler
would begin (log 58); which fields stay where a pop fails is the model's choice (log 70). -/
def Obligations.Quits : Prop :=
  ∀ (s : State) (a b : Reg), s.Canonical →
    let v := s.r a
    let t := s.me
    let k := s.check s.cur t.ctx t.tsr.priv v 16 .write
    let c := coreOf s.cur
    let ctr := if a = 0 then none else some v
    (∀ n x, a ≠ 0 → n ≠ 14 → k = .trap n x → Yields (.quit a b) s (s.Trapped ⟨n, t.pc, x, 0⟩)) ∧
    ((a ≠ 0 → ∃ y, k = .ok y) → s.jobsOut s.cur t.adepth = true → Yields (.quit a b) s fun u =>
      s.OnlyThread u s.cur { t with park := some ⟨.jobsEnd ctr, s.nextPc, 0, t.tsr.leap⟩ }) ∧
    ((a ≠ 0 → ∃ y, k = .ok y) → s.jobsOut s.cur t.adepth = false → s.Idle → t.tsr.adopted = false → t.tsr.leap = false →
      t.leaph.state = .none → t.unit = none → t.preempts = [] → t.migr = none → t.qbnd = 0 → s.outbox = [] → (s.core c).sysq = [] →
      (∀ p, ∀ x ∈ (s.pond (dieOf s.cur) p).admitted, s.cur ∉ x.awaits) → (∀ pa, s.liveEntry t.ctx t.taskh = some pa → s.guarded pa 16 = false) →
      Yields (.quit a b) s fun u => u.thread s.cur = Thread.free ∧ (∀ n, n ≠ s.cur → u.thread n = s.thread n) ∧
        u.core c = { s.core c with mailbox := (s.core c).mailbox.filter fun m => m.dest != s.cur } ∧ (∀ n, n ≠ c → u.core n = s.core n) ∧
        (let own : List Bound := (if a = 0 then [] else [⟨v, s.cur, t.ctx, t.tsr.priv, t.codeid⟩]) ++ t.parent.toList
         u.joins.map Join.ctr = s.joins.map Join.ctr ++ own ∧ ∀ j ∈ u.joins, j ∈ s.joins ∨ (j.stage = .pending ∧ j.die = dieOf s.cur)) ∧
        (t.taskh = 0 → u.mem = s.mem) ∧
        (∀ pa, t.taskh ≠ 0 → s.liveEntry t.ctx t.taskh = some pa →
          u.word pa = (s.word pa).extractLsb' 48 16 ++ 0#37 ++ (s.word pa).extractLsb' 8 3 ++ 0#5 ++ 4#3 ∧ u.word (pa + 8) = s.word (pa + 8) ∧
          s.SameOutside u pa 16) ∧
        u = { s with
          threads := u.threads
          cores := u.cores
          joins := u.joins
          fresh := u.fresh
          mem := u.mem }) ∧
    let pop (n : Nat) (T : Thread) (l : Level) (rest : List Level) (fpa : Nat) (u : State) : Prop :=
      let w (i : Nat) : Word := s.word (fpa + 8 * i)
      let U := u.thread n
      let leap := s.readBack (dieOf n) n (T.adepth - 1) l.leap.state (leaphOf (w 15))
      (∀ i : Fin 32, U.regs.get i = if i.val = 0 then 0 else w (16 + i.val)) ∧
      (∀ i : Fin 32, U.vregs.get i = w (49 + 2 * i.val) ++ w (48 + 2 * i.val)) ∧
      U = { T with
        pc := w 0
        regs := U.regs
        vregs := U.vregs
        taskh := w 1
        frames := []
        reserve := none
        depth := (w 2).toNat % 2 ^ 32
        fctl := w 3 &&& fctlMask
        vtype := w 4 &&& 0x1F
        fmt := w 5 &&& fmtMask
        scp := w 6 &&& scpMask
        rank := (w 7).extractLsb' 0 3
        tsr := { T.tsr with
          priv := l.priv
          migrated := l.migrated
          adopted := decide (1 < T.adepth)
          lost := (w 7).getLsbD 10 || l.lost
          cut := (w 7).getLsbD 9
          leap := leap.state == .active }
        codeid := (w 8).extractLsb' 0 16
        tvec := w 10 &&& 0x0000FFFFFFFFFFFF
        tepc := w 11
        tcause := w 12 &&& 0x3F
        taddr := w 13
        tinfo := w 14 &&& 0x81FFFFFFFFFFFFFF
        leaph := leap
        wsp := T.wsp - 1024
        adepth := T.adepth - 1
        parent := l.parent
        unit := l.unit
        levels := rest
        pendTrap := l.held.orElse fun _ => T.pendTrap
        park := none
        g6 := none
        wokenAt := s.now }
    let marked (u : State) (pa : Nat) (st : BitVec 3) : Prop :=
      u.word pa = (s.word pa).extractLsb' 48 16 ++ 0#37 ++ (s.word pa).extractLsb' 8 3 ++ 0#5 ++ st ∧ u.word (pa + 8) = s.word (pa + 8) ∧
        s.SameOutside u pa 16
    let plain (n : Nat) (T : Thread) (l : Level) (rest : List Level) (pa : Nat) : Prop :=
      T.levels = l :: rest ∧ T.leaph.state = .none ∧ T.tsr.leap = false ∧ T.unit = none ∧ T.qbnd = 0 ∧ T.depth = T.frames.length ∧ T.taskh ≠ 0 ∧
        s.liveEntry T.ctx T.taskh = some pa ∧ s.guarded pa 16 = false ∧ (s.core (coreOf n)).q = [] ∧ (s.cluster (clusterOf n)).w = [] ∧
        isCtl n = false ∧ s.chans = [] ∧ s.bad = []
    let kept (n : Nat) (T : Thread) (pa : Nat) : Prop := ∀ x : State, x = { s with mem := x.mem } → s.SameOutside x pa 16 →
      x.frameLoc n (T.wsp - 1024) .read = s.frameLoc n (T.wsp - 1024) .read
    let there (n : Nat) (T : Thread) (pa fpa : Nat) : Prop := s.frameLoc n (T.wsp - 1024) .read = some ⟨fpa, 128, 0⟩ ∧ kept n T pa ∧
      homeDie fpa = dieOf n ∧ (s.word (fpa + 72)).extractLsb' 0 8 = 0#8 ∧ (pa + 16 ≤ fpa ∨ fpa + 1024 ≤ pa)
    (∀ l rest pa, (a ≠ 0 → ∃ y, k = .ok y) → s.jobsOut s.cur t.adepth = false → s.Idle → t.tsr.adopted = true → plain s.cur t l rest pa →
      let ends (u : State) : Prop := u = { s with threads := u.threads, joins := u.joins, fresh := u.fresh, mem := u.mem } ∧ marked u pa 4#3 ∧
        (∀ n, n ≠ s.cur → u.thread n = s.thread n) ∧
        let own : List Bound := (if a = 0 then [] else [⟨v, s.cur, t.ctx, t.tsr.priv, t.codeid⟩]) ++ t.parent.toList
        u.joins.map Join.ctr = s.joins.map Join.ctr ++ own
      (∀ fpa, there s.cur t pa fpa → Yields (.quit a b) s fun u => ends u ∧ pop s.cur t l rest fpa u) ∧
      (s.frameLoc s.cur (t.wsp - 1024) .read = none → kept s.cur t pa → t.privst.getLsbD 1 = false → Yields (.quit a b) s fun u => ends u ∧
        ({ t with frames := [], depth := 0, reserve := none } : Thread).InSupervisor (u.thread s.cur) s.cur ⟨18, l.pc, t.wsp - 1024, 2⟩)) ∧
    ∀ n l rest pa fpa, let T := s.thread n
      T.state = .running → T.privst.getLsbD 1 = true → T.privst.getLsbD 3 = true → T.privst.getLsbD 0 = false → T.tsr.priv = true →
      T.park = none → 0 < T.adepth → T.pc = T.ctx.stvec &&& 0x0000FFFFFFFFFFFE → plain n T l rest pa → there n T pa fpa →
      Yields (.supervisorTrapDelivery n) s fun u => u = { s with threads := u.threads, mem := u.mem } ∧ marked u pa 5#3 ∧
        (∀ m, m ≠ n → u.thread m = s.thread m) ∧
        pop n { T with privst := T.privst &&& ~~~2#64, pendTrap := none, pendJob := none, barWait := none } l rest fpa u

/-- R166, R178 to R180, Tables 6.4, 7.1 to 7.3: TASK reads its packet, allocates the lowest free entry of the task table, gives its handle and puts
the packet into the queue of a core or of its die's scheduler; a full table gives 0, a full queue makes it wait, an address that is not 64-aligned
raises cause 3 and a core that does not exist cause 5, as does a dark core with its TID (R379). -/
def Obligations.Tasks : Prop :=
  ∀ (s : State) (a b : Reg) (r : Option RPfx) (is : IPfx), s.Canonical →
    let va := s.addrOf b is
    let e := s.r (eOf r)
    let n := (e.extractLsb' 0 17).toNat
    let k := n / 16
    let exists? : Prop := n / 1024 % 16 < 12 ∧ k % 64 < 48
    let lit := s.darkCore k = false
    let x := s.me.ctx
    let own := dieOf s.cur
    let go := Instr.task a b r is
    (va.toNat % 64 ≠ 0 → Yields go s (s.Trapped ⟨3, s.me.pc, va, 0⟩)) ∧
    (va.toNat % 64 = 0 → r.isSome → ¬exists? → Yields go s (s.Trapped ⟨5, s.me.pc, e, 0⟩)) ∧
    (va.toNat % 64 = 0 → r.isSome → exists? → ¬lit → Yields go s (s.Trapped ⟨5, s.me.pc, BitVec.ofNat 64 n, 0⟩)) ∧
    ∀ t : Target, va.toNat % 64 = 0 → (r.isSome → exists? ∧ lit) → s.Idle → s.Reaches va 64 .read t →
      let w (i : Nat) : Word := s.word (t.pa + 8 * i)
      let die := if r.isSome then n / 16384 else own
      let rank : BitVec 3 := if (w 7).extractLsb' 0 3 < x.rankset then (w 7).extractLsb' 0 3 else x.rankset
      let parent : Option Bound := if (w 7).extractLsb' 3 45 = 0 then none else 
        some ⟨((w 7).extractLsb' 3 45 ++ 0#3).setWidth 64, s.cur, x, s.me.tsr.priv, s.me.codeid⟩
      let meter := s.meter ++ (if t.kind = 3 then [⟨t.region, false, 64, s.cur⟩] else [])
      let open? (pa : Nat) : Prop := (s.word pa).extractLsb' 0 3 ∈ [0#3, 4#3, 5#3]
      let room : Prop := if r.isSome then s.routeOpen own die = true ∧ (s.core k).taskq.length < 64 else (s.die own).packets < 8192
      let takes : Prop := r.isSome → (s.cluster (k / 64)).qreq = false
      (takes → ¬room → Yields go s (s.Rewaits .backPressure)) ∧
      (¬takes → Yields go s ((s.setWake (k / 64) .start).Rewaits .backPressure)) ∧
      (takes → room → ¬s.me.pushes a → (∀ i pa, i < (x.ttsize.extractLsb' 0 25).toNat → s.taskPa x i = some pa → ¬open? pa) →
        Yields go s (({ s with meter := meter } : State).GivesScalar a 0 FFlags.none 1)) ∧
      ∀ i pa, takes → room → ¬s.me.pushes a → i < (x.ttsize.extractLsb' 0 25).toNat → s.taskPa x i = some pa → open? pa →
        (∀ j q, j < i → s.taskPa x j = some q → ¬open? q) → s.guarded pa 24 = false →
        let gen := (s.word pa).extractLsb' 48 16 + 1
        let h : Word := gen ++ 1#4 ++ BitVec.ofNat 44 i
        let p : Packet := ⟨#v[w 0, w 1, w 2, w 3, w 4, w 5, w 6, w 7], h, s.cur, x, s.me.pondid, rank, parent, if die = own then 2 else 3⟩
        ∃ v : State, v.word pa = gen ++ 0#37 ++ rank ++ 0#5 ++ 1#3 ∧
          v.word (pa + 8) = BitVec.ofNat 64 (if r.isSome then 2 ^ 60 + die * 2 ^ 48 + k * 16 else 2 * 2 ^ 60 + die * 2 ^ 48) ∧
          v.word (pa + 16) = ((w 0).extractLsb' 0 48).setWidth 64 ∧ s.SameOutside v pa 24 ∧
          v = { s with mem := v.mem, cores := v.cores, dies := v.dies, meter := meter } ∧
          (if r.isSome then v.dies = s.dies ∧ v.core k = { s.core k with taskq := (s.core k).taskq ++ [.packet p] } ∧ ∀ j, j ≠ k → v.core j = s.core j
           else v.cores = s.cores ∧ (∀ j, j ≠ own → v.die j = s.die j) ∧ v.die own = { s.die own with
            fifos := (s.die own).fifos.set rank.toNat ((s.die own).fifos.get ⟨rank.toNat, rank.isLt⟩ ++ [.packet p]) rank.isLt }) ∧
          Yields go s (v.GivesScalar a h FFlags.none 1)

/-- R171, R389, R390, R391, R392, Tables 6.5 and 6.6: LAUNCH checks its block in the order of its algorithm, and each die of the set in turn holds a
record for it; once the last has accepted the units of each die, in ascending order, enter its scheduler and A takes 0. LAUNCH_ACCEPT goes on with a
parked one, to the last acceptance. -/
def Obligations.Launches : Prop :=
  ∀ (s : State) (a b : Reg) (is : IPfx) (t : Target), s.Canonical →
    let va := s.addrOf b is
    let w (i : Nat) : Word := s.word (t.pa + 8 * i)
    let block : Vector Word 8 := #v[w 0, w 1, w 2, w 3, w 4, w 5, w 6, w 7]
    let count := (w 1).toNat
    let mode := (w 2).extractLsb' 0 2
    let set (q : Word) (d : Nat) : Prop := q.getLsbD (8 + d) = true
    let meter := s.meter ++ (if t.kind = 3 then [⟨t.region, false, 64, s.cur⟩] else [])
    let early (v : Word) : Prop := ¬s.me.pushes a → Yields (.launch a b is) s (({ s with meter := meter } : State).GivesScalar a v FFlags.none 1)
    let lowest (d n : Nat) : Prop := Table.get none (s.die d).launches n = none ∧ ∀ m, m < n → (Table.get none (s.die d).launches m).isSome
    let rankOf (q : Word) (c : Ctx) : BitVec 3 := if q.extractLsb' 16 3 < c.rankset then q.extractLsb' 16 3 else c.rankset
    let rec_ (ws : Vector Word 8) (ad : Word) (tid : Nat) (ready : Bool) (us : List Nat) : LaunchRec :=
      let z := s.thread tid
      ⟨ws, ad, z.ctx, tid, rankOf (ws.get 2) z.ctx, ready, us, us.length, none, z.pondid,
        if (ws.get 7).extractLsb' 3 45 = 0 then none else some ⟨((ws.get 7).extractLsb' 3 45 ++ 0#3).setWidth 64, tid, z.ctx, z.tsr.priv, z.codeid⟩⟩
    let takes (tid d : Nat) : Prop := s.routeOpen (dieOf tid) d = true ∧ (s.die d).launchesUsed < 64
    let queued (v : State) (d n : Nat) (y : LaunchRec) : Prop := (∀ e, e ≠ d → v.die e = s.die e) ∧ v.die d = { s.die d with
      launches := Table.set none n (some y) (s.die d).launches
      fifos := (s.die d).fifos.set y.rank.toNat ((s.die d).fifos.get ⟨y.rank.toNat, y.rank.isLt⟩ ++ [.launch n]) y.rank.isLt }
    (va.toNat % 64 ≠ 0 → Yields (.launch a b is) s (s.Trapped ⟨3, s.me.pc, va, 0⟩)) ∧
    (va.toNat % 64 = 0 → s.Idle → s.Reaches va 64 .read t →
      (2 ^ 32 < count → early 1) ∧ (count ≤ 2 ^ 32 → mode = 3#2 → early 3) ∧
      (count ≤ 2 ^ 32 → mode ≠ 3#2 → (∀ d, d < 8 → ¬set (w 2) d) → early 2) ∧
      ∀ d, count ≤ 2 ^ 32 → mode ≠ 3#2 → mode ≠ 2#2 → d < 8 → (∀ e, e < 8 → (set (w 2) e ↔ e = d)) →
        (¬takes s.cur d → Yields (.launch a b is) s fun u =>
          s.ParksAs u (.launch [w 0, w 1, w 2, w 3, w 4, w 5, w 6, w 7] va [d] [] a) ∧ u = { s with threads := u.threads }) ∧
        ∀ n, takes s.cur d → lowest d n → ¬s.me.pushes a → 0 < count → ∃ v : State,
          v = { s with dies := v.dies, meter := meter } ∧ queued v d n (rec_ block va s.cur true (List.range count)) ∧
          Yields (.launch a b is) s (v.woken.GivesScalar a 0 FFlags.none 1)) ∧
    (∀ tid ws ad d rest recs rd next drops leapt, (s.thread tid).park = some ⟨.launch ws ad (d :: rest) recs rd, next, drops, leapt⟩ →
      (¬takes tid d → Yields (.launchAccept tid) s (· = s)) ∧
      (∀ n e es, takes tid d → lowest d n → rest = e :: es → e ≠ d → ¬takes tid e →
        Yields (.launchAccept tid) s (· = (s.updDie d fun z => { z with
          launches := Table.set none n (some (rec_ (vec8 ws) ad tid false [])) z.launches }).upd tid fun z =>
            { z with park := some ⟨.launch ws ad rest (recs ++ [(d, n)]) rd, next, drops, leapt⟩ })) ∧
      ∀ n, takes tid d → lowest d n → rest = [] → ¬(s.thread tid).pushes rd →
        let all := recs ++ [(d, n)]
        let c := (s.thread tid).ctx
        let own (k : Nat) : List Nat := s.unitsOf c (vec8 ws) k
        (all.map Prod.fst).Nodup → (∀ e m, (e, m) ∈ recs → Table.get none (s.die e).launches m = some (rec_ (vec8 ws) ad tid false [])) →
        (∀ k, k < all.length → own k ≠ []) → Yields (.launchAccept tid) s fun u => ∃ v : State,
          v = { s with dies := v.dies, meter := (s.countRec tid ad 64).meter } ∧
          (∀ k e m, all[k]? = some (e, m) → let y := rec_ (vec8 ws) ad tid true (own k)
            v.die e = { s.die e with
              launches := Table.set none m (some y) (s.die e).launches
              fifos := (s.die e).fifos.set y.rank.toNat ((s.die e).fifos.get ⟨y.rank.toNat, y.rank.isLt⟩ ++ [.launch m]) y.rank.isLt }) ∧
          (∀ e, (∀ m, (e, m) ∉ all) → v.die e = s.die e) ∧ (∃ R : Vector Word 32,
            (∀ q, q ≠ rd → R.get (regIx q) = (s.thread tid).regs.get (regIx q)) ∧ (¬(s.thread tid).discards rd → R.get (regIx rd) = 0) ∧
            v.Wakes u tid ⟨.launch ws ad [] all rd, next, drops, leapt⟩ fun z => { z with regs := R }) ∧
          u = { v with threads := u.threads, dies := u.dies }) ∧
    ∀ (c : Ctx) (ws : Vector Word 8) (k i : Nat), (ws.get 1).toNat ≤ 2 ^ 32 →
      let ds := allDies.filter fun d => (ws.get 2).getLsbD (8 + d)
      let len := ds.length
      let n := (ws.get 1).toNat
      let home := s.homeOfArg c (ws.get 3 + ws.get 4 * BitVec.ofNat 64 i)
      k < len → i < n →
        ((ws.get 2).extractLsb' 0 2 = 0#2 → (i ∈ s.unitsOf c ws k ↔ n * k / len ≤ i ∧ i < n * (k + 1) / len)) ∧
        ((ws.get 2).extractLsb' 0 2 = 1#2 → (i ∈ s.unitsOf c ws k ↔ i % len = k)) ∧
        ((ws.get 2).extractLsb' 0 2 = 2#2 →
          (∀ d, home = some d → d ∈ ds → (i ∈ s.unitsOf c ws k ↔ ds[k]? = some d)) ∧
          ((∀ d, home = some d → d ∉ ds) → (i ∈ s.unitsOf c ws k ↔ i % len = k)))

/-- R392, R393: SCHEDULER_PLACE moves the head of the highest-ranked FIFO that is not empty to the chosen core's task queue: a packet whose task is
still UNSTARTED, with LOCKIND and LOC of its entry rewritten, or the next unit of a launch. -/
def Obligations.SchedulerPlaces : Prop :=
  ∀ (s : State) (die : Nat), s.Canonical → die < 8 →
    let x := s.die die
    (∀ core, s.chooseCore die = some core → s.coreEligible core = true ∧ core / 1024 = die ∧
      ∀ k ∈ coresOf (core / 64), s.coreEligible k = true → s.coreLoad core < s.coreLoad k ∨ (s.coreLoad core = s.coreLoad k ∧ core ≤ k)) ∧
    (s.chooseCore die = none → Yields (.schedulerPlace die) s (· = s)) ∧
    ∀ (core : Nat) (r : Fin 8) (y : SchedItem) (rest : List SchedItem), s.chooseCore die = some core → x.fifos.get r = y :: rest →
      (∀ q : Fin 8, r < q → x.fifos.get q = []) →
      let moved (u : State) (z : DieSt) (item : TaskItem) : Prop :=
        u.die die = z ∧ (∀ d, d ≠ die → u.die d = s.die d) ∧ u.core core = { s.core core with taskq := (s.core core).taskq ++ [item] } ∧
          (∀ k, k ≠ core → u.core k = s.core k) ∧ u = { s with dies := u.dies, cores := u.cores, mem := u.mem }
      (∀ p pa, y = .packet p → s.liveEntry p.ctx p.handle = some pa → s.bad = [] → s.guarded pa 16 = false →
        let z : DieSt := { x with fifos := x.fifos.set r.val rest r.isLt }
        ((s.word pa).extractLsb' 0 3 = 1#3 → Yields (.schedulerPlace die) s fun u => moved u z (.packet p) ∧
          u.word pa = (s.word pa).extractLsb' 48 16 ++ 0#37 ++ (s.word pa).extractLsb' 8 3 ++ 0#5 ++ 1#3 ∧
          u.word (pa + 8) = BitVec.ofNat 64 (2 ^ 60 + die * 2 ^ 48 + core * 16) ∧ s.SameOutside u pa 16) ∧
        ((s.word pa).extractLsb' 0 3 ≠ 1#3 → Yields (.schedulerPlace die) s (· = s.updDie die fun _ => z))) ∧
      ∀ n l i us, y = .launch n → Table.get none x.launches n = some l → l.toPlace = i :: us → Yields (.schedulerPlace die) s fun u =>
        u.mem = s.mem ∧ moved u { x with
          launches := Table.set none n (some { l with toPlace := us }) x.launches
          fifos := if us = [] then x.fifos.set r.val rest r.isLt else x.fifos } (.unit die n i)

/-- R169, R215, R430: a decrement takes the count at the counter's home, puts it back less one, and enqueues the continuation at 0; a count of 0 and a
counter that cannot be reached are reported with STATUS 3 and 9, and an empty or held count makes it wait; one whose take was granted while it waited goes
on with the count it was given, at the home it was given, without another translation. -/
def Obligations.JoinDecrements : Prop :=
  ∀ (s : State) (n : Nat) (j : Join), s.Canonical → s.joins[n]? = some j →
    let go (P : State → Prop) : Prop := Yields (.joinDecrement n) s P
    (∀ c, j.stage = .pending → c ≠ 14 → s.reach j.ctr 16 .rmw = .cause c → go (· = (s.endJoin j.id).tellSup j.die 9 j.ctr.addr (BitVec.ofNat 64 c) 0 0)) ∧
    (∀ t, j.stage = .pending → s.reach j.ctr 16 .rmw = .home t → s.waits = [] → s.bad = [] → s.full t.pa = false ∨ s.held t.pa = true →
      go (· = { s with
        joins := s.joins.map fun i => if i.id = j.id then { i with stage := .waiting } else i
        waits := [⟨[t.pa], .full, .decrement j.id⟩] })) ∧
    ∀ (k : Word) (pa : Nat), pa % 16 = 0 → s.bad = [] → s.seals = [] → s.waits = [] → s.guarded pa 8 = false →
      j.stage = .granted k pa ∨
        (j.stage = .pending ∧ k = s.word pa ∧ s.full pa = true ∧ s.held pa = false ∧ ∃ t, s.reach j.ctr 16 .rmw = .home t ∧ t.pa = pa) →
      let after (v : State) (x : Word) : Prop := v = { s with mem := v.mem, empties := v.empties, holds := v.holds } ∧ v.word pa = x ∧
        v.full pa = true ∧ v.held pa = false ∧ s.SameOutside v pa 8 ∧
        ∀ q, q / 8 ≠ pa / 8 → v.full q = s.full q ∧ v.held q = s.held q
      (k = 0 → ∃ v, after v 0 ∧ go (· = (v.endJoin j.id).tellSup j.die 3 j.ctr.addr 0 0 0)) ∧
      (k ≠ 0 → k ≠ 1 ∨ s.word (pa + 8) = 0 → ∃ v, after v (k - 1) ∧ go (· = v.endJoin j.id)) ∧
      (k = 1 → s.word (pa + 8) ≠ 0 → ∃ v, after v 0 ∧ ∀ q, v.reach { j.ctr with addr := s.word (pa + 8) } 64 .read = .home q → q.isReg = false →
        v.policy j.ctr.codeid q = none → (s.die j.die).packets < 8192 →
        let c := j.ctr.ctx
        let w (i : Nat) : Word := v.word (q.pa + 8 * i)
        let open? (e : Nat) : Prop := (v.word e).extractLsb' 0 3 ∈ [0#3, 4#3, 5#3]
        let rank : BitVec 3 := if (w 7).extractLsb' 0 3 < c.rankset then (w 7).extractLsb' 0 3 else c.rankset
        let parent : Option Bound :=
          if (w 7).extractLsb' 3 45 = 0 then none else some { j.ctr with addr := ((w 7).extractLsb' 3 45 ++ 0#3).setWidth 64 }
        let meter := s.meter ++ (if q.kind = 3 then [⟨q.region, false, 64, j.ctr.tid⟩] else [])
        ((∀ i e, i < (c.ttsize.extractLsb' 0 25).toNat → v.taskPa c i = some e → ¬open? e) →
          go (· = (({ v with meter := meter } : State).endJoin j.id).tellSup j.die 4 j.ctr.addr (s.word (pa + 8)) 0 0)) ∧
        ∀ i e, i < (c.ttsize.extractLsb' 0 25).toNat → v.taskPa c i = some e → open? e →
          (∀ k x, k < i → v.taskPa c k = some x → ¬open? x) → s.guarded e 24 = false → go fun u =>
          let gen := (v.word e).extractLsb' 48 16 + 1
          let p : Packet := ⟨#v[w 0, w 1, w 2, w 3, w 4, w 5, w 6, w 7], gen ++ 1#4 ++ BitVec.ofNat 44 i, j.ctr.tid, c,
            c.pondmap.extractLsb' (8 * dieOf j.ctr.tid) 8, rank, parent, if dieOf j.ctr.tid = j.die then 2 else 3⟩
          u.joins = s.joins.filter (fun i => i.id != j.id) ∧ u.word e = gen ++ 0#37 ++ rank ++ 0#5 ++ 1#3 ∧
            u.word (e + 8) = BitVec.ofNat 64 (2 * 2 ^ 60 + j.die * 2 ^ 48) ∧ v.SameOutside u e 24 ∧ u.meter = meter ∧
            (∀ d, d ≠ j.die → u.die d = s.die d) ∧ u.die j.die = { s.die j.die with
              fifos := (s.die j.die).fifos.set rank.toNat ((s.die j.die).fifos.get ⟨rank.toNat, rank.isLt⟩ ++ [.packet p]) rank.isLt })

/-- R65 to R68, R152: a spill puts the oldest resident frame as sixteen stores at WSP into the core's store queue, frees its place and moves WSP up by
128; a call, or a delivery, that waits for the place then completes; a spill that fails waits. A fill reads the frame at WSP - 128 as memory stands and
moves WSP down; the return that waits for it then completes, or takes cause 18 where the fill fails. -/
def Obligations.WindowSpillsAndFills : Prop :=
  ∀ (s : State) (tid : Nat), s.Canonical →
    let t := s.thread tid
    let c := coreOf tid
    let waits (p : Parked) (target : Option Word) : Prop := t.park = some p ∧ p.why = .framePlace target
    let waiting : Prop := ∃ p target, waits p target
    (∀ init f, t.state = .running → t.wsp ≠ 0 → t.frames = init ++ [f] → 6 ≤ t.placesUsed → isCtl tid = false →
      (∀ pa, (t.spillBad = false ∨ waiting) → s.framePa tid t.wsp 128 .write = some pa →
        let stores := (List.range 16).map fun i => (⟨t.wsp + BitVec.ofNat 64 (8 * i), pa + 8 * i,
          (bytesOf ((f[i]?).getD 0).toNat 8).map some, t.ctx.id, clusterOf tid, [tid], []⟩ : Store)
        let spilled : Thread := { t with
          reserve := if t.reserve = some (t.depth - t.frames.length) then none else t.reserve
          frames := init
          wsp := t.wsp + 128 }
        let leaves (v : Thread) : Prop := Yields (.windowSpill tid) s fun u => u = { s with threads := u.threads, cores := u.cores } ∧
          u.core c = { s.core c with q := (s.core c).q ++ stores } ∧ (∀ k, k ≠ c → u.core k = s.core k) ∧
          u.thread tid = v ∧ ∀ n, n ≠ tid → u.thread n = s.thread n
        (¬waiting ∨ spilled.placeFree = false → leaves spilled) ∧
        (∀ p a, waits p (some a) → t.delivery = none → spilled.placeFree = true → ∃ v : Thread,
          ({ spilled with regs := t.regs.set 31 p.next } : Thread).SlidIn v ∧ leaves v ∧ v = { spilled with
            regs := v.regs
            frames := v.frames
            depth := v.depth
            pc := a
            g6 := none
            park := none
            wokenAt := s.now }) ∧
        (∀ tr, waiting → t.delivery = some tr → spilled.placeFree = true → t.depth < 2 ^ 32 - 1 → t.g6 = none → ∃ v : Thread,
          spilled.InUserHandler v tid tr ∧ leaves v)) ∧
      (¬waiting → s.bad = [] → s.framePa tid t.wsp 128 .write = none → Yields (.windowSpill tid) s fun u =>
        u = { s with threads := u.threads } ∧ u.thread tid = { t with spillBad := true } ∧ ∀ n, n ≠ tid → u.thread n = s.thread n)) ∧
    (t.wsp = 0 ∨ t.frames = [] ∨ t.placesUsed < 6 → Yields (.windowSpill tid) s (· = s)) ∧
    ∀ target next leapt, ∀ how ∈ [(RetKind.ret, fun (u : Thread) => u), (.tret, fun u => { u with tvec := t.tvec &&& ~~~1#64 }),
        (.stret, fun u => { u with
          privst := t.privst &&& ~~~2#64
          tsr := { t.tsr with priv := isCtl tid || t.privst.getLsbD 0 } })],
      t.park = some ⟨.frameFill target how.1, next, 0, leapt⟩ → t.frames = [] → 0 < t.depth → s.bad = [] →
      (t.wsp = 0 ∨ s.framePa tid (t.wsp - 128) 128 .read = none → Yields (.windowFill tid) s
        (· = (s.abandon tid).deliver tid ⟨18, t.pc, t.wsp - 128, 2⟩)) ∧
      ∀ pa, t.wsp ≠ 0 → s.framePa tid (t.wsp - 128) 128 .read = some pa → homeDie pa = dieOf tid → (s.core c).q = [] →
        (s.cluster (clusterOf tid)).w = [] → Yields (.windowFill tid) s fun u => ∃ (f : WFrame) (v : Thread),
          (∀ i : Fin 16, f.get i = s.word (pa + 8 * i.val)) ∧ ({ t with frames := [f] } : Thread).SlidOut v ∧ s.OnlyThread u tid v ∧
          v = { how.2 t with
            regs := v.regs
            frames := v.frames
            depth := v.depth
            reserve := if t.reserve = some (t.depth - 1) then none else t.reserve
            wsp := t.wsp - 128
            pc := target
            g6 := none
            park := none
            wokenAt := s.now }

/-- R66, R76, R174, R319, R360, R361: a delivery that waited for a frame place enters the user handler once one is free; a pending cause 10 or 11 of a
slot that is not parked goes at its boundary to TVEC, else cause 11 to STVEC while cause 10 sets CUT; it is held at supervisor level and while a BAR is
to be completed, and cause 10 also while BUSY is 1. -/
def Obligations.TrapDeliveries : Prop :=
  ∀ (s : State) (tid : Nat), s.Canonical →
    let t := s.thread tid
    let p : Thread := { t with pendTrap := none }
    let handler : Prop := t.tvecAddr ≠ 0
    let all := [Instr.leapcut tid, .leaptrip tid, .userTrapDelivery tid, .supervisorTrapDelivery tid]
    (∀ tr, t.delivery = some tr → t.state = .running → t.placeFree = true → t.depth < 2 ^ 32 - 1 → t.g6 = none →
      Yields (.userTrapDelivery tid) s fun u => ∃ v, t.InUserHandler v tid tr ∧ s.OnlyThread u tid v) ∧
    (∀ tr, t.delivery = some tr → t.placeFree = false → Yields (.userTrapDelivery tid) s (· = s)) ∧
    ∀ units, t.delivery = none → t.park = none → t.state = .running → t.g6 = none → t.g7en = false → t.adepth = 0 →
      (∀ w ∈ (s.core (coreOf tid)).hwWait, w.tid ≠ tid) → (∀ q, ∀ x ∈ (s.pond (dieOf tid) q).admitted, tid ∉ x.awaits) →
      let tr (c : Nat) : Trap := ⟨c, t.pc, 0, BitVec.ofNat 64 units⟩
      let user (e : Instr) (c : Nat) : Prop := t.placeFree = true → t.depth < 2 ^ 32 - 1 →
        Yields e s fun u => ∃ v, p.InUserHandler v tid (tr c) ∧ s.OnlyThread u tid v
      (∀ c, t.pendTrap = some (c, units) → c = 10 ∨ c = 11 →
        (t.tsr.priv = true ∨ t.barWait.isSome → ∀ e ∈ all, Yields e s (· = s)) ∧
        (t.tsr.priv = false → t.barWait = none → handler → t.busy = false →
          user (.userTrapDelivery tid) c ∧ (if c = 10 then user (.leapcut tid) 10 else user (.leaptrip tid) 11))) ∧
      (t.pendTrap = some (10, units) → t.tsr.priv = false → handler → t.busy = true → Yields (.leapcut tid) s (· = s)) ∧
      (t.pendTrap = some (10, units) → t.tsr.priv = false → t.barWait = none → ¬handler → ∀ e ∈ [Instr.leapcut tid, .supervisorTrapDelivery tid],
        Yields e s fun u => s.OnlyThread u tid { p with tsr := { p.tsr with cut := true } }) ∧
      (t.pendTrap = some (11, units) → t.tsr.priv = false → t.barWait = none → ¬handler ∨ t.busy = true →
        let sup := t.inPlace (tr 11)
        t.SupervisorReady sup.cause → ∀ e ∈ [Instr.leaptrip tid, .supervisorTrapDelivery tid],
          Yields e s fun u => ∃ v, p.InSupervisor v tid sup ∧ s.OnlyThread u tid v)

/-! ### Matrices (page 2) -/

/-- R244, R245, R247, R251 to R253, R272, Tables 10.1 to 10.5: TDEF, TSTAT, TREADY and TEMPTY on tile A[7:0] of the context: what they write, what
they wait for, and cause 15 for a tile at or above TCOUNT, an invalid descriptor and a tile without rows. -/
def Obligations.Tiles : Prop :=
  ∀ (s : State) (a b : Reg) (is : IPfx) (t : Target), s.Canonical →
    let k := clusterOf s.cur
    let c := s.me.ctx
    let count := (c.tiles.extractLsb' 8 9).toNat
    let base := (c.tiles.extractLsb' 0 8).toNat
    let ph (r : Reg) : Nat := base + ((s.r r).extractLsb' 0 8).toNat
    let ok (r : Reg) : Prop := ((s.r r).extractLsb' 0 8).toNat < count
    let x := s.tile k (ph a)
    let traps (i : Instr) (n code role : Nat) : Prop := Yields i s (s.Trapped ⟨15, s.me.pc, BitVec.ofNat 64 n, BitVec.ofNat 64 (code + role * 256)⟩)
    let waits (i : Instr) : Prop := Yields i s (s.Rewaits (.tile k (ph a)))
    let with_ (y : Tile) : State := { s with
      clusters := (Table.set ClusterSt.init k { s.cluster k with tiles := Table.set Tile.zero (ph a) y (s.cluster k).tiles } s.clusters) }
    let empty (y : Tile) : Tile := { y with state := 0, tagv := false, tag := 0 }
    let noneDrains : Prop := ∀ n p, (s.thread n).park = some p → p.why ≠ .drain k (ph a)
    let parks (i : Instr) (v : State) : Prop := Yields i s fun u =>
      u.thread s.cur = { s.me with park := some ⟨.drain k (ph a), s.nextPc, 0, s.me.tsr.leap⟩ } ∧ u = { v with threads := u.threads } ∧
        ∀ n, n ≠ s.cur → u.thread n = s.thread n
    let w (i : Nat) : Word := s.word (t.pa + 8 * i)
    let y : Tile := { x with w0 := w 0 &&& 0xFFFFFF#64, w1 := w 1 &&& 0x0100FFFFFFFF01FF#64 }
    let field (q : Word) (lo n : Nat) : Nat := (q.extractLsb' lo n).toNat
    let rows := field (w 1) 0 9
    let rowBytes := field (w 1) 16 16
    let pitch := field (w 1) 32 16
    let off := field (w 0) 0 24
    let valid : Prop := 1 ≤ rows ∧ rows ≤ 256 ∧ 1 ≤ rowBytes ∧ rowBytes ≤ 4096 ∧ off % 16 = 0 ∧ pitch % 16 = 0 ∧ rowBytes ≤ pitch ∧
      off + (rows - 1) * pitch + rowBytes ≤ 2 ^ 24
    (¬ok a → traps (.tdef a b is) (ph a) 1 0 ∧ traps (.tready a b) (ph a) 1 0 ∧ traps (.tempty a b) (ph a) 1 0) ∧
    (¬ok b → traps (.tstat a b) (ph b) 1 0) ∧
    (ok a → s.Idle → s.Reaches (s.addrOf b is) 32 .read t →
      (¬valid → traps (.tdef a b is) (ph a) 2 0) ∧ (valid → x.state ≠ 0 → waits (.tdef a b is)) ∧
      (valid → x.state = 0 → noneDrains → Yields (.tdef a b is) s (State.Performs { with_ (empty y) with
        meter := s.meter ++ (if t.kind = 3 then [⟨t.region, false, 32, s.cur⟩] else []) } 1 fun z => z))) ∧
    (ok b → ¬s.me.pushes a → let z := s.tile k (ph b)
      Yields (.tstat a b) s (s.GivesScalar a (0#19 ++ BitVec.ofBool z.tagv ++ z.tag ++ BitVec.ofNat 16 z.pins ++ 0#13 ++ BitVec.ofBool z.latch ++
        z.state) FFlags.none 0)) ∧
    (ok a → field x.w1 0 9 = 0 → traps (.tready a b) (ph a) 3 0) ∧
    (ok a → field x.w1 0 9 ≠ 0 → s.Idle →
      (x.state = 0 → Yields (.tready a b) s (State.Performs (with_ { x with state := 2, latch := false }) 0 fun z => z)) ∧
      (x.state = 2 → Yields (.tready a b) s (s.GoesTo s.nextPc)) ∧ (x.state = 1 ∨ x.state = 3 → waits (.tready a b))) ∧
    (ok a →
      (x.state = 0 → Yields (.tempty a b) s (s.GoesTo s.nextPc)) ∧ (x.state = 1 → waits (.tempty a b)) ∧
      (x.state = 3 → parks (.tempty a b) s) ∧
      (x.state = 2 → 0 < x.pins ∨ (s.cluster k).copyDrains (ph a) = true → parks (.tempty a b) (with_ { x with state := 3 })) ∧
      (x.state = 2 → x.pins = 0 → (s.cluster k).copyDrains (ph a) = false → noneDrains →
        Yields (.tempty a b) s ((with_ (empty x)).woken.Performs 0 fun z => z)))

/-- R264, R268, R269, R271, Tables 10.8 and 10.9: JPOLL and JWAIT give a job's state and status, with an acquire where it has finished; JWAIT waits
for a job that has not. AMAXR reads a ring, AMAXC clears it or records a value; a ring outside the mask raises cause 16. WHINT starts the switch-on of
its engine if that is gated, and goes on. R267, R271, R374, R377, R380: run-ahead of at most three jobs changes nothing but itself; an engine without jobs
for ENGIDLE cycles gates itself, ENGIDLE 0 gates none, and only a switch-on that has been started ends, with the demand of its window cleared; a job that
waits for the array rail sets CPWAKE.ACCESS. That WHINT's bringing operands nearer has no effect of its own is the model's reading (log 61). -/
def Obligations.JobStatesAndRings : Prop :=
  (∀ (s : State) (a b : Reg), s.Canonical →
    let k := clusterOf s.cur
    let o := octetOf s.cur
    let e := s.engine k o
    let w := s.r b
    let id := (w.extractLsb' 0 16).toNat
    let ctx := s.me.ctx.id
    let queued := e.queue.find? fun j => j.id == id && j.owner.ctx.id == ctx
    let ended := e.outcomes.find? fun x => x.id == id && x.ctx == ctx
    let gives (i : Instr) (v : Word) : Prop := ¬s.me.pushes a → Yields i s (s.GivesScalar a v FFlags.none 0)
    let acquires (i : Instr) (v : Word) : Prop := ¬s.me.pushes a → isCtl s.cur = false → ∃ z : State, z = { s with clusters := z.clusters } ∧
      z.cluster k = { s.cluster k with lines := [] } ∧ (∀ n, n ≠ k → z.cluster n = s.cluster n) ∧ Yields i s (z.GivesScalar a v FFlags.none 0)
    let ring := s.ring k ((w.extractLsb' 0 6).toNat)
    let mask := s.me.ctx.ringmask.getLsbD (w.extractLsb' 0 6).toNat
    let v : BitVec 31 := (s.r a).extractLsb' 0 31
    let start := if w.getLsbD 8 then Ring.zero else ring
    let after : Ring := if w.getLsbD 9 then
      ⟨start.entries.setIfInBounds start.next (if v.toNat ≤ 0x7F800000 then v.setWidth 32 else 0x7F800000), (start.next + 1) % 16, min (start.count + 1) 16⟩
      else start
    (∀ j, queued = some j → gives (.jpoll a b) (if j.run then 2 else 1) ∧
      Yields (.jwait a b) s fun u => s.OnlyThread u s.cur { s.me with park := some ⟨.jobId k o id a, s.nextPc, 0, s.me.tsr.leap⟩ }) ∧
    (queued = none → ended = none → gives (.jpoll a b) 0 ∧ gives (.jwait a b) 0) ∧
    (∀ x, queued = none → ended = some x → x.status < 65536 → let r : Word := 0#32 ++ BitVec.ofNat 16 x.status ++ (if x.status = 0 then 3#16 else 4#16)
      acquires (.jpoll a b) r ∧ acquires (.jwait a b) r) ∧
    (∃ z : State, z = { s with clusters := z.clusters } ∧ (∀ n, n ≠ k → z.cluster n = s.cluster n) ∧
      z.cluster k = { s.cluster k with engines := (s.cluster k).engines.setIfInBounds o { e with waking := e.waking || e.gated } } ∧
      Yields (.whint a b) s (z.Performs 0 fun q => q)) ∧
    (mask = false → Yields (.amaxr a b) s (s.Trapped ⟨16, s.me.pc, 0, 3⟩) ∧ Yields (.amaxc a b) s (s.Trapped ⟨16, s.me.pc, 0, 3⟩)) ∧
    (mask = true →
      (w.extractLsb' 8 2 = 0#2 → gives (.amaxr a b) (((ring.entries[(w.extractLsb' 12 4).toNat]?).getD 0).setWidth 64)) ∧
      (∀ m : BitVec 32, w.extractLsb' 8 2 = 1#2 → m ∈ ring.entries.toList → (∀ x ∈ ring.entries.toList, x.toNat ≤ m.toNat) → gives (.amaxr a b) (m.setWidth 64)) ∧
      (w.extractLsb' 8 2 = 2#2 → gives (.amaxr a b) (BitVec.ofNat 64 ring.next)) ∧
      (w.extractLsb' 8 2 = 3#2 → gives (.amaxr a b) (BitVec.ofNat 64 ring.count)) ∧
      ∃ z : State, z = { s with clusters := z.clusters } ∧ (∀ n, n ≠ k → z.cluster n = s.cluster n) ∧
        z.cluster k = { s.cluster k with rings := Table.set Ring.zero (w.extractLsb' 0 6).toNat after (s.cluster k).rings } ∧
        Yields (.amaxc a b) s (z.Performs 0 fun q => q))) ∧
  (∀ (s : State) (k o : Nat), s.Canonical → goodCluster k = true → o < 6 →
    let e := s.engine k o
    let n := (s.die (k / 16)).engidle.toNat
    let next := e.queue.find? fun j => !j.run && !e.ahead.contains j.id
    let only (u : State) (e' : Engine) : Prop := u = { s with clusters := u.clusters } ∧ (∀ m, m ≠ k → u.cluster m = s.cluster m) ∧
      u.cluster k = { s.cluster k with engines := (s.cluster k).engines.setIfInBounds o e' }
    (∀ j, e.ahead.length < 3 → next = some j → Yields (.runAhead k o) s (only · { e with ahead := e.ahead ++ [j.id] })) ∧
    (3 ≤ e.ahead.length ∨ next = none → Yields (.runAhead k o) s (· = s)) ∧
    (n ≠ 0 → e.queue = [] → e.gated = false → e.idle + n ≤ s.now →
      Yields (.engineIdleGate k o) s (only · { e with gated := true, waking := false })) ∧
    (n = 0 ∨ e.queue ≠ [] ∨ e.gated = true ∨ s.now < e.idle + n → Yields (.engineIdleGate k o) s (· = s)) ∧
    (e.gated = true → e.waking = true → Yields (.engineSwitchOn k o) s fun u => u = { s with clusters := u.clusters } ∧
      (∀ m, m ≠ k → u.cluster m = s.cluster m) ∧ u.cluster k = { s.cluster k with
        engines := (s.cluster k).engines.setIfInBounds o { e with gated := false, waking := false, idle := s.now }
        askCore := false
        askBase := false
        leapCore := false
        leapBase := false }) ∧
    (e.gated = false ∨ e.waking = false → Yields (.engineSwitchOn k o) s (· = s)) ∧
    ∀ j, e.current = some j → (s.cluster k).railSpad ≠ 2 → ∀ i ∈ [Instr.matrixJobRun k o, .mzeroJob k o, .mcvtJob k o],
      Yields i s (· = s.setWake k .access))

/-- R243, R247, R248, R255, R262, R263, R265, R266, R270, R271: MMA, MMAQ, MMAG, MMAGQ, MZERO and MCVT whose tiles are as they need them enter the
engine's queue with the next number: operands are pinned, the destination is FILLING, the debit is made, a gated engine starts to switch on; the queued
forms write the number, the others wait for the job. A tile that is not as needed makes them wait; formats that do not fit raise cause 16. MCVT takes a
tagged source as any other (R273). -/
def Obligations.MatrixJobs : Prop :=
  ∀ (s : State) (a b : Reg) (r : Option RPfx), s.Canonical → s.Idle →
    let k := clusterOf s.cur
    let o := octetOf s.cur
    let t := s.me
    let c := t.ctx
    let e := s.engine k o
    let w := s.r a
    let count := (c.tiles.extractLsb' 8 9).toNat
    let tile (lo : Nat) : Nat := (c.tiles.extractLsb' 0 8).toNat + (w.extractLsb' lo 8).toNat
    let inside (lo : Nat) : Prop := (w.extractLsb' lo 8).toNat < count
    let f := t.fmt
    let fa := (f.extractLsb' 0 5).toNat
    let sh := shapeOf fa
    let same : Prop := goodFmt fa = true ∧ goodFmt (f.extractLsb' 5 5).toNat = true ∧ sh.row = (shapeOf (f.extractLsb' 5 5).toNat).row
    let shaped (x : Tile) (rows bytes : Nat) : Prop := (x.w1.extractLsb' 0 9).toNat = rows ∧ (x.w1.extractLsb' 16 16).toNat = bytes
    let job (kind : MatKind) (td ta tb : Nat) (notify : Bool) : MatJob :=
      ⟨e.nextId, ⟨s.cur, t.adepth, c, t.codeid, t.tsr.priv, none, false, s.cur⟩, kind, td, ta, tb, f, t.scp, notify,
        if t.tsr.leap then some t.leaph.seq else none, false, none⟩
    let accepted (v : State) (j : MatJob) (tiles : Nat → Tile) : Prop := v = { s with clusters := v.clusters } ∧
      (∀ n, n ≠ k → v.cluster n = s.cluster n) ∧
      v.cluster k = { s.cluster k with
        engines := (s.cluster k).engines.setIfInBounds o
          { e with queue := e.queue ++ [j], nextId := (e.nextId + 1) % 65536, waking := e.waking || e.gated }
        tiles := (v.cluster k).tiles } ∧
      ∀ n, v.tile k n = tiles n
    let parks (v : State) (drops : Nat) (u : State) : Prop :=
      u.thread s.cur = { t with park := some ⟨.job k o e.nextId s.cur, s.nextPc, 0, t.tsr.leap⟩, leaph := ((v.debit s.cur drops t.tsr.leap).thread s.cur).leaph } ∧
        (∀ n, n ≠ s.cur → u.thread n = s.thread n) ∧ u = { v with threads := u.threads, dies := (v.debit s.cur drops t.tsr.leap).dies }
    let td := tile 16
    let ta := tile 8
    let tb := tile 0
    let x (n : Nat) : Tile := s.tile k n
    let free (n : Nat) : Prop := (x n).tagv = false
    let drops := if sh.row = 0 then 64 else if sh.row = 1 then 48 else 32
    let starts : Prop := (x td).state = 2 ∧ (x td).pins = 0
    let joins : Prop := (x td).state = 1 ∧ (x td).latch = true ∧ (∃ j, e.queue.getLast? = some j ∧ j.isMma = true ∧ j.td = td ∧ j.owner.ctx.id = c.id) ∧
      ∀ j ∈ e.chain, j.td = td → j.ended = none
    let after (n : Nat) : Tile :=
      let y := if n = td ∧ (x td).state = 2 then { x n with state := 1, latch := true } else x n
      { y with pins := y.pins + (if n = ta then 1 else 0) + (if n = tb then 1 else 0) }
    o < 6 →
    (∀ g : Bool, ∀ (sync queued : Instr), (sync, queued) = (if g then (Instr.mmag a b, Instr.mmagq a b r) else (.mma a b, .mmaq a b r)) →
      inside 16 → inside 8 → inside 0 →
      let v8 := s.v b
      let kind : MatKind := if g then .mmag v8 else .mma
      let fits : Prop := same ∧ shaped (x td) 16 (16 * sh.dBytes) ∧ shaped (x tb) 16 sh.bytes ∧ td ≠ ta ∧ td ≠ tb ∧
        (if g then (x ta).rows ≠ 0 ∧ (x ta).rowBytes = sh.bytes ∧ ∀ i, i < 16 → (v8.extractLsb' (8 * i) 8).toNat < (x ta).rows
         else shaped (x ta) 16 sh.bytes) ∧ free ta ∧ free tb
      (¬same → ∀ i ∈ [sync, queued], ∃ n ∈ [1, 2], Yields i s (s.Trapped ⟨16, t.pc, 0, BitVec.ofNat 64 n⟩)) ∧
      (fits → (x ta).state ≠ 2 → ∀ i ∈ [sync, queued], Yields i s (s.Rewaits (.tile k ta))) ∧
      (fits → (x ta).state = 2 → (x tb).state = 2 → (¬starts ∧ ¬joins) ∨ 32 ≤ e.queue.length → ∀ i ∈ [sync, queued], Yields i s (s.Rewaits (.tile k td))) ∧
      (fits → (x ta).state = 2 → (x tb).state = 2 → starts ∨ joins → e.queue.length < 32 →
        (∃ v, accepted v (job kind td ta tb false) after ∧ Yields sync s (parks v drops)) ∧
        (¬t.pushes (dOf r) → ∃ v, accepted v (job kind td ta tb (w.getLsbD 24)) after ∧
          Yields queued s (v.GivesScalar (dOf r) (BitVec.ofNat 64 e.nextId) FFlags.none drops)))) ∧
    (inside 0 → (x tb).rows ≠ 0 → e.queue.length < 32 → (x tb).state = 0 ∨ ((x tb).state = 2 ∧ (x tb).pins = 0 ∧ (x tb).latch = false) →
      ∃ v, accepted v (job .mzero tb tb tb false) (fun n => if n = tb then { x n with state := 1, latch := false } else x n) ∧
        Yields (.mzero a b) s (parks v 1)) ∧
    (∀ n, inside 16 → inside 8 → fa ≤ 4 → goodFmt (f.extractLsb' 10 5).toNat = true → c.ringmask.getLsbD (t.scp.extractLsb' 58 6).toNat = true →
      (x ta).rows ≠ 0 → cvtCount fa (f.extractLsb' 10 5).toNat (x ta).rowBytes = some n →
      shaped (x td) (x ta).rows (bytesFor (f.extractLsb' 10 5).toNat n) → td ≠ ta →
      ((x ta).state ≠ 2 → Yields (.mcvt a b) s (s.Rewaits (.tile k ta))) ∧
      ((x ta).state = 2 → (x td).state ≠ 0 ∨ 32 ≤ e.queue.length → Yields (.mcvt a b) s (s.Rewaits (.tile k td))) ∧
      ((x ta).state = 2 → (x td).state = 0 → e.queue.length < 32 →
        ∃ v, accepted v (job .mcvt td ta ta false) (fun n => if n = td then { x n with state := 1, latch := false } else
          if n = ta then { x n with pins := (x n).pins + 1 } else x n) ∧ Yields (.mcvt a b) s (parks v 32)))

/-- R208, R234, R247, R248, R254, R257 to R260, R262 to R264, R266, R270, R377, R380: the work of a matrix engine. MATRIX_JOB_RUN, MZERO_JOB and
MCVT_JOB start their job, whose ER and EW read and write one word or pair each at its home; MATRIX_JOB_RUN then adds the products of the operand rows to
the latched D, CHAIN_WRITEBACK has D written and ends the chain, and MZERO_JOB and MCVT_JOB end their job. A job that has ended leaves the queue, its
outcome is kept, its operands are unpinned and the slot that waits for it goes on. That a job reads all its operands before it writes, and the steps into
which its work is cut, are the model's choice (logs 39 and 72). The further clauses give the values of D: the exact sum of a block, its scale, scale
overflow and one rounding (R258, R259), fused multiply-adds (R257), and integers (R260). -/
def Obligations.MatrixRuns : Prop :=
  (∀ (s : State) (k o : Nat) (j : MatJob), s.Canonical → goodCluster k = true → o < 6 → s.engineOn k o = true → s.bad = [] → s.seals = [] →
    s.regions = [] → s.codes = [] → s.waits = [] → s.meter = [] →
    let e := s.engine k o
    let x (n : Nat) : Tile := s.tile k n
    let fa := (j.fmt.extractLsb' 0 5).toNat
    let fb := (j.fmt.extractLsb' 5 5).toNat
    let sh := shapeOf fa
    let others (u : State) : Prop := (∀ n, n ≠ k → u.cluster n = s.cluster n) ∧ ∀ n, n < 6 → n ≠ o → u.engine k n = s.engine k n
    let tilesAs (u : State) : Prop := ∀ n, u.tile k n = x n
    let becomes (u : State) (f : Engine) : Prop := u = { s with clusters := u.clusters } ∧ others u ∧ u.engine k o = f
    let started (u : State) (phase : MatPhase) (reads : List Nat) (writes : List JobWrite) : Prop :=
      becomes u { e with
        work := some ⟨j.id, phase, reads, [], writes, 0, false, 0, s.leapOf j⟩
        queue := e.queue.map fun y => if y.id = j.id then { y with run := true } else y } ∧
      (u.cluster k).askBase = true ∧ tilesAs u
    let next : Prop := e.work = none ∧ e.queue.find? (fun y => !y.run) = some j
    let on (w : MatWork) : Prop := e.work = some w ∧ e.queue.find? (fun y => y.id == w.id) = some j ∧ w.id = j.id
    let allMoved (w : MatWork) : Prop := w.reads = [] ∧ w.writes = [] ∧ w.flying = 0
    let wordsOfRows (n : Nat) (rows : List Nat) : List Nat := rows.flatMap fun r => wordsTouched ((x n).rowPa k r) (x n).rowBytes
    let rowOf (i : Nat) : Nat := match j.kind with | .mmag v => (v.extractLsb' (8 * i) 8).toNat | _ => i
    let rowsOfA := (List.range 16).map rowOf
    let pieces (n : Nat) (rows : List (List Byte)) : List JobWrite := (List.range rows.length).flatMap fun r =>
      let row := chunksOf 16 256 ((rows[r]?).getD [])
      (List.range row.length).map fun i => ⟨BitVec.ofNat 64 (0x1000000 + (x n).offset + r * (x n).pitch + 16 * i), (x n).rowPa k r + 16 * i,
        ((row[i]?).getD []).map some, []⟩
    let quiet : Prop := j.notify = false ∧ j.owner.saved = none ∧ (s.thread j.owner.tid).pendJob = none ∧
      ∀ n p rd y, (s.thread n).park = some p → p.why ≠ .jobId k o j.id rd ∧ (p.why = .job k o j.id y → p.drops = 0)
    let alone : Prop := ∀ n p y, (s.thread n).park = some p → p.why ≠ .job k o j.id y
    let ended (u : State) (rest : List MatJob) (st : Nat) : Prop :=
      u.engine k o = { e with
        queue := rest.filter fun y => y.id != j.id
        outcomes := (⟨j.id, j.owner.ctx.id, st⟩ :: e.outcomes).take 64
        ahead := if st = 0 then e.ahead.filter (· != j.id) else []
        idle := s.now
        latched := none
        work := none } ∧
      (st = 0 → ∀ n p y, (s.thread n).park = some p → p.why = .job k o j.id y →
        u.thread n = { s.thread n with park := none, pc := p.next, g6 := none, wokenAt := s.now }) ∧
      (alone → u = { s with clusters := u.clusters } ∧ others u)
    (next → j.isMma = true → j ∈ e.chain → (∀ l, e.latched = some l → l.1 = j.td) → Yields (.matrixJobRun k o) s fun u =>
      started u .reading ((if e.latched = none then wordsOfRows j.td (List.range 16) else []) ++ wordsOfRows j.ta rowsOfA ++
        wordsOfRows j.tb (List.range 16)) []) ∧
    (∀ (w : MatWork) (n pa : Nat), on w → w.reads[n]? = some pa → Yields (.er (2048 + 8 * k + o) n) s fun u =>
      becomes u { e with work := some { w with reads := w.reads.eraseIdx n, got := Table.set 0 pa (s.word pa) w.got } } ∧ tilesAs u ∧
        (u.cluster k).askBase = true) ∧
    (∀ (w : MatWork) (n : Nat) (va : Word) (pa : Nat) (bs : List Byte), on w → w.writes[n]? = some ⟨va, pa, bs.map some, []⟩ → homeDie pa = k / 16 →
      s.asleep pa = none → Yields (.ew (2048 + 8 * k + o) n) s fun u => u.bytesAt pa bs.length = bs ∧ s.SameOutside u pa bs.length ∧
        (∀ i, i < bs.length → u.full (pa + i) = true) ∧ (∀ a, wordOf a + 8 ≤ pa ∨ pa + bs.length ≤ wordOf a → u.full a = s.full a) ∧
        u = { s with clusters := u.clusters, mem := u.mem, empties := u.empties } ∧ others u ∧ tilesAs u ∧ (u.cluster k).askBase = true ∧
        u.engine k o = { e with work := some { w with writes := w.writes.eraseIdx n } }) ∧
    (∀ w : MatWork, on w → w.phase = .reading → allMoved w → j.isMma = true → (∀ n ∈ [j.td, j.ta, j.tb], (x n).valid = true) →
      (∀ l, e.latched = some l → l.2.length = 256) →
      (∀ pa ∈ wordsOfRows j.td (List.range 16) ++ wordsOfRows j.ta rowsOfA ++ wordsOfRows j.tb (List.range 16), Table.get 0 w.got pa = s.word pa) →
      let A (i : Nat) : OpRow := opRow fa (x j.ta).layout sh.k (s.rowBytes k (x j.ta) (rowOf i))
      let B (i : Nat) : OpRow := opRow fb (x j.tb).layout sh.k (s.rowBytes k (x j.tb) i)
      let D (r c : Nat) : Nat := match e.latched with
        | some l => ((l.2[16 * r + c]?).getD 0).toNat
        | none => ((unpack (8 * sh.dBytes) 16 (s.rowBytes k (x j.td) r))[c]?).getD 0
      Yields (.matrixJobRun k o) s fun u => ∃ E : List Word, E.length = 256 ∧
        (∀ r c, r < 16 → c < 16 → E[16 * r + c]? = some (BitVec.ofNat 64 (dotElem sh (j.fmt.getLsbD 17) (A r) (B c) (D r c)))) ∧
        becomes u { e with latched := some (j.td, E), work := none } ∧ tilesAs u) ∧
    (∀ (w : MatWork) (st : Nat), on w → w.phase = .done st → j.isMma = true → Yields (.matrixJobRun k o) s fun u => tilesAs u ∧
      becomes u { e with
        latched := some (e.latched.getD (j.td, []))
        work := none
        ahead := []
        queue := e.queue.map fun y => if y.id = j.id then { y with ended := some 1 }
          else if y.run = false ∧ y.id ∈ e.chain.map (·.id) then { y with run := true, ended := some 3 } else y }) ∧
    (∀ (d : List Word) (rest : List MatJob), e.latched = some (j.td, d) → e.queue = j :: rest → e.chain = [j] → j.run = true →
      (e.work = none → d.length = 256 → Yields (.chainWriteback k o) s fun u => tilesAs u ∧
        becomes u { e with work := some ⟨j.id, .writing, [], [], pieces j.td ((List.range 16).map fun r =>
          packElems (8 * sh.dBytes) (((d.drop (16 * r)).take 16).map (·.toNat))), 0, false, 0, false⟩ }) ∧
      (∀ w : MatWork, e.work = some w → w.id = j.id → w.phase = .writing → allMoved w → quiet → j.td ≠ j.ta → j.td ≠ j.tb → (x j.ta).state = 2 →
        (x j.tb).state = 2 → Yields (.chainWriteback k o) s fun u => ended u rest (if w.lost then 2 else j.ended.getD 0) ∧
          u.tile k j.td = { x j.td with state := 2, latch := false } ∧
          ∀ n, n ≠ j.td → u.tile k n = { x n with pins := (x n).pins - (if n = j.ta then 1 else 0) - (if n = j.tb then 1 else 0) })) ∧
    (∀ rest, e.queue = j :: rest → e.latched = none → j.kind = .mzero →
      (next → Yields (.mzeroJob k o) s fun u => started u .writing [] (pieces j.td (List.replicate (x j.td).rows (List.replicate (x j.td).rowBytes 0)))) ∧
      (∀ w : MatWork, on w → allMoved w → w.lost = false → quiet → Yields (.mzeroJob k o) s fun u => ended u rest 0 ∧
        u.tile k j.td = { x j.td with state := 2, latch := false } ∧ ∀ n, n ≠ j.td → u.tile k n = x n)) ∧
    ∀ rest, e.queue = j :: rest → e.latched = none → j.kind = .mcvt → j.td ≠ j.ta →
      let fo := (j.fmt.extractLsb' 10 5).toNat
      let w := (fmtOfCode fa).width
      let rows := (x j.ta).rows
      let row (r : Nat) : List FVal := (unpack w ((x j.ta).rowBytes * 8 / w) (s.rowBytes k (x j.ta) r)).map (elemVal fa)
      let n := (j.scp.extractLsb' 58 6).toNat
      let m := (s.ring k n).maximum
      let largest := (encodeRound .fp32 .rup false false (maxMag ((List.range rows).map row).flatten)).bits
      let exp : Int := if isMx fo ∨ fo < 5 ∨ m = 0 then 0 else if m.toNat = 0x7F800000 then -127 else clamp127 (expG fo - (decodeF .fp32 m.toNat).log2)
      let sptr := j.scp &&& 0x0000FFFFFFFFFFF8#64
      let tagged : Tile := { x j.td with tagv := (x j.ta).tagv, tag := (x j.ta).tag }
      let finished (u : State) (st : Nat) (y : Tile) : Prop := ended u rest st ∧ u.tile k j.td = { y with state := 2, latch := false } ∧
        u.tile k j.ta = { x j.ta with pins := (x j.ta).pins - 1 } ∧ ∀ n, n ≠ j.td → n ≠ j.ta → u.tile k n = x n
      (next → Yields (.mcvtJob k o) s fun u => started u .reading (wordsOfRows j.ta (List.range rows)) []) ∧
      (∀ w : MatWork, on w → w.phase = .reading → allMoved w → (x j.ta).valid = true →
        (∀ pa ∈ wordsOfRows j.ta (List.range rows), Table.get 0 w.got pa = s.word pa) → Yields (.mcvtJob k o) s fun u => tilesAs u ∧
          u.ring k n = (s.ring k n).record (BitVec.ofNat 32 largest) ∧
          becomes u { e with work := some { w with
            phase := .writing
            exp := exp
            writes := pieces j.td ((List.range rows).map fun r => cvtRow j.fmt (x j.td).layout exp (row r)) } }) ∧
      (∀ w : MatWork, on w → w.phase = .writing → allMoved w → w.lost = false → (x j.td).state = 1 →
        (sptr = 0 → quiet → (x j.ta).state = 2 → Yields (.mcvtJob k o) s (finished · 0 tagged)) ∧
        ∀ t, sptr ≠ 0 → s.check j.owner.slot j.owner.ctx j.owner.priv sptr 8 .write = .ok t → t.isReg = false → Yields (.mcvtJob k o) s fun u =>
          becomes u { e with work := some { w with phase := .scale, writes := [⟨sptr, t.pa, (bytesOf (BitVec.ofInt 64 w.exp).toNat 8).map some, []⟩] } } ∧
            ∀ n, u.tile k n = if n = j.td then tagged else x n) ∧
      ∀ w : MatWork, on w → w.phase = .scale → allMoved w → quiet → (x j.ta).state = 2 → Yields (.mcvtJob k o) s
        (finished · (if w.lost then 4 else 0) (x j.td))) ∧
  (∀ (sh : Shape) (sat : Bool) (a b : OpRow) (d n : Nat),
    (sh.dInt = true → dotElem sh sat a b d = (((d : Int) + (List.zipWith (fun p q => p.toInt * q.toInt) a.xs b.xs).sum) % (2 ^ 32 : Int)).toNat) ∧
    (sh.dInt = false → sh.row ≤ 1 → dotElem sh sat a b d = (List.zip a.xs b.xs).foldl (fun d p =>
      let f := if sh.row = 0 then Fmt.fp64 else .fp32
      (encodeRound f .rne false false (exactFma .rne p.1 p.2 (decodeF f d)).v).bits) d) ∧
    (sh.dInt = false → 2 ≤ sh.row → n ≤ 8 → a.xs.length = 32 * n → b.xs.length = 32 * n → a.scales.length = n → b.scales.length = n →
      dotElem sh sat a b d = (List.range n).foldl (fun d i => addBlock sat ((a.xs.drop (32 * i)).take 32) ((b.xs.drop (32 * i)).take 32)
        ((a.scales[i]?).getD 0) ((b.scales[i]?).getD 0) d) d)) ∧
  (∀ f ∈ [Fmt.fp64, .fp32], ∀ p q c : FVal, p.finite → q.finite → c.finite →
    f.Gives ⟨.rne, false⟩ (p.rat * q.rat + c.rat) (zeroSign .rne (p.neg != q.neg) c.neg) (encodeRound f .rne false false (exactFma .rne p q c).v)) ∧
  ∀ (sat : Bool) (a b : List FVal) (sa sb d : Nat), a.length = b.length →
    let z := addBlock sat a b sa sb d
    let c := decodeF .fp32 d
    let isInf (p : FVal) : Prop := ∃ n, p = .inf n
    let infs (n : Bool) : Prop := ∃ p ∈ List.zip a b, (p.1.neg != p.2.neg) = n ∧
      (isInf p.1 ∧ p.2.isZero = false ∨ isInf p.2 ∧ p.1.isZero = false)
    let t : Rat := (List.zipWith (fun p q => p.rat * q.rat) a b).sum * (2 : Rat) ^ ((sa : Int) + sb - 254)
    let beyond : Prop := (2 - (2 : Rat) ^ (-24 : Int)) * 2 ^ 127 ≤ t.abs
    let nanT : Prop := (∃ p ∈ a ++ b, p.isNan = true) ∨ sa = 255 ∨ sb = 255 ∨ infs true ∧ infs false
    let infT (n : Bool) : Prop := ¬nanT ∧ (infs n ∨ (∀ i, ¬infs i) ∧ beyond ∧ sat = false ∧ n = decide (t < 0))
    let finT (v : Rat) : Prop := ¬nanT ∧ (∀ i, ¬infs i) ∧
      (¬beyond ∧ v = t ∨ beyond ∧ sat = true ∧ v = (if t < 0 then -Fmt.fp32.largest else Fmt.fp32.largest))
    let inf (n : Bool) : Nat := if n then 0xFF800000 else 0x7F800000
    (nanT ∨ c.isNan = true → z = 0x7FC00000) ∧
    (∀ n, infT n → c = .inf (!n) → z = 0x7FC00000) ∧
    (∀ n, infT n → c.isNan = false → c ≠ .inf (!n) → z = inf n) ∧
    (∀ n v, finT v → c = .inf n → z = inf n) ∧
    ∀ v, finT v → c.finite → ∃ y : Rounded, z = y.bits ∧ Fmt.fp32.Gives ⟨.rne, false⟩ (c.rat + v) false y

/-! ### Copies (page 3) -/

/-- R276, R283, R285, R290, R299, R306, R309, R311, Tables 11.4 and 11.5: COPY, STXR, STXP, SGATH and SCVT read their record; one that is bad or whose
footprint is refused gives a status and has no other effect; tiles or a full queue make it wait; else the job enters the queue of the octet's copy
unit or of the die's lead engine with the next number, which A takes. -/
def Obligations.CopyIssues : Prop :=
  ∀ (s : State) (a b : Reg) (is : IPfx) (t : Target) (tt : Nat → Target), s.Canonical → s.Idle → ¬s.me.pushes a →
    let va := s.addrOf b is
    let k := clusterOf s.cur
    let o := octetOf s.cur
    let d := dieOf s.cur
    let record (n : Nat) : List Word := (List.range n).map fun i => s.word (t.pa + 8 * i)
    let plan := BitVec.ofNat 64 (((s.word (t.pa + 64)).extractLsb' 3 45).toNat * 8)
    let nclass := ((s.word (tt 0).pa).extractLsb' 0 4).toNat
    let table := (List.range (if nclass ≤ 8 then 33 * nclass + 1 else 1)).map fun i => s.word (tt i).pa
    let meter (n : Nat) := s.meter ++ (if t.kind = 3 then [⟨t.region, false, n, s.cur⟩] else [])
    let gives (i : Instr) (n : Nat) (v : Word) : Prop := Yields i s (({ s with meter := meter n } : State).GivesScalar a v FFlags.none 1)
    ∀ e ∈ [(Instr.copy a b is, 16, CopyKind.copy, false), (.stxr a b is, 16, .restrict, false), (.stxp a b is, 16, .prolong, false),
        (.sgath a b is, 8, .gather, true), (.scvt a b is, 16, .convert, true)],
      s.Reaches va (8 * e.2.1) .read t →
      (e.2.2.1.isStencil = true → ∀ i, i < table.length → s.Reaches (plan + BitVec.ofNat 64 (8 * i)) 8 .read (tt i) ∧ (tt i).kind ≠ 3) →
      let n := 8 * e.2.1
      let j : CopyJob := s.newJob e.2.2.1 (record e.2.1) (if e.2.2.1.isStencil then table else []) va
      let bad : Bool := if e.2.2.1 = .gather then j.badGather else if e.2.2.1.isStencil then j.badStencil || j.badTable else j.badRegion
      let unit := if e.2.2.2 then (s.die d).stack else ((s.cluster k).copies[o]?).getD ⟨[], 0⟩
      let cap := if e.2.2.2 then 64 else 32
      let ready : Prop := (∀ x, j.dtile = some x → (s.tile k x).state = 0) ∧
        (∀ x, j.stile = some x → (s.tile k x).state = 2 ∧ (s.tile k x).pins = 0) ∧ (unit.queue.filter fun i => i.ended.isNone).length < cap
      (bad = true → gives e.1 n 0x80000#64) ∧
      (∀ x code role, bad = false → j.tileFault s = some (x, code, role) →
        Yields e.1 s (s.Trapped ⟨15, s.me.pc, BitVec.ofNat 64 x, BitVec.ofNat 64 (code + role * 256)⟩)) ∧
      (∀ st f, bad = false → j.tileFault s = none → s.footCheck j = (st, f) → st ≠ 0 → let v := if st = 1 then s.noteFoot f else s
        Yields e.1 s (({ v with meter := meter n } : State).GivesScalar a (BitVec.ofNat 64 (st * 65536)) FFlags.none 1)) ∧
      ∀ f, bad = false → j.tileFault s = none → s.footCheck j = (0, f) → j.isRemote = false →
        (¬ready → Yields e.1 s (s.Rewaits (.tile k ((j.dtile.orElse fun _ => j.stile).getD 0)))) ∧
        (ready → o < 6 → ∃ v : State, v = { s with clusters := v.clusters, dies := v.dies, meter := meter n } ∧
          (let unit' : CopyUnit := ⟨unit.queue ++ [{ j with id := unit.nextId, held := f.held }], (unit.nextId + 1) % 65536⟩
           let c := s.cluster k
           (∀ m, m ≠ k → v.cluster m = s.cluster m) ∧ (∀ m, m ≠ d → v.die m = s.die m) ∧
           v.die d = (if e.2.2.2 then { s.die d with stack := unit' } else s.die d) ∧
           v.cluster k = { c with tiles := (v.cluster k).tiles, copies := if e.2.2.2 then c.copies else c.copies.setIfInBounds o unit' }) ∧
          (∀ m, v.tile k m = if j.dtile = some m then { s.tile k m with state := 1, latch := false } else
            if j.stile = some m then { s.tile k m with state := 3 } else s.tile k m) ∧
          Yields e.1 s (v.GivesScalar a (BitVec.ofNat 64 unit.nextId) FFlags.none 1))

/-- R287 to R290, R294, Tables 11.2 and 11.3: HREG registers a record in the lowest FREE entry and gives its handle, HFREE frees a current one, HCHK
and COPYH read it, and COPYH of a stale handle gives STALE; CANCEL marks a job of its context, and ends one that has not begun. -/
def Obligations.RecordHandles : Prop :=
  ∀ (s : State) (a b : Reg) (is : IPfx) (t : Target), s.Canonical → ¬s.me.pushes a → s.bad = [] →
    let h := s.r b
    let c := s.me.ctx
    let k := clusterOf s.cur
    let o := octetOf s.cur
    let index := (h.extractLsb' 0 44).toNat
    let size := (c.rtsize.extractLsb' 0 21).toNat
    let gen (pa : Nat) : BitVec 16 := (s.word pa).extractLsb' 48 16
    let inflight (pa : Nat) : BitVec 16 := (s.word pa).extractLsb' 16 16
    let entry (g n : BitVec 16) (st : BitVec 2) : Word := g ++ 0#16 ++ n ++ 0#14 ++ st
    let current (pa : Nat) : Prop := h.extractLsb' 44 4 = 2#4 ∧ index < size ∧ s.recEntry c index = some pa ∧ gen pa = h.extractLsb' 48 16 ∧
      (s.word pa).extractLsb' 0 2 = 1#2
    let stale : Prop := ∀ pa, ¬current pa
    let gives (v : State) (i : Instr) (w : Word) : Prop := Yields i s (v.GivesScalar a w FFlags.none 1)
    let unit := ((s.cluster k).copies[o]?).getD ⟨[], 0⟩
    (stale → gives s (.hchk a b) 0 ∧ gives s (.hfree a b) 3 ∧ gives s (.copyh a b) 0x30000#64) ∧
    (∀ pa, current pa → s.guarded pa 256 = false →
      gives s (.hchk a b) (0#32 ++ inflight pa ++ 1#16) ∧
      (∃ v : State, v = { s with mem := v.mem } ∧ s.SameOutside v pa 8 ∧ v.word pa = entry (gen pa + 1) (inflight pa) 0 ∧ gives v (.hfree a b) 0) ∧
      (let j := s.newJob (.handle h) (s.wordsAt (pa + 128) 16) [] h
       (j.badRegion = true → gives s (.copyh a b) 0x80000#64) ∧
       ∀ f, s.Idle → o < 6 → j.badRegion = false → j.tileFault s = none → s.footCheck j = (0, f) → j.isRemote = false → j.dtile = none →
        j.stile = none → (unit.queue.filter fun i => i.ended.isNone).length < 32 → ∃ v : State, v = { s with mem := v.mem, clusters := v.clusters } ∧
          s.SameOutside v pa 8 ∧ v.word pa = entry (gen pa) (inflight pa + 1) 1 ∧ (∀ m, m ≠ k → v.cluster m = s.cluster m) ∧
          v.cluster k = { s.cluster k with copies := ((s.cluster k).copies.setIfInBounds o
            ⟨unit.queue ++ [{ j with id := unit.nextId, held := f.held }], (unit.nextId + 1) % 65536⟩) } ∧
          gives v (.copyh a b) (BitVec.ofNat 64 unit.nextId))) ∧
    (s.Idle → s.Reaches (s.addrOf b is) 128 .read t →
      let w (i : Nat) : Word := s.word (t.pa + 8 * i)
      let meter := s.meter ++ (if t.kind = 3 then [⟨t.region, false, 128, s.cur⟩] else [])
      let bad := (s.newJob .copy ((List.range 16).map w) [] (s.addrOf b is)).badRegion
      (bad = true → gives { s with meter := meter } (.hreg a b is) 8) ∧
      (bad = false → (∀ i pa, i < size → s.recEntry c i = some pa → (s.word pa).extractLsb' 0 2 ≠ 0#2) →
        gives { s with meter := meter } (.hreg a b is) 9) ∧
      ∀ i pa, bad = false → i < size → s.recEntry c i = some pa → (s.word pa).extractLsb' 0 2 = 0#2 → s.guarded pa 256 = false →
        (∀ n q, n < i → s.recEntry c n = some q → (s.word q).extractLsb' 0 2 ≠ 0#2) →
        ∃ v : State, v = { s with mem := v.mem, meter := meter } ∧ v.word pa = entry (gen pa) (inflight pa) 1 ∧
          (∀ n, n < 16 → v.word (pa + 128 + 8 * n) = w n) ∧ (∀ q, q < pa ∨ (pa + 8 ≤ q ∧ q < pa + 128) ∨ pa + 256 ≤ q → v.byte q = s.byte q) ∧
          gives v (.hreg a b is) (gen pa ++ 2#4 ++ BitVec.ofNat 44 i)) ∧
    (o < 6 → isCtl s.cur = false → let named : CopyJob → Bool := fun j => j.id == (h.extractLsb' 0 16).toNat && j.owner.ctx.id == c.id && j.ended.isNone
      let marks (f : CopyJob → CopyJob) : Prop := ∃ v : State, v = { s with clusters := v.clusters } ∧ (∀ m, m ≠ k → v.cluster m = s.cluster m) ∧
        v.cluster k = { s.cluster k with copies := ((s.cluster k).copies.setIfInBounds o
          { unit with queue := unit.queue.map fun j => if j.id = (h.extractLsb' 0 16).toNat then f j else j }) } ∧
        Yields (.cancel a b) s (v.GivesScalar a 1 FFlags.none 0)
      (unit.queue.find? named = none → Yields (.cancel a b) s (s.GivesScalar a 0 FFlags.none 0)) ∧
      ∀ j, unit.queue.find? named = some j →
        (j.begun = true ∨ j.chunk ≠ 0 → marks fun j => { j with cancel := true }) ∧
        (j.begun = false → j.chunk = 0 → j.dtile = none → j.stile = none → (∀ x, j.kind ≠ .handle x) →
          marks fun j => { j with ended := some 7, settled := true }))

/-- R234, R277, R281, R289, R291 to R294, R306, R307, R377, R383, R404: the job at the head of a copy unit or lead engine starts a chunk after its
checks; each ER reads one word of it at its home, or sends the read into the channel to another die; each EW performs one write of a pair of words once
what it writes has been read; a chunk whose reads and writes are all over counts as done; a job that has ended leaves the queue, and sends its message.
The cut of a chunk into words and pairs, the pairs it writes, and that a write waits for the reads of the chunk that it would change, are the model's
choice within the order that R277 leaves free (logs 38 and 72). -/
def Obligations.CopyRuns : Prop :=
  ∀ (s : State) (n i : Nat) (j : CopyJob) (rest : List CopyJob), s.Canonical → goodUnit n = true → (s.copyUnit n).queue = j :: rest →
    (∀ x ∈ rest, x.id ≠ j.id) → j.remote = [] → j.isRemote = false → s.bad = [] →
    let chunk : Instr := if n < 1024 then .copyChunk (n / 8) (n % 8) else .stackJobChunk (n - 1024)
    let ends : Instr := if n < 1024 then .copyJobEnd (n / 8) (n % 8) else .stackJobEnd (n - 1024)
    let queue (u : State) (q : List CopyJob) : Prop := u.copyUnit n = { s.copyUnit n with queue := q } ∧
      (∀ m, m ≠ n → goodUnit m = true → u.copyUnit m = s.copyUnit m) ∧ u.threads = s.threads ∧ u.cores = s.cores
    let only (u : State) (j' : CopyJob) : Prop := queue u (j' :: rest) ∧ u = { s with clusters := u.clusters, dies := u.dies }
    let fails (i : Instr) (st : Nat) : Prop := Yields i s (only · { j with ended := some st, reads := [], pieces := [] })
    let first (k : Nat) : Nat := min j.count ((4096 * k + j.outLen - 1) / j.outLen)
    let units := (List.range (first (j.chunk + 1) - first j.chunk)).map (first j.chunk + ·)
    let leaves (u : State) (st done : Nat) : Prop := queue u rest ∧ u = { s with clusters := u.clusters, dies := u.dies, outbox := u.outbox } ∧
      (j.notify = false → u.outbox = s.outbox) ∧
      (j.notify = true → j.owner.saved = none → u.outbox = s.outbox ++ [⟨j.owner.tid,
        BitVec.ofNat 17 j.owner.slot ++ (if n < 1024 then 1#3 else 3#3) ++ 0#12 ++ BitVec.ofNat 16 j.tag ++ BitVec.ofNat 16 st,
        #v[BitVec.ofNat 64 done, BitVec.ofNat 64 j.id, j.addr, 0], 3⟩])
    let settled : Prop := s.meter = [] ∧ (j.settled = true ∨ (j.dtile = none ∧ j.stile = none ∧ ∀ h, j.kind ≠ .handle h))
    (j.ended = none → j.begun = false →
      let stops (st : Nat) : Prop := Yields chunk s (only · { j with ended := some st })
      (j.total ≤ 4096 * j.chunk → stops 0) ∧
      (4096 * j.chunk < j.total →
        (j.cancel = true → stops 7) ∧ (j.cancel = false → j.stop = true → stops 4) ∧
        (∀ h, j.cancel = false → j.stop = false → j.kind = .handle h → s.currentEntry j.owner.ctx h = .stale → stops 3) ∧
        ((∀ h, j.kind = .handle h → ∃ pa, s.currentEntry j.owner.ctx h = .current pa) → j.cancel = false → j.stop = false → j.kind.isRegion = true →
          j.stile = none →
          let reads : List JobRead := units.flatMap fun x =>
            let ps := wordPieces (at48 (j.w 0) (x % j.perRun * j.inLen) (runIx (j.dstExt.drop 1) (x / j.perRun)) j.srcStr) j.inLen
            (List.range ps.length).map fun i => ⟨x, i, ((ps[i]?).getD (0, 0)).1 % 2 ^ 48, ((ps[i]?).getD (0, 0)).2⟩
          reads ≠ [] → Yields chunk s (only · { j with begun := true, reads := reads, pieces := j.plan s })))) ∧
    (∀ x ∈ units, ∀ va ∈ j.places s x, ∀ pa, j.destPa va = some pa → ∃ p ∈ j.plan s, p.lo = pa / 16 * 16 ∧ p.len = 16 ∧ x ∈ p.units) ∧
    (∀ r, j.begun = true → j.ended = none → j.reads[i]? = some r → j.kind.isRegion = true → j.stile = none → j.dtile = none →
      (j.place r.va = none → fails (.er n i) 4) ∧
      ∀ t, j.place r.va = some t →
        let refused : Prop := t.isLocal = false ∧ (s.policy j.owner.codeid t).isSome
        let region := if t.kind = 3 then some t.region else none
        let home : Prop := homeDie t.pa = unitDie n
        (refused → fails (.er n i) 6) ∧
        (¬refused → home → ∀ k, s.asleep t.pa = some k → Yields (.er n i) s (· = s.setWake k .access)) ∧
        (¬refused → ¬home → Yields (.er n i) s fun u => queue u ({ j with reads := j.reads.eraseIdx i, away := j.away ++ [r] } :: rest) ∧
          u = { s with
            clusters := u.clusters
            dies := u.dies
            chans := (s.enqueue (unitDie n) (homeDie t.pa) (.jobRead n j.id t.pa j.owner.ctx.id r)).chans }) ∧
        (¬refused → home → s.asleep t.pa = none → (∀ g, region = some g → (s.region g).state = .opened) →
          (region = none ∨ j.tagged = none ∨ j.tagged = region) → Yields (.er n i) s fun u =>
            queue u ({ j with
              reads := j.reads.eraseIdx i
              got := Table.set [] (r.key * 64 + r.part) (s.bytesAt t.pa r.n) j.got
              tagged := if j.tagged = none then region else j.tagged } :: rest) ∧
            u = { s with
              clusters := u.clusters
              dies := u.dies
              meter := s.meter ++ match region with
                | some g => [⟨g, false, r.n, j.owner.slot⟩]
                | none => [] })) ∧
    (∀ p, j.begun = true → j.ended = none → j.pieces[i]? = some p → s.seals = [] → s.waits = [] →
      let w := pairWrite (j.pieceBytes s p)
      (j.mayWrite p = false → Yields (.ew n i) s (· = s)) ∧
      (j.mayWrite p = true → w.part = [] → homeDie w.pa = unitDie n → s.asleep w.pa = none → s.guarded w.pa w.bytes.length = false →
        Yields (.ew n i) s fun u => queue u ({ j with pieces := j.pieces.eraseIdx i } :: rest) ∧
          u = { s with clusters := u.clusters, dies := u.dies, mem := u.mem, empties := u.empties } ∧
          (∀ x, u.byte (w.pa + x) = ((w.bytes[x]?).join).getD (s.byte (w.pa + x))) ∧ (∀ x, x < w.pa → u.byte x = s.byte x) ∧
          ∀ x, u.full x = if wordOf x ∈ wordsWritten w.pa w.bytes then true else s.full x)) ∧
    (j.begun = true → j.ended = none → j.reads = [] → j.pieces = [] → j.away = [] → j.flying = 0 → j.barrier = 0 →
      let len := min 4096 (j.total - 4096 * j.chunk)
      (4096 * (j.chunk + 1) < j.total → Yields ends s (only · { j with
        chunk := j.chunk + 1
        begun := false
        doneB := j.doneB + len
        got := if j.kind = .gather then j.got.filter fun e => e.1 / 64 % 2 == 0 else [] })) ∧
      (j.total ≤ 4096 * (j.chunk + 1) → settled → Yields ends s (leaves · 0 (j.doneB + len)))) ∧
    ∀ st, j.ended = some st → j.pieces = [] → j.away = [] → j.flying = 0 → settled → Yields ends s (leaves · st j.doneB)

/-! ### Reservoirs and power (page 5) -/

/-- R350, R353 to R355, R363 to R366, Tables 14.2, 14.5 and 14.7: RSV, RSVW, RSVQ, RWAIT, LEAP, LEND and RQRY: their checks, their answers, what they
leave in LEAPH, TSR and the pond, a displacement, whose reply waits for the leap that it cuts, and LEND of a waiting request. -/
def Obligations.Leaps : Prop :=
  ∀ (s : State) (a b : Reg), s.Canonical → ¬s.me.pushes a →
    let t := s.me
    let d := dieOf s.cur
    let p := t.pondid.toNat
    let x := s.pond d p
    let n := s.r b
    let tripped := (s.die d).tripped
    let head : Int := (x.cap : Int) - x.fill - (x.admitted.map (·.units)).sum
    let st := t.leaph.state
    let gives (v : State) (i : Instr) (w : Word) : Prop := Yields i s (v.GivesScalar a w FFlags.none 0)
    let pond (v : State) (m : Nat) (y : Pond) : Prop := (∀ e, e ≠ d → v.die e = s.die e) ∧ v.die d = { s.die d with ponds := (v.die d).ponds } ∧
      ∀ q, v.pond d q = if q = m then y else s.pond d q
    let only (v : State) (m : Nat) (y : Pond) (u : Thread) : Prop := v = { s with threads := v.threads, dies := v.dies } ∧ pond v m y ∧ v.me = u ∧
      ∀ k, k ≠ s.cur → v.thread k = s.thread k
    let req : Resv := ⟨s.cur, none, t.adepth, t.rank.toNat, n.toNat, x.seq, 0, false, []⟩
    let leaph (s : RsvState) : Thread := { t with leaph := ⟨s, t.rank.toNat, p, n.toNat, 0, x.seq⟩ }
    let state (s : RsvState) : Thread := { t with leaph := { t.leaph with state := s } }
    let taken : Pond := { x with seq := (x.seq + 1) % 16384 }
    let admitted : Pond := { taken with admitted := x.admitted ++ [req] }
    let queued : Pond := { taken with waiting := [req] }
    let idle : Prop := st = .none ∨ st = .displaced
    let clear : Prop := ∀ z ∈ x.admitted, ¬(z.saved = none ∧ z.tid = s.cur ∧ z.level = t.adepth)
    let parks (u : State) (k : PondWait) (v : State) : Prop := u = { v with threads := u.threads } ∧ (∀ m, m ≠ s.cur → u.thread m = v.thread m) ∧
      u.thread s.cur = { v.me with park := some ⟨.pond k a none, s.nextPc, 0, t.tsr.leap⟩ }
    let ticket (code : BitVec 4) : Word := BitVec.ofNat 14 x.seq ++ BitVec.ofNat 3 d ++ t.pondid ++ 0#35 ++ code
    d < 8 →
    (∀ i ∈ [Instr.rsv a b, .rsvw a b, .rsvq a b], (¬idle → gives s i 2) ∧ (idle → 63 < p ∨ x.cap = 0 → gives s i 3) ∧
      (idle → p ≤ 63 → x.cap ≠ 0 → n = 0 ∨ x.cap < n.toNat → gives s i 4)) ∧
    (idle → p ≤ 63 → n ≠ 0 → n.toNat ≤ x.cap → x.seq < 16384 →
      (tripped = true ∨ (∃ w ∈ x.waiting, t.rank.toNat ≤ w.rank) ∨ head < n.toNat → gives s (.rsv a b) 1) ∧
      (tripped = false → (∀ w ∈ x.waiting, w.rank < t.rank.toNat) → (n.toNat : Int) ≤ head →
        ∃ v, only v p admitted (leaph .admitted) ∧ gives v (.rsv a b) 0) ∧
      (256 ≤ x.waiting.length → gives s (.rsvw a b) 7 ∧ gives s (.rsvq a b) 7) ∧
      (clear → x.waiting = [] → tripped = false → (n.toNat : Int) ≤ head → ∃ v, only v p admitted (leaph .admitted) ∧
        Yields (.rsvw a b) s (v.woken.GivesScalar a 0 FFlags.none 0) ∧ Yields (.rsvq a b) s (v.woken.GivesScalar a (ticket 0) FFlags.none 0)) ∧
      (clear → x.waiting = [] → tripped = true ∨ (head < n.toNat ∧ ∀ y ∈ x.admitted, t.rank.toNat ≤ y.rank) → ∃ v, only v p queued (leaph .waiting) ∧
        Yields (.rsvw a b) s (parks · .rsvw v) ∧ Yields (.rsvq a b) s (v.woken.GivesScalar a (ticket 9) FFlags.none 0)) ∧
      (∀ y, x.waiting = [] → tripped = false → x.admitted = [y] → y.rank < t.rank.toNat → head < n.toNat →
        (n.toNat : Int) ≤ head + (y.units - (y.spent + 255) / 256 : Nat) → y.active = true → y.saved = none → y.tid ≠ s.cur →
        (s.thread y.tid).adepth = y.level → Yields (.rsvw a b) s fun u =>
          pond u p { taken with fill := x.fill + (y.spent + 255) / 256, admitted := [{ req with awaits := [y.tid] }] } ∧
          u.thread y.tid = { s.thread y.tid with
            leaph := { (s.thread y.tid).leaph with state := .none }
            tsr := { (s.thread y.tid).tsr with leap := false }
            pendTrap := some (10, y.units - (y.spent + 255) / 256) } ∧
          u.thread s.cur = { leaph .admitted with park := some ⟨.pond .rsvw a none, s.nextPc, 0, t.tsr.leap⟩ } ∧
          ∀ k, k ≠ s.cur → k ≠ y.tid → u.thread k = s.thread k)) ∧
    (let mine : Prop := (n.extractLsb' 50 14).toNat = t.leaph.seq ∧ (n.extractLsb' 47 3).toNat = d ∧ (n.extractLsb' 39 8).toNat = t.leaph.pond
     (¬mine ∨ st = .none → gives s (.rwait a b) 5) ∧ (mine → st = .admitted ∨ st = .active →
       (s.cutsLeft s.cur = false → gives s (.rwait a b) 0) ∧ (s.cutsLeft s.cur = true → Yields (.rwait a b) s (parks · .rwait s))) ∧
     (mine → st = .waiting → Yields (.rwait a b) s (parks · .rwait s)) ∧
     (mine → st = .displaced → ∃ v, only v p x (state .none) ∧ gives v (.rwait a b) 6)) ∧
    (st = .none → gives s (.leap a b) 5) ∧ (st = .waiting → gives s (.leap a b) 9) ∧ (st = .active → gives s (.leap a b) 10) ∧
    (st = .displaced → ∃ v, only v p x (state .none) ∧ gives v (.leap a b) 6) ∧
    (st = .admitted → tripped = true → gives s (.leap a b) 8) ∧
    (st = .admitted → tripped = false → let q := t.leaph.pond
      (s.pond d q).cap ≠ 0 → ∃ v, only v q { s.pond d q with admitted := (s.pond d q).admitted.map fun y =>
          if y.saved = none ∧ y.tid = s.cur ∧ y.level = t.adepth then { y with active := true, spent := 0 } else y }
        { t with
          leaph := { t.leaph with state := .active, spent := 0 }
          tsr := { t.tsr with leap := true, cut := false, lost := false } } ∧ gives v (.leap a b) 0) ∧
    (idle → ∃ v, only v p x (state .none) ∧ gives v (.lend a b) (BitVec.allOnes 64)) ∧
    (∀ pre y post, let q := s.pond d t.leaph.pond
      st = .admitted ∨ st = .active → q.admitted = pre ++ y :: post → y.saved = none → y.tid = s.cur → y.level = t.adepth →
      (∀ z ∈ pre ++ post, ¬(z.saved = none ∧ z.tid = s.cur ∧ z.level = t.adepth)) → q.waiting = [] → q.cap ≠ 0 →
      let used := (y.spent + 255) / 256
      ∃ v, only v t.leaph.pond { q with fill := q.fill + used, admitted := pre ++ post } { state .none with tsr := { t.tsr with leap := false } } ∧
        gives v (.lend a b) (if st = .active then BitVec.ofNat 64 used else 0)) ∧
    (∀ pre y post, let q := s.pond d t.leaph.pond
      let mine (z : Resv) : Prop := z.saved = none ∧ z.tid = s.cur ∧ z.level = t.adepth
      st = .waiting → q.waiting = pre ++ y :: post → mine y → (∀ z ∈ q.admitted ++ pre ++ post, ¬mine z) → pre ++ post = [] ∨ tripped = true →
      ∃ v, only v t.leaph.pond { q with waiting := pre ++ post } (state .none) ∧ gives v (.lend a b) 0) ∧
    (63 < p ∨ x.cap = 0 → gives s (.rqry a b) (BitVec.allOnes 64)) ∧
    (p ≤ 63 → x.cap ≠ 0 → ∀ e ∈ [((0 : Reg), BitVec.ofNat 64 x.cap), (1, BitVec.ofNat 64 x.fill),
        (2, BitVec.ofNat 64 (x.admitted.map (·.units)).sum), (3, BitVec.ofInt 64 head), (4, BitVec.ofNat 64 x.waiting.length),
        (5, if tripped then 1 else 0)], gives s (.rqry a e.1) e.2)

/-- R349, R351, R353, R359, R361, Table 14.1: PCAP within the sum of 8,192 sets C and otherwise is ignored, PDRAIN lowers F and runs the pass, RTRIP
and RSENSE trip the section, which ends its active leaps with cause 11, or clear the trip; that a write of RHYST does so too is the model's choice
(log 50). -/
def Obligations.PondWrites : Prop :=
  ∀ (s : State) (d p : Nat) (value : BitVec 64), s.Canonical → d < 8 →
    let c := (value.extractLsb' 0 14).toNat
    let x := s.pond d p
    let y := s.die d
    let keys := y.ponds.map (·.1)
    let sum := (keys.map fun q => if q = p then 0 else (s.pond d q).cap).sum + c
    let only (u : State) (z : DieSt) : Prop := u = { s with dies := u.dies } ∧ (∀ e, e ≠ d → u.die e = s.die e) ∧ u.die d = z
    let pond (u : State) (z : Pond) : Prop := ∀ q, u.pond d q = if q = p then z else s.pond d q
    (63 < p ∨ 8192 < sum → Yields (.pcapWrite d p value) s (· = s)) ∧
    (p ≤ 63 → sum ≤ 8192 → x.waiting = [] → c ≠ 0 ∨ x.admitted = [] → Yields (.pcapWrite d p value) s fun u =>
      only u { y with ponds := Table.set Pond.zero p { x with cap := c, seq := if x.cap = 0 ∧ c ≠ 0 then 0 else x.seq } y.ponds }) ∧
    (63 < p → Yields (.pdrainWrite d p value) s (· = s)) ∧
    (p ≤ 63 → x.waiting = [] → Yields (.pdrainWrite d p value) s fun u =>
      only u { y with ponds := Table.set Pond.zero p { x with fill := x.fill - c } y.ponds }) ∧
    (∀ w q a, p ≤ 63 → y.tripped = false → x.waiting = [w] → (w.units : Int) ≤ (x.cap : Int) - (x.fill - c : Nat) - (x.admitted.map (·.units)).sum →
      w.saved = none → (s.thread w.tid).adepth = w.level → (s.thread w.tid).park = some q → q.why = .pond .rsvw a none → w.awaits = [] →
      dieOf w.tid = d → (s.thread w.tid).leaph.pond = p → (∀ v ∈ x.admitted, ¬(v.saved = none ∧ v.tid = w.tid ∧ v.level = w.level)) → q.drops = 0 →
      ¬(s.thread w.tid).pushes a → Yields (.pdrainWrite d p value) s fun u => pond u { x with fill := x.fill - c, waiting := [], admitted := x.admitted ++ [w] } ∧
        (∀ n, n ≠ w.tid → u.thread n = s.thread n) ∧ let T := s.thread w.tid; let R := (u.thread w.tid).regs
        (¬T.discards a → R.get (regIx a) = 0) ∧ (∀ r, r ≠ a → R.get (regIx r) = T.regs.get (regIx r)) ∧ u.thread w.tid = { T with
          regs := R
          leaph := { T.leaph with state := .admitted }
          park := none
          pc := q.next
          g6 := none
          wokenAt := s.now }) ∧
    ∀ e ∈ [(Instr.rtripWrite d value, { y with rtrip := c }), (.rsenseWrite d value, { y with rsense := c }),
        (.registerWrite (0xA000000000000 + d * 2 ^ 32 + 0x1810) value, { y with rhyst := c })],
      let z := e.2
      let trips : Prop := z.rtrip ≠ 0 ∧ z.rtrip ≤ z.rsense
      let clears : Prop := z.rtrip = 0 ∨ (z.rsense : Int) < (z.rtrip : Int) - z.rhyst
      (y.tripped = false → ¬trips → Yields e.1 s (only · z)) ∧
      (y.tripped = true → ¬clears → Yields e.1 s (only · z)) ∧
      (y.tripped = true → clears → (∀ q, (s.pond d q).waiting = []) → Yields e.1 s (only · { z with tripped := false })) ∧
      (y.tripped = false → trips → (∀ q, ∀ v ∈ (s.pond d q).admitted, v.active = false) → Yields e.1 s (only · { z with tripped := true })) ∧
      (∀ v, y.tripped = false → trips → keys = [p] → x.admitted = [v] → v.active = true → v.rank < 8 → v.saved = none →
        (s.thread v.tid).adepth = v.level → Yields e.1 s fun u => (u.die d).tripped = true ∧
          pond u { x with fill := x.fill + (v.spent + 255) / 256, admitted := [] } ∧ (∀ n, n ≠ v.tid → u.thread n = s.thread n) ∧
          u.thread v.tid = { s.thread v.tid with
            leaph := { (s.thread v.tid).leaph with state := .none }
            tsr := { (s.thread v.tid).tsr with leap := false }
            pendTrap := some (11, v.units - (v.spent + 255) / 256) })

/-- R370, R373 to R375, R380, Tables 15.3 and 15.5: the requests of a cluster's power block: quiesce, retention, clock gate, dividers, wake request,
vertical exclusion, sensors. A request that its rule ignores sets CPEVT.IGNORED. The control core of the die is not parked. -/
def Obligations.ClusterPower : Prop :=
  ∀ (s : State) (k : Nat) (w : Word), s.Canonical → goodCluster k = true → (s.thread (ctlBase + k / 16)).park = none →
    let c := s.cluster k
    let gives (e : Instr) (c' : ClusterSt) : Prop := Yields e s fun u => u = { s with clusters := u.clusters } ∧ u.cluster k = c' ∧
      ∀ j, j ≠ k → u.cluster j = s.cluster j
    let evt (e : ClusterSt) (n : Nat) : ClusterSt := { e with evt := e.evt ||| (1#9 <<< n) }
    let ignored : ClusterSt := evt c 4
    let allOn : Prop := c.railEng = 0x3F#6 ∧ c.railSpad = 2 ∧ ∀ r : Fin 3, c.railRow.get r = 2
    let noLive : Prop := ∀ n, n < ctlBase → clusterOf n = k → (s.thread n).state = .free
    let noJobs : Prop := ∀ o : Fin 6, (c.engines.get o).queue = [] ∧ (c.copies.get o).queue = []
    (w.getLsbD 63 = true → gives (.cpqreqWrite k w) { c with qreq := true }) ∧
    (w.getLsbD 63 = false → gives (.cpqreqWrite k w) (if c.gate then ignored else { c with qreq := false, quiet := false })) ∧
    (c.qreq = true → c.quiet = false → noLive → noJobs → (∀ n ∈ coresOf k, (s.core n).q = []) → c.w = [] →
      gives (.clusterQuiet k) (evt { c with quiet := true } 0)) ∧
    (c.qreq = false ∨ c.quiet = true ∨ ¬noLive ∨ ¬noJobs → Yields (.clusterQuiet k) s (· = s)) ∧
    gives (.save k) (if c.quiet = true ∧ c.ret = .none then { c with ret := .saving } else { c with refused := true }) ∧
    (c.ret = .saved → allOn → gives (.restore k) { c with ret := .restoring }) ∧
    (c.ret ≠ .saved ∨ ¬allOn → gives (.restore k) { c with refused := true }) ∧
    (c.ret = .saving → Yields (.saveComplete k) s fun u => ∃ r : Retained, u = { s with clusters := u.clusters } ∧
      u.cluster k = evt { c with ret := .saved, saved := some r } 1 ∧ (∀ j, j ≠ k → u.cluster j = s.cluster j) ∧
      r.tiles = c.tiles ∧ r.rings = c.rings ∧ r.divs = c.divs ∧ r.coreOn = c.coreOn ∧
      ∀ n ∈ coresOf k, (r.cycs.filter fun e => e.1 = n).map (·.2) = [s.coreNow n - (s.core n).cyc0]) ∧
    (c.ret ≠ .saving → Yields (.saveComplete k) s (· = s)) ∧
    (∀ r, c.ret = .restoring → c.saved = some r → Yields (.restoreComplete k) s fun u =>
      u = { s with clusters := u.clusters, cores := u.cores } ∧ (∀ j, j ≠ k → u.cluster j = s.cluster j) ∧
        u.cluster k = evt { c with
          tiles := r.tiles
          rings := r.rings
          divs := r.divs
          coreOn := r.coreOn
          ret := .none
          saved := none
          lines := []
          tlb := []
          icache := [] } 2 ∧
        ∀ n, let lost := n ∈ coresOf k
          ∃ z, u.core n = { s.core n with
              cyc0 := z
              fetch := if lost then [] else (s.core n).fetch
              utlb := if lost then [] else (s.core n).utlb } ∧
            (∀ v, (r.cycs.filter fun e => e.1 = n) = [(n, v)] → z = s.coreNow n - v) ∧ ((∀ e ∈ r.cycs, e.1 ≠ n) → z = (s.core n).cyc0)) ∧
    (c.ret ≠ .restoring ∨ c.saved = none → Yields (.restoreComplete k) s (· = s)) ∧
    (w.getLsbD 0 = true → gives (.cpcgateWrite k w) (if c.quiet then { c with gate := true } else ignored)) ∧
    (w.getLsbD 0 = false → allOn → c.ret = .none → gives (.cpcgateWrite k w) { c with gate := false }) ∧
    (w.getLsbD 0 = false → ¬allOn ∨ c.ret ≠ .none → gives (.cpcgateWrite k w) ignored) ∧
    (∀ r (h : r < 3), gives (.cpdivWrite k r w) { c with divs := c.divs.set r (w &&& 0xFFFFFFFF) h }) ∧
    (w.getLsbD 0 = true → gives (.wakereq (k / 16) (k % 16) w) { c with wake := c.wake ||| 1 }) ∧
    (w.getLsbD 0 = false → Yields (.wakereq (k / 16) (k % 16) w) s (· = s)) ∧
    (let n := s.now / 256
     let due : Prop := s.now % 256 = 0 ∧ c.window < n
     let asked : Prop := c.askCore = true ∧ c.askBase = true ∧ c.askAt + 1 = n
     (¬due → Yields (.vexclWindow k) s (· = s)) ∧
     (due → ¬asked → gives (.vexclWindow k) { c with halved := 0, window := n }) ∧
     (due → asked → gives (.vexclWindow k) (evt { c with halved := if c.leapCore = true ∧ c.leapBase = false then 2 else 1, window := n } 8))) ∧
    (∀ x (h : x < 3), gives (.shuntUseChange k x w) { c with shunt := c.shunt.set x (min 100 w.toNat) h }) ∧
    (∀ x (h : x < 6), gives (.shuntUseChange k (x + 3) w) { c with eshunt := c.eshunt.set x (min 100 w.toNat) h }) ∧
    (Yields (.pwrinUpdate w) s fun u => u = { s with dies := u.dies } ∧ u.die 0 = { s.die 0 with pwrin := w.extractLsb' 0 16 } ∧
      ∀ d, d ≠ 0 → u.die d = s.die d)

/-- R370, R374, R376, R378, R379: a rail transition runs field by field, a step at a time; a step that raises a field waits while a neighbour uses
more than 90 of its shunt, and proceeds after 4,096 cycles. A row with two failed phases goes dark. -/
def Obligations.RailsAndRows : Prop :=
  ∀ (s : State) (k : Nat) (w : Word), s.Canonical → goodCluster k = true → (s.thread (ctlBase + k / 16)).park = none →
    let c := s.cluster k
    let gives (e : Instr) (c' : ClusterSt) : Prop := Yields e s fun u => u = { s with clusters := u.clusters } ∧ u.cluster k = c' ∧
      ∀ j, j ≠ k → u.cluster j = s.cluster j
    let evt (e : ClusterSt) (n : Nat) : ClusterSt := { e with evt := e.evt ||| (1#9 <<< n) }
    let restarts (n : Nat) (c' : ClusterSt) : Prop := Yields (.cpcoreWrite k w) s fun u =>
      u = { s with clusters := u.clusters, cores := u.cores } ∧ u.cluster k = c' ∧ (∀ j, j ≠ k → u.cluster j = s.cluster j) ∧
        u.core (k * 64 + n) = { s.core (k * 64 + n) with cyc0 := s.coreNow (k * 64 + n) } ∧ ∀ j, j ≠ k * 64 + n → u.core j = s.core j
    let bitsOf (lo n : Nat) : Nat := w.toNat / 2 ^ lo % 2 ^ n
    let asked : RailField → Nat | .eng o => bitsOf (16 + o) 1 | .row r => bitsOf (2 * r) 2 | .spad => bitsOf 8 2
    let now : RailField → Nat
      | .eng o => (c.railEng.getLsbD o).toNat
      | .row r => if h : r < 3 then (c.railRow.get ⟨r, h⟩).toNat else 0
      | .spad => c.railSpad.toNat
    let down : List RailField := [.eng 5, .eng 4, .eng 3, .eng 2, .eng 1, .eng 0, .row 2, .row 1, .row 0, .spad]
    let dark (f : RailField) : Prop := ∃ r : Fin 3, f = .row r.val ∧ (c.rows.get r).dark = true
    let refused : Prop := c.moves ≠ [] ∨ (∃ f ∈ [RailField.row 0, .row 1, .row 2, .spad], asked f = 3 ∨ (asked f = 1 ∧ c.ret ≠ .saved)) ∨
      (∃ f ∈ down, asked f < now f ∧ (c.quiet = false ∨ c.gate = false)) ∨ ∃ f ∈ down, dark f ∧ now f < asked f
    (refused → gives (.cprailWrite k w) (evt c 4)) ∧
    (¬refused → gives (.cprailWrite k w) { c with
      moves := ((down.filter fun f => asked f < now f).map fun f => ⟨f, asked f, 1, none⟩) ++
        ((down.reverse.filter fun f => now f < asked f).map fun f => ⟨f, asked f, 8, none⟩) }) ∧
    (∀ m rest, c.coreMove = [] → c.moves = m :: rest →
      let crowded : Prop := now m.field < m.goal ∧ ∃ x ∈ s.neighbours k m.field, 90 < x
      let late : Prop := ∃ t, m.wait = some t ∧ t + 4096 ≤ s.now
      let steps (e : Instr) : Prop :=
        (1 < m.steps → gives e { c with moves := ⟨m.field, m.goal, m.steps - 1, none⟩ :: rest }) ∧
        (∀ o, o < 6 → m.steps ≤ 1 → m.field = .eng o → m.goal ≤ 1 → ∃ e' : BitVec 6,
          (∀ i, i < 6 → e'.getLsbD i = if i = o then decide (m.goal = 1) else c.railEng.getLsbD i) ∧
          (rest ≠ [] → gives e { c with moves := rest, railEng := e' }) ∧
          (rest = [] → gives e (evt { c with
            moves := []
            railEng := e'
            askCore := false
            askBase := false
            leapCore := false
            leapBase := false } 3)))
      (¬crowded → steps (.railStep k)) ∧
      (crowded → m.wait = none → gives (.railStep k) (evt { c with moves := ⟨m.field, m.goal, m.steps, some s.now⟩ :: rest } 7)) ∧
      (crowded → m.wait ≠ none → Yields (.railStep k) s (· = s)) ∧
      (late → steps (.stepWaitExpiry k)) ∧ (¬late → Yields (.stepWaitExpiry k) s (· = s))) ∧
    (∀ o, o < 6 → ∀ y : Nat, y ∈ s.neighbours k (.eng o) ↔
      (0 < o ∧ y = (c.eshunt[o - 1]?).getD 0) ∨ y = (c.eshunt[o + 1]?).getD 0 ∨ y = (c.shunt[o / 2]?).getD 0) ∧
    (∀ n, n < 48 → c.coreMove = [] → (∀ i, i < 48 → i ≠ n → w.getLsbD i = c.coreOn.getLsbD i) → w.getLsbD n = false → c.coreOn.getLsbD n = true →
      let live : Prop := ∃ t ∈ slotsOf (k * 64 + n), (s.thread t).state ≠ .free
      (live → gives (.cpcoreWrite k w) (evt c 4)) ∧
      (¬live → restarts n { c with coreOn := c.coreOn &&& ~~~(1#48 <<< n) })) ∧
    (∀ n, n < 48 → c.coreMove = [] → (∀ i, i < 48 → i ≠ n → w.getLsbD i = c.coreOn.getLsbD i) → w.getLsbD n = true → c.coreOn.getLsbD n = false →
      let crowded : Prop := ∃ x ∈ s.neighbours k (.row (n / 16)), 90 < x
      (¬crowded → restarts n { c with
        coreOn := c.coreOn ||| (1#48 <<< n)
        askCore := false
        askBase := false
        leapCore := false
        leapBase := false }) ∧
      (crowded → gives (.cpcoreWrite k w) (evt { c with coreMove := [(n, some s.now)] } 7))) ∧
    ∀ r (h : r < 3),
      let x := c.rows.get ⟨r, h⟩
      let row (y : RowSt) : ClusterSt := { c with rows := c.rows.set r y h }
      let slots : List Nat := (List.range 16).flatMap fun i => slotsOf (k * 64 + 16 * r + i)
      (x.dark = true ∨ x.failed = 0 → gives (.phaseFailure k r) (evt (row { x with failed := min 4 (x.failed + 1) }) 5)) ∧
      (1 ≤ x.failed → x.dark = false → c.moves = [] → (∀ t ∈ slots, (s.thread t).state ≠ .running) →
        (∀ i, i < 16 → (s.core (k * 64 + 16 * r + i)).taskq = []) → Yields (.phaseFailure k r) s fun u => ∃ v : State,
        v = { s with clusters := v.clusters } ∧ (∀ j, j ≠ k → v.cluster j = s.cluster j) ∧
        v.cluster k = evt (evt (row ⟨min 4 (x.failed + 1), true, s.now, x.gone⟩) 5) 6 ∧
        u = v.tellSup (k / 16) 5 (BitVec.ofNat 64 (k / 16)) (BitVec.ofNat 64 (k % 16)) (BitVec.ofNat 64 r) 0) ∧
      (x.dark = true → x.gone = false → x.since + 2 ^ 24 ≤ s.now → (∀ t ∈ slots, (s.thread t).state ∉ [.held, .stopped]) →
        gives (.darkRowExpiry k r) { row { x with gone := true } with railRow := c.railRow.set r 0 h }) ∧
      (x.dark = false ∨ x.gone = true ∨ s.now < x.since + 2 ^ 24 → Yields (.darkRowExpiry k r) s (· = s))

/-! ### Contexts, halts, migration (page 6) -/

/-- R331, R336, R337: TLBI and ICINV raise cause 1 for a reserved SCOPE and cause 3 for an address that Table 1.8 does not have; TLBI drops what it
covers in the micro-TLB of its core and goes to the parties of its scope, each of which drops what it covers and acknowledges; the last
acknowledgement sends the message, or lets a control core go on. ICINV parks until its range is dropped. A walk caches its leaf. That cause 1 comes before
cause 3 and that the issuer's micro-TLB drops at issue is the model's choice (log 53), as is that a walk caches its leaf (log 43). -/
def Obligations.Invalidations : Prop :=
  ∀ (s : State) (a b : Reg) (n k : Nat) (w0 : IWord), s.Canonical →
    let va := s.r a
    let w := s.r b
    let sc := (w.extractLsb' 45 3).toNat
    let dies : List Nat := if sc = 2 then [dieOf s.cur] else if sc = 3 then List.range 8 else []
    let clusters : List Nat := if sc = 1 then [clusterOf s.cur] else dies.flatMap fun d => (List.range 12).map fun c => d * 16 + c
    let q : TlbiReq := ⟨s.cur, w.getLsbD 44, w.extractLsb' 32 12, va.toNat / 65536 % 2 ^ 32 * 65536, (w.extractLsb' 0 32).toNat,
      w.extractLsb' 48 16, clusters ++ dies.map fun d => 1024 + d⟩
    let covers (q : TlbiReq) (c : BitVec 12) (v span : Nat) : Prop := (q.ctxAll = true ∨ q.ctx = c) ∧
      (q.pages = 0 ∨ (v < q.start + q.pages * 65536 ∧ q.start < v + span ∧ 0 < span))
    let ends (q : TlbiReq) : Msg := ⟨q.issuer, 0#17 ++ 4#3 ++ 0#12 ++ q.tag ++ 6#16, #v[0, 0, 0, 0], 3⟩
    let dropped (q : TlbiReq) (cs : List Nat) (v : State) : Prop := v = { s with cores := v.cores } ∧
      ∀ c, v.core c = { s.core c with utlb := (v.core c).utlb } ∧
        (c ∉ cs → v.core c = s.core c) ∧ (c ∈ cs → (v.core c).utlb.Sublist (s.core c).utlb ∧ ∀ e, e ∈ (v.core c).utlb ↔
          e ∈ (s.core c).utlb ∧ ¬covers q e.ctx e.va e.span)
    (s.me.tsr.priv = true →
      (∀ e ∈ [Instr.tlbi a b, .icinv a b],
        (3 < sc ∨ (sc = 1 ∧ isCtl s.cur = true) → s.ir.getLast? = some w0 →
          Yields e s (s.Trapped ⟨1, s.me.pc, s.me.pc, BitVec.ofNat 64 (w0.toNat + (s.ir.length - 1) * 65536)⟩)) ∧
        (sc ≤ 3 → (sc = 1 → isCtl s.cur = false) → 2 ^ 48 ≤ va.toNat → Yields e s (s.Trapped ⟨3, s.me.pc, va, 0⟩))) ∧
      (sc ≤ 3 → (sc = 1 → isCtl s.cur = false) → va.toNat < 2 ^ 48 → ∃ v, dropped q [coreOf s.cur] v ∧
        (sc = 0 → isCtl s.cur = true → Yields (.tlbi a b) s (v.Performs 1 fun x => x)) ∧
        (sc = 0 → isCtl s.cur = false → Yields (.tlbi a b) s (State.Performs { v with outbox := s.outbox ++ [ends q] } 1 fun x => x)) ∧
        (sc ≠ 0 → isCtl s.cur = false → Yields (.tlbi a b) s (State.Performs { v with tlbis := s.tlbis ++ [q] } 1 fun x => x)) ∧
        (sc ≠ 0 → isCtl s.cur = true → Yields (.tlbi a b) s fun u => s.ParksAs u .tlbi ∧
          u = { v with tlbis := s.tlbis ++ [q], threads := u.threads })) ∧
      (sc ≤ 3 → (sc = 1 → isCtl s.cur = false) → va.toNat < 2 ^ 48 → Yields (.icinv a b) s fun u => s.ParksAs u .icinv ∧
        ∃ cores : List Nat, (∀ c, c ∈ cores ↔ c = coreOf s.cur ∨ c / 64 ∈ clusters ∧ c % 64 < 48 ∨ ∃ d ∈ dies, c = coreOf (ctlBase + d)) ∧
          u = { s with threads := u.threads, icinvs := s.icinvs ++ [⟨s.cur, cores, clusters, va.toNat, (w.extractLsb' 0 32).toNat⟩] })) ∧
    let open' (q : TlbiReq) : Bool := s.routeOpen (dieOf q.issuer) (if 1024 ≤ k then k - 1024 else k / 16)
    (s.tlbis[n]? = none ∨ (∃ q, s.tlbis[n]? = some q ∧ (k ∉ q.left ∨ open' q = false)) → Yields (.tlbiAck n k) s (· = s)) ∧
    (∀ q, s.tlbis[n]? = some q → k ∈ q.left → open' q = true → s.chans = [] → s.waits = [] →
      (∀ t p x y, (s.thread t).park = some p → p.why ≠ .granted x y) → (∀ d, (s.die d).stack.queue = []) →
      let acks (v : State) : Prop :=
        ((∀ j ∈ q.left, j = k) →
          (isCtl q.issuer = false → Yields (.tlbiAck n k) s (· = { v with tlbis := s.tlbis.eraseIdx n, outbox := s.outbox ++ [ends q] })) ∧
          (∀ p, isCtl q.issuer = true → (s.thread q.issuer).park = some p → p.why = .tlbi →
            Yields (.tlbiAck n k) s fun u => v.Wakes u q.issuer p fun x => x)) ∧
        ((∃ j ∈ q.left, j ≠ k) → Yields (.tlbiAck n k) s
          (· = { v with tlbis := s.tlbis.set n { q with left := q.left.filter fun j => j ≠ k } }))
      (1024 ≤ k → ∃ v, dropped q [coreOf (ctlBase + (k - 1024))] v ∧ acks v) ∧
      (k < 1024 → (∀ c, c / 64 = k → (s.core c).q = []) → (s.cluster k).w = [] → (∀ o : Fin 6, ((s.cluster k).copies.get o).queue = []) →
        ∃ v v' : State, dropped q ((List.range 48).map fun i => k * 64 + i) v' ∧ v = { v' with clusters := v.clusters } ∧
          (∀ c, c ≠ k → v.cluster c = s.cluster c) ∧ (let c := s.cluster k; ∃ tlb lines, v.cluster k = { c with tlb := tlb, lines := lines } ∧
            tlb.Sublist c.tlb ∧ (∀ e, e ∈ tlb ↔ e ∈ c.tlb ∧ ¬covers q e.ctx e.va e.span) ∧
            lines.Sublist c.lines ∧ ∀ l, l ∈ lines ↔ l ∈ c.lines ∧ ¬covers q l.ctx l.va 128) ∧ acks v)) ∧
    (s.icinvs[n]? = none → Yields (.icinvComplete n) s (· = s)) ∧
    (∀ q, s.icinvs[n]? = some q → Yields (.icinvComplete n) s fun u => ∃ v : State,
      let cut (l : List FetchWord) : List FetchWord := l.filter fun f => ¬(q.count = 0 ∨ (f.va < q.start + q.count ∧ q.start < f.va + 2))
      v = { s with cores := v.cores, clusters := v.clusters, icinvs := s.icinvs.eraseIdx n } ∧
      (∀ c, v.core c = if c ∈ q.cores then { s.core c with fetch := cut (s.core c).fetch } else s.core c) ∧
      (∀ c, v.cluster c = if c ∈ q.clusters then { s.cluster c with icache := cut (s.cluster c).icache } else s.cluster c) ∧
      (∀ p, (s.thread q.issuer).park = some p → p.why = .icinv → v.Wakes u q.issuer p fun x => x) ∧
      ((∀ p, (s.thread q.issuer).park = some p → p.why ≠ .icinv) → u = v)) ∧
    ∀ tid va : Nat, goodTid tid = true ∨ (isCtl tid = true ∧ tid < ctlBase + 8) →
      let x := (s.thread tid).ctx
      (va < 2 ^ 32 ∨ 2 ^ 48 ≤ va ∨ s.walk x.ptbase va = .absent → Yields (.tableWalk tid va) s (· = s)) ∧
      (∀ pa, 2 ^ 32 ≤ va → va < 2 ^ 48 → s.walk x.ptbase va = .bad pa → Yields (.tableWalk tid va) s (· = s.noteBad pa 8)) ∧
      ∀ e span, 2 ^ 32 ≤ va → va < 2 ^ 48 → s.walk x.ptbase va = .leaf e span → Yields (.tableWalk tid va) s fun u =>
        let entry : TlbEntry := ⟨x.id, va / span * span, span, e⟩
        let add (m : Nat) (l : List TlbEntry) : List TlbEntry := (entry :: l.filter fun y => y ≠ entry).take m
        u = { s with cores := u.cores, clusters := u.clusters } ∧
          (∀ c, u.core c = if c = coreOf tid then { s.core c with utlb := add 16 (s.core c).utlb } else s.core c) ∧
          ∀ c, u.cluster c = if c = clusterOf tid ∧ isCtl tid = false then { s.cluster c with tlb := add 4096 (s.cluster c).tlb } else s.cluster c

/-- R323, R339, R340, Table 13.5: CTXS writes a HELD or STOPPED thread into a record and frees its slot; CTXL loads a record, fresh or saved, into the
lowest free slot of a core and clears VALID; each gives its codes, waits and traps. The thread has no leap, jobs, messages, frames, bindings or task:
what those leave in the record and beside it is not spoken of here. That the record is checked before the slot, and that the device keeps beside the
record what Table 13.5 has no word for, is the model's choice (log 36). -/
def Obligations.ContextRecords : Prop :=
  ∀ (s : State) (a b : Reg) (is : IPfx) (x : Target), s.Canonical → s.me.tsr.priv = true → s.me.state = .running → ¬s.me.pushes a →
    let va := s.addrOf b is
    let tid := (s.r a).toNat
    let t := s.thread tid
    let go : List Instr := [.ctxs a b is, .ctxl a b is]
    let there (need : Need) : Prop := va.toNat % 256 = 0 ∧ 2 ^ 32 ≤ va.toNat ∧ va.toNat < 2 ^ 48 ∧ va.toNat % 65536 + 2048 ≤ 65536 ∧
      s.check s.cur s.me.ctx true va 1 need = .ok x ∧ storageOf x.pa = .device ∧ s.policy s.me.codeid x = none ∧ s.bad = []
    let alone : Prop := s.outbox = [] ∧ (∀ (k : Nat) (o : Fin 6), ((s.cluster k).engines.get o).queue = [] ∧ ((s.cluster k).copies.get o).queue = []) ∧
      ∀ d, (s.die d).stack.queue = []
    let w (i : Nat) : Word := s.word (x.pa + 8 * i)
    let f (i lo n : Nat) : Nat := (w i).toNat / 2 ^ lo % 2 ^ n
    (2 ^ 48 ≤ va.toNat ∨ va.toNat % 256 ≠ 0 → ∀ i ∈ go, Yields i s (s.Trapped ⟨3, s.me.pc, va, 0⟩)) ∧
    (va.toNat % 256 = 0 → va.toNat < 2 ^ 32 → ∀ i ∈ go, Yields i s (s.Trapped ⟨5, s.me.pc, va, 0⟩)) ∧
    (there .write → goodTid tid = false ∨ t.state ∉ [.held, .stopped] →
      Yields (.ctxs a b is) s (s.GivesScalar a 1 FFlags.none 1)) ∧
    (there .write → s.Idle → alone → s.guarded x.pa 2048 = false → goodTid tid = true → t.state = .held ∨ t.state = .stopped → tid ≠ s.cur →
      t.frames = [] → t.leaph.state = .none → t.adepth = 0 → t.levels = [] → t.qbnd = 0 → t.migr = none → t.taskh = 0 → t.pendJob = none →
      t.pendTrap = none → t.barWait = none → (s.core (coreOf tid)).q = [] → (s.cluster (clusterOf tid)).w = [] →
      (s.core (coreOf tid)).sysq = [] → (∀ m ∈ (s.core (coreOf tid)).mailbox, m.dest ≠ tid) →
      (∀ p v, v ∈ (s.pond (dieOf tid) p).admitted ++ (s.pond (dieOf tid) p).waiting → (v.saved = none → v.tid ≠ tid) ∧ tid ∉ v.awaits) →
      (∀ e ∈ s.meter, e.owner ≠ tid) →
      Yields (.ctxs a b is) s fun u => ∃ v : State, v = { s with
          threads := v.threads
          mem := v.mem
          saves := Table.set Saved.none x.pa ⟨256, 0, t.parent, t.unit, [], none, .none, va, [], t.reserve⟩ s.saves } ∧
        v.GivesScalar a 0 FFlags.none 1 u ∧ v.thread tid = Thread.free ∧ (∀ n, n ≠ tid → v.thread n = s.thread n) ∧
        s.SameOutside v x.pa 2048 ∧
        (∀ e ∈ [(0, 1#1 ++ 0#3 ++ t.ctx.id ++ 0#16 ++ 0#8 ++ 0#7 ++ BitVec.ofNat 17 tid), (1, t.ctx.tenant.setWidth 64), (2, t.ctx.pondmap),
            (3, t.ctx.ptbase), (4, t.ctx.stvec), (5, t.ctx.rankset.setWidth 64), (6, t.codeid.setWidth 64), (7, t.privst),
            (8, t.ctx.ttbase), (9, t.ctx.ttsize), (10, t.ctx.rtbase), (11, t.ctx.rtsize), (12, t.ctx.tiles), (13, t.ctx.ringmask),
            (14, t.ctx.spbase), (15, t.ctx.spstride), (16, t.pc), (18, t.fctl), (19, t.vtype), (20, t.fmt), (21, t.scp), (22, 0),
            (23, t.mhdr), (25, t.rank.setWidth 64), (27, t.wsp), (30, t.tvec), (31, t.tcause), (32, t.taddr), (33, t.tepc), (34, t.tinfo),
            (35, 0), (36, 0), (132, t.sepc), (133, t.scause), (134, t.saddr), (135, t.sinfo), (136, 0), (137, 0), (138, 0), (139, 0), (140, 0)],
          v.word (x.pa + 8 * e.1) = e.2) ∧
        (∀ i : Fin 32, i.val ≠ 0 → v.word (x.pa + 8 * (36 + i.val)) = t.regs.get i) ∧
        (∀ i : Fin 32, v.word (x.pa + 8 * (68 + 2 * i.val)) = (t.vregs.get i).extractLsb' 0 64 ∧
          v.word (x.pa + 8 * (69 + 2 * i.val)) = (t.vregs.get i).extractLsb' 64 64) ∧
        ∀ i, 141 ≤ i → i < 256 → v.word (x.pa + 8 * i) = 0) ∧
    (there .rmw → f 0 63 1 = 0 → Yields (.ctxl a b is) s (s.GivesScalar a 0x8000000000000001 FFlags.none 1)) ∧
    (there .rmw → f 0 63 1 = 1 → goodTid tid = false → Yields (.ctxl a b is) s (s.GivesScalar a 0x8000000000000002 FFlags.none 1)) ∧
    (there .rmw → f 0 63 1 = 1 → goodTid tid = true → s.guarded x.pa 2048 = false →
      let k := tid / 16
      let c : Ctx := { id := (w 0).extractLsb' 48 12, tenant := (w 1).extractLsb' 0 16, pondmap := w 2, ptbase := w 3 &&& 0x000FFFFFFFFFF000
                       stvec := w 4 &&& 0x0000FFFFFFFFFFFE, rankset := (w 5).extractLsb' 0 3, ttbase := w 8 &&& 0x0000FFFFFFFFFFE0
                       ttsize := w 9 &&& 0x1FFFFFF, rtbase := w 10 &&& 0x0000FFFFFFFFFF00, rtsize := w 11 &&& 0x1FFFFF
                       tiles := w 12 &&& 0x1FFFF, ringmask := w 13, spbase := w 14 &&& 0x0000FFFFFFFFFF80
                       spstride := w 15 &&& 0x0000FFFFFFFFFF80 }
      let pc : Word := ((w 16).extractLsb' 0 48).setWidth 64
      (s.darkCore k = true → Yields (.ctxl a b is) s (s.Trapped ⟨5, s.me.pc, s.r a, 0⟩)) ∧
      (s.darkCore k = false → (s.cluster (k / 64)).qreq = true → Yields (.ctxl a b is) s ((s.setWake (k / 64) .ctxl).Rewaits .backPressure)) ∧
      (s.darkCore k = false → (s.cluster (k / 64)).qreq = false → s.freeSlots k = [] ∨ f 0 32 16 ≠ 0 →
        Yields (.ctxl a b is) s (s.Rewaits .ctxLoad)) ∧
      ∀ n rest, s.darkCore k = false → (s.cluster (k / 64)).qreq = false → s.freeSlots k = n :: rest → f 0 32 16 = 0 →
        let loads (P : State → Prop) : Prop := Yields (.ctxl a b is) s fun u => ∃ v : State, v.GivesScalar a (BitVec.ofNat 64 n) FFlags.none 1 u ∧
          v = { s with
            threads := v.threads
            clusters := v.clusters
            mem := v.mem
            saves := v.saves
            ctxs := Table.set none c.id.toNat (some c) s.ctxs } ∧
          v.word x.pa = w 0 &&& 0x7FFFFFFFFFFFFFFF ∧ s.SameOutside v x.pa 8 ∧ (∀ m, m ≠ n → v.thread m = s.thread m) ∧
          v.cluster (clusterOf n) = { s.cluster (clusterOf n) with lines := [] } ∧ (∀ j, j ≠ clusterOf n → v.cluster j = s.cluster j) ∧ P v
        (f 0 62 1 = 1 → loads fun v => v.saves = s.saves ∧
          s.Started n c ⟨pc, #v[w 44, w 45, w 46, w 47], 0, 0, 0, c.pondmap.extractLsb' (8 * dieOf n) 8, 0, (w 0).getLsbD 61⟩ none none (v.thread n)) ∧
        (f 0 62 1 = 0 → f 0 24 8 = 0 → alone → f 26 61 3 = 0 → w 22 = 0 → f 138 63 1 = 0 → f 136 63 1 = 0 → f 139 63 1 = 0 →
          (Table.get Saved.none s.saves x.pa).levels = [] → (∀ d p v, v ∈ (s.pond d p).admitted ++ (s.pond d p).waiting → v.saved ≠ some x.pa ∧
            (v.saved = none → v.tid ≠ n)) →
          loads fun v =>
            let z := v.thread n
            v.saves = Table.set Saved.none x.pa Saved.none s.saves ∧ z.state = .running ∧ z.park = none ∧ z.pc = pc ∧ z.ctx = c ∧
            (∀ i : Fin 32, z.regs.get i = if i.val = 0 then 0 else w (36 + i.val)) ∧
            (∀ i : Fin 32, z.vregs.get i = w (69 + 2 * i.val) ++ w (68 + 2 * i.val)) ∧
            z.frames = (Table.get Saved.none s.saves x.pa).frames ∧ z.reserve = (Table.get Saved.none s.saves x.pa).spare ∧ z.depth = f 28 0 32 ∧
            z.wsp = w 27 &&& 0x0000FFFFFFFFFF80 ∧ z.adepth = f 35 0 3 ∧ z.mhdr = w 23 &&& 0xFFFFF000FFFFFFFF ∧ z.rank = (w 25).extractLsb' 0 3 ∧
            z.fctl = w 18 &&& fctlMask ∧ z.vtype = w 19 &&& 0x1F ∧ z.fmt = w 20 &&& fmtMask ∧ z.scp = w 21 &&& scpMask ∧
            z.tvec = w 30 &&& 0x0000FFFFFFFFFFFF ∧ z.tcause = w 31 &&& 0x3F ∧ z.taddr = w 32 ∧ z.tepc = w 33 ∧ z.tinfo = w 34 &&& 0x81FFFFFFFFFFFFFF ∧
            z.sepc = w 132 ∧ z.scause = w 133 &&& 0x3F ∧ z.saddr = w 134 ∧ z.sinfo = w 135 ∧ z.privst = w 7 &&& 0x01FFFF000000000B ∧
            z.codeid = (w 6).extractLsb' 0 16 ∧ z.pondid = c.pondmap.extractLsb' (8 * dieOf n) 8 ∧ z.pendTrap = none ∧ z.pendJob = none ∧
            z.tsr = ⟨(w 17).getLsbD 5, (w 17).getLsbD 4 || decide (f 0 0 17 / 16384 ≠ dieOf n), (w 17).getLsbD 3, (w 17).getLsbD 2,
              (w 17).getLsbD 1, (w 17).getLsbD 0⟩))

/-- R325, R338: PREEMPT gives its codes or parks until its running target halts at a group boundary, which makes it HELD and answers 0; a target that
stops first answers 1. R326, R342, R346: KILL refuses the system context and one in teardown; else it answers 0, and the context has no thread left, no
packet, start message, unit, tadpole or job, no request at a pond and no read-cache line, its tiles are EMPTY and its tasks FAILED. Once its puts and its
writes to other packages are performed its buffered stores are discarded, its seals go, and its issuer, or the supervisor slot, is told with STATUS 7. That
KILL does all but the last of this in its own step is the model's choice (log 37). -/
def Obligations.PreemptionAndTeardown : Prop :=
  (∀ (s : State) (a b : Reg) (n : Nat), s.Canonical →
    let tid := (s.r a).toNat
    let t := s.thread tid
    let moving : Prop := t.state = .free ∧ ∃ d x, x ∈ (s.die d).arrivals ∧ x.oldTid = tid
    (s.me.tsr.priv = true → ¬s.me.pushes a →
      (goodTid tid = false → Yields (.preempt a b) s (s.GivesScalar a 2 FFlags.none 0)) ∧
      (goodTid tid = true → tid ≠ s.cur → moving → Yields (.preempt a b) s (s.GivesScalar a 3 FFlags.none 0)) ∧
      (goodTid tid = true → tid = s.cur ∨ (t.state ≠ .running ∧ ¬moving) → Yields (.preempt a b) s (s.GivesScalar a 1 FFlags.none 0)) ∧
      (goodTid tid = true → tid ≠ s.cur → t.state = .running → Yields (.preempt a b) s fun u => u = { s with threads := u.threads } ∧
        u.thread s.cur = { s.me with park := some ⟨.preempt tid a, s.nextPc, 0, s.me.tsr.leap⟩ } ∧
        u.thread tid = { t with preempts := t.preempts ++ [s.cur] } ∧ ∀ m, m ≠ tid → m ≠ s.cur → u.thread m = s.thread m)) ∧
    ((s.thread n).preempts = [] → Yields (.preemptHalt n) s (· = s)) ∧
    ∀ i p rd, (s.thread n).preempts = [i] → i ≠ n → (s.thread i).park = some p → p.why = .preempt n rd → ¬(s.thread i).pushes rd →
      let answers (st : SlotState) (code : Word) : Prop :=
        Yields (.preemptHalt n) s fun u => ∃ (v : State) (R : Vector Word 32), v = { s with threads := v.threads } ∧
          v.thread n = { s.thread n with state := st, preempts := [] } ∧ (∀ m, m ≠ n → v.thread m = s.thread m) ∧
          v.Wakes u i p (fun x => { x with regs := R }) ∧ (¬(s.thread i).discards rd → R.get (regIx rd) = code) ∧
          ∀ r, r ≠ rd → R.get (regIx r) = (s.thread i).regs.get (regIx r)
      ((s.thread n).state ≠ .running → answers (s.thread n).state 1) ∧
      ((s.thread n).state = .running → (s.thread n).park = none → (s.thread n).leaph.state = .none → (s.thread n).adepth = 0 →
        (s.thread n).qbnd = 0 → (s.thread n).migr = none → (∀ q, ∀ v ∈ (s.pond (dieOf n) q).admitted, n ∉ v.awaits) → answers .held 0)) ∧
  (∀ (s : State) (a b : Reg) (n : Nat), s.Canonical →
    let c : BitVec 12 := (s.r a).extractLsb' 0 12
    let ctx : BitVec 12 := BitVec.ofNat 12 n
    (s.me.tsr.priv = true → ¬s.me.pushes a →
      (c = 0 → Yields (.kill a b) s (s.GivesScalar a 1 FFlags.none 0)) ∧
      (c ≠ 0 → (∃ k ∈ s.kills, k.ctx = c) → Yields (.kill a b) s (s.GivesScalar a 2 FFlags.none 0)) ∧
      (c ≠ 0 → (∀ k ∈ s.kills, k.ctx ≠ c) → s.waits = [] → s.chans = [] → s.me.park = none → Yields (.kill a b) s fun u =>
        u.kills = s.kills ++ [⟨c, if s.me.ctx.id = c then none else some s.cur, dieOf s.cur⟩] ∧
        (∀ m, (s.thread m).ctx.id = c → (u.thread m).state = .free) ∧
        (s.me.ctx.id ≠ c → (u.thread s.cur).pc = s.nextPc ∧ (u.thread s.cur).park = none ∧
          (¬s.me.discards a → (u.thread s.cur).regs.get (regIx a) = 0)) ∧
        (∀ d, d < 8 → (∀ f ∈ (u.die d).fifos.toList, ∀ y ∈ f, ∀ q, y = .packet q → q.ctx.id ≠ c) ∧ (∀ y ∈ (u.die d).arrivals, y.thread.ctx.id ≠ c) ∧
          ∀ j ∈ (u.die d).stack.queue, j.owner.ctx.id ≠ c) ∧
        (∀ n, (∀ m ∈ (u.core n).startq, m.ctx.id ≠ c) ∧ ∀ q, TaskItem.packet q ∈ (u.core n).taskq → q.ctx.id ≠ c) ∧
        (∀ k, goodCluster k = true → (∀ l ∈ (u.cluster k).lines, l.ctx ≠ c) ∧
          (∀ e ∈ (u.cluster k).engines.toList, ∀ j ∈ e.queue, j.owner.ctx.id ≠ c) ∧
          (∀ e ∈ (u.cluster k).copies.toList, ∀ j ∈ e.queue, j.owner.ctx.id ≠ c) ∧
          ∀ n ∈ (s.ctxOf c).tileRange, u.tile k n = { s.tile k n with state := 0, tagv := false, tag := 0, pins := 0, latch := false }) ∧
        (∀ p v, v ∈ (u.pond (dieOf v.tid) p).admitted ++ (u.pond (dieOf v.tid) p).waiting → v.saved = none →
          (s.thread v.tid).state = .free ∨ (s.thread v.tid).ctx.id ≠ c) ∧
        ((∀ m q x y, (s.thread m).park = some q → q.why ≠ .granted x y) → (∀ k, ∀ e ∈ (s.cluster k).copies.toList, e.queue = []) →
          u.mem = (s.failTasks (s.ctxOf c) 0 ((s.ctxOf c).ttsize.extractLsb' 0 25).toNat).mem))) ∧
    (∀ (x : Ctx) (i pa : Nat), s.taskPa x i = some pa → s.badEntry pa = false → s.guarded pa 16 = false → taskStateOf (s.word pa) ≠ .free →
      let u := s.failTasks x i 1
      taskStateOf (u.word pa) = .failed ∧ (u.word pa).extractLsb' 48 16 = (s.word pa).extractLsb' 48 16 ∧ u.word (pa + 8) = s.word (pa + 8) ∧
        s.SameOutside u pa 16) ∧
    ((∀ k ∈ s.kills, k.ctx ≠ ctx) → Yields (.killComplete n) s (· = s)) ∧
    ((∃ ch ∈ s.chans, ∃ p, ChanItem.put p ∈ ch.2 ∧ p.ctx = ctx) ∨ (∃ j ∈ s.joins, j.ctr.ctx.id = ctx) ∨ s.remoteOwing ctx = true ∨
      (∃ r ∈ s.ramov, r.ctx.id = ctx) → Yields (.killComplete n) s (· = s)) ∧
    ∀ k, s.kills.find? (fun x => x.ctx == ctx) = some k → s.chans = [] → (∀ j ∈ s.joins, j.ctr.ctx.id ≠ ctx) →
      (∀ e ∈ s.streams, ∀ f ∈ e.2.unacked, f.frame.cls = 0 → f.frame.ctx ≠ ctx.toNat) → (∀ r ∈ s.ramov, r.ctx.id ≠ ctx) →
      Yields (.killComplete n) s fun u => ∃ v : State,
        v = { s with
          cores := v.cores
          clusters := v.clusters
          kills := s.kills.filter fun x => x.ctx != ctx
          seals := s.seals.filter fun e => e.1 % 4096 != ctx.toNat } ∧
        (∀ m, v.core m = { s.core m with q := (s.core m).q.filter fun e => e.ctx != ctx }) ∧
        (∀ m, v.cluster m = { s.cluster m with w := (s.cluster m).w.filter fun e => e.ctx != ctx }) ∧
        (let m (tid : Nat) : Msg := ⟨tid, 0#17 ++ 4#3 ++ 0#12 ++ (0#4 ++ ctx) ++ 7#16, #v[BitVec.ofNat 64 ctx.toNat, 0, 0, 0], 3⟩
         let sup := (s.die k.die).suptid
         let party := (sup.extractLsb' 0 17).toNat
         (∀ i, k.issuer = some i → u = { v with outbox := s.outbox ++ [m i] }) ∧
         (k.issuer = none → sup.getLsbD 63 = true → goodTid party = true → u = { v with outbox := s.outbox ++ [m party] })))

/-- R343, R379, R387, R394 to R400, Tables 16.4 and 16.5: MIGR marks its target, which is packed at its boundary, shipped once the arrival queue of 64 has
room, and placed in the first suitable core of its preference list with its messages, TSR.MIGRATED set. A target on a dark row raises cause 5; a dead link
holds a tadpole; a tadpole packed for another move than the one its slot is marked with stays. That what is late goes with the tadpole and is posted again
at the new TID, and how a packed slot is marked, is the model's choice (log 27). -/
def Obligations.Migration : Prop :=
  ∀ (s : State) (a b : Reg) (tid die : Nat), s.Canonical →
    (let n := (s.r a).toNat
     let dst := ((s.r b).extractLsb' 0 3).toNat
     s.me.tsr.priv = true → ¬s.me.pushes a →
      (goodTid n = false → Yields (.migr a b) s (s.GivesScalar a 2 FFlags.none 0)) ∧
      (goodTid n = true → s.darkCore (n / 16) = true → Yields (.migr a b) s (s.Trapped ⟨5, s.me.pc, BitVec.ofNat 64 n, 0⟩)) ∧
      (goodTid n = true → s.darkCore (n / 16) = false → (s.thread n).state ≠ .running → Yields (.migr a b) s (s.GivesScalar a 1 FFlags.none 0)) ∧
      (goodTid n = true → s.darkCore (n / 16) = false → (s.thread n).state = .running → dieOf n = dst →
        Yields (.migr a b) s (s.GivesScalar a 3 FFlags.none 0)) ∧
      (goodTid n = true → s.darkCore (n / 16) = false → (s.thread n).state = .running → dieOf n ≠ dst → (s.thread n).migr = none → Yields (.migr a b) s fun u => ∃ v,
        s.GivesScalar a 0 FFlags.none 0 v ∧ v.OnlyThread u n { v.thread n with migr := some (dst, some s.cur) })) ∧
    (let t := s.thread tid
     let msgs : List Msg := (s.core (coreOf tid)).mailbox.filter fun m => m.dest == tid
     (t.state ≠ .running ∨ t.preempts ≠ [] ∨ (t.migr = none ∧ t.park = none) → Yields (.migrationPack tid) s (· = s)) ∧
     (∀ dst i, goodTid tid = true → t.state = .running → t.preempts = [] → t.migr = some (dst, i) → t.park = none → t.frames = [] → t.levels = [] →
       t.adepth = 0 → t.leaph.state = .none → t.qbnd = 0 → (∀ l, s.jobsOut tid l = false) → (s.core (coreOf tid)).q = [] →
       (s.cluster (clusterOf tid)).w = [] → s.chans = [] → s.streams = [] →
       (∀ p v, v ∈ (s.pond (dieOf tid) p).admitted ++ (s.pond (dieOf tid) p).waiting → (v.saved = none → v.tid ≠ tid) ∧ tid ∉ v.awaits) →
       Yields (.migrationPack tid) s fun u => s.OnlyThread u tid
         { t with park := some ⟨.migration dst (3 + tid / 1024 % 16) true, t.pc, 0, false⟩ }) ∧
     ∀ p dst pref, t.preempts = [] → t.park = some p → p.why = .migration dst pref true →
       let meant : Prop := ∀ m, t.migr = some m → m.1 = dst ∧ 3 ≤ pref
       (64 ≤ (s.die dst).arrivals.length ∨ ¬meant ∨ s.routeOpen (dieOf tid) dst = false → Yields (.tadpoleShip tid) s (· = s)) ∧
       ((s.die dst).arrivals.length < 64 → meant → s.routeOpen (dieOf tid) dst = true → (∀ e ∈ s.meter, e.owner ≠ tid) → (s.core (coreOf tid)).sysq = [] → s.outbox = [] → Yields (.tadpoleShip tid) s fun u =>
         u = { s with threads := u.threads, cores := u.cores, dies := u.dies } ∧ u.thread tid = Thread.free ∧
         (∀ n, n ≠ tid → u.thread n = s.thread n) ∧ (∀ d, d ≠ dst → u.die d = s.die d) ∧
         u.core (coreOf tid) = { s.core (coreOf tid) with mailbox := (s.core (coreOf tid)).mailbox.filter fun m => m.dest != tid } ∧
         (∀ k, k ≠ coreOf tid → u.core k = s.core k) ∧
         u.die dst = { s.die dst with arrivals := (s.die dst).arrivals ++
           [⟨{ t with migr := none }, tid, msgs, [], pref, if 3 ≤ pref then t.migr.bind (·.2) else none⟩] })) ∧
    (die < 8 → (s.die die).arrivals = [] → Yields (.tadpolePlace die) s (· = s)) ∧
    ∀ x rest c0 cs, die < 8 → (s.die die).arrivals = x :: rest →
      (x.pref = 0 → c0 :: cs = List.range 12) → (x.pref = 1 → c0 :: cs = (List.range 12).reverse) →
      (x.pref = 2 → c0 :: cs = [5, 6, 4, 7, 3, 8, 2, 9, 1, 10, 0, 11]) →
      (3 ≤ x.pref → c0 = x.pref - 3 ∧ cs = (List.range 12).filter fun c => c != c0) →
      let cores := (c0 :: cs).flatMap fun c => (List.range 48).map fun i => (die * 16 + c) * 64 + i
      let suits (k : Nat) : Prop := s.coreTakes k = true ∧ x.msgs.length + (s.core k).mailbox.length ≤ 32
      let skip : State := if (s.cluster (die * 16 + c0)).qreq then s.setWake (die * 16 + c0) .tadpole else s
      ((∀ k ∈ cores, ¬suits k) → Yields (.tadpolePlace die) s (· = skip)) ∧
      ∀ pre k post n, cores = pre ++ k :: post → (∀ j ∈ pre, ¬suits j) → suits k → (s.freeSlots k).head? = some n →
        x.thread.taskh = 0 → x.thread.levels = [] → (s.cluster (die * 16 + c0)).qreq = false → Yields (.tadpolePlace die) s fun u =>
          let t : Thread := { x.thread with
            pondid := x.thread.ctx.pondmap.extractLsb' (8 * die) 8
            tsr := { x.thread.tsr with migrated := true }
            park := none
            issuedAt := s.now
            wokenAt := s.now }
          let answer (i : Nat) : Msg := ⟨i, 0#17 ++ 4#3 ++ 0#28 ++ 8#16, #v[BitVec.ofNat 64 x.oldTid, BitVec.ofNat 64 n, 0, 0], 3⟩
          u = { s with
            threads := u.threads
            cores := u.cores
            clusters := u.clusters
            dies := u.dies
            outbox := s.outbox ++ (x.late.map fun m => ⟨n, m.header, m.payload, m.scope⟩) ++ (match x.issuer with
              | some i => [answer (if i = x.oldTid then n else i)]
              | none => []) } ∧
          u.thread n = t ∧ (∀ m, m ≠ n → u.thread m = s.thread m) ∧
          u.die die = { s.die die with arrivals := rest } ∧ (∀ d, d ≠ die → u.die d = s.die d) ∧
          u.core k = { s.core k with mailbox := (s.core k).mailbox ++ x.msgs.map fun m => ⟨n, m.header, m.payload, m.scope⟩ } ∧
          (∀ j, j ≠ k → u.core j = s.core j) ∧ u.cluster (k / 64) = { s.cluster (k / 64) with lines := [] } ∧
          ∀ j, j ≠ k / 64 → u.cluster j = s.cluster j

/-- R158, R325, R341, R344, R347, R370, R387, R413, R415: HALT parks unless a message or, on a control core, an event waits; SECM puts its block into
the request queue of 16, once every link on the way to die 0 carries traffic (a dead link is back-pressure: log 72); an unknown code is answered with STATUS 8; a home removes a seal and lets its WRP go on; soft errors are counted in CECNT of
their kind, or leave a word that cannot be corrected. -/
def Obligations.HaltsRequestsErrors : Prop :=
  ∀ (s : State) (a b : Reg) (is : IPfx) (n : Nat), s.Canonical →
    let va := s.addrOf b is
    (s.me.tsr.priv = true →
      (let now : Prop := if isCtl s.cur then ∃ k ∈ clustersOf (dieOf s.cur), (s.cluster k).evt ≠ 0 ∨ (s.cluster k).wake ≠ 0
         else ∃ m ∈ (s.core (coreOf s.cur)).mailbox, m.dest = s.cur
       (now → Yields (.halt a b) s (s.GoesTo s.nextPc)) ∧
       (¬now → Yields (.halt a b) s fun u => s.OnlyThread u s.cur { s.me with park := some ⟨.halt, s.nextPc, 0, s.me.tsr.leap⟩ })) ∧
      (va.toNat % 64 ≠ 0 → Yields (.secm a b is) s (s.Trapped ⟨3, s.me.pc, va, 0⟩)) ∧
      ∀ t, s.Idle → s.Reaches va 64 .read t → ¬s.me.pushes a →
        (s.routeOpen (dieOf s.cur) 0 = false → Yields (.secm a b is) s (s.Rewaits .backPressure)) ∧
        (s.routeOpen (dieOf s.cur) 0 = true → 16 ≤ s.ramov.length → Yields (.secm a b is) s (s.GivesScalar a 1 FFlags.none 1)) ∧
        (s.routeOpen (dieOf s.cur) 0 = true → s.ramov.length < 16 → Yields (.secm a b is) s (({ s with ramov := s.ramov ++ [⟨s.cur, s.me.ctx, true, false,
          (List.range 8).map (fun i => s.word (t.pa + 8 * i)), va⟩] } : State).GivesScalar a 0 FFlags.none 1))) ∧
    (∀ r rest, s.ramov = r :: rest → r.mtrs = false → let w := (r.block[0]?).getD 0
      ((w.extractLsb' 0 8).toNat = 0 ∨ 8 < (w.extractLsb' 0 8).toNat) → Yields .badcodeRequest s fun u =>
        ∃ q, u = { s with
          ramov := rest
          fresh := u.fresh
          outbox := s.outbox ++ [⟨r.issuer, 0#17 ++ 5#3 ++ 0#12 ++ w.extractLsb' 16 16 ++ 8#16, q, 3⟩] }) ∧
    (let t := s.thread n
     (∀ p, t.park = some p → p.why = .unseal → Yields (.unseal n) s
       (({ s with seals := Table.set none ((t.sinfo.extractLsb' 0 32).toNat * 4096 + t.ctx.id.toNat) none s.seals } : State).Wakes · n p fun x => x)) ∧
     ((∀ p, t.park = some p → p.why ≠ .unseal) → Yields (.unseal n) s (· = s))) ∧
    ∀ pa : Nat,
      let kinds : List (Storage × Nat) := [(.tcm, 0), (.spad, 1), (.sram, 2), (.device, 3)]
      (∀ e ∈ kinds, ∀ h : e.2 < 4, storageOf pa = e.1 → Yields (.softError pa true) s fun u => u = { s with dies := u.dies } ∧
        (let x := s.die (homeDie pa)
         u.die (homeDie pa) = { x with cecnt := x.cecnt.set e.2 (if x.cecnt.get ⟨e.2, h⟩ = BitVec.allOnes 64 then BitVec.allOnes 64 else x.cecnt.get ⟨e.2, h⟩ + 1) h }) ∧
        ∀ d, d ≠ homeDie pa → u.die d = s.die d) ∧
      (∀ e ∈ kinds, storageOf pa = e.1 → Yields (.softError pa false) s fun u => u = { s with bad := u.bad } ∧
        ∀ w, u.uncorrectable w = if wordOf w = wordOf pa then true else s.uncorrectable w)

/-! ### Links, host, start, metering -/

/-- R385 to R387, Table 16.2, Table 13.12: LINKCTL of the owning end is accepted or sets IGNORED; a field that a request changes, or that differs from
the width or rate in use, is to be changed; the width change and then the rate change complete at both ends; a failed lane that no spare replaces
narrows the link. A register write changes its register's writable fields. That a request's changes complete as two events, the width first and no
wider than the good lanes allow, and that a write of RHYST evaluates the trip, are the model's choices (log 50). -/
def Obligations.LinksAndRegisters : Prop :=
  ∀ (s : State) (d l : Nat) (v : Word), s.Canonical → d < 8 → ∀ h : l < 3,
    let e := if l = 0 then d / 4 * 4 + (d % 4 + 1) % 4 else if l = 1 then d / 4 * 4 + (d % 4 + 3) % 4 else (d + 4) % 8
    let m : Fin 3 := if l = 0 then 1 else if l = 1 then 0 else 2
    let x := (s.die d).links.get ⟨l, h⟩
    let y := (s.die e).links.get m
    let own (i : Instr) (z : Link) : Prop := Yields i s fun u => u = { s with dies := u.dies } ∧
      u.die d = { s.die d with links := (s.die d).links.set l z h } ∧ ∀ k, k ≠ d → u.die k = s.die k
    let both (i : Instr) (z z' : Link) : Prop := Yields i s fun u => u = { s with dies := u.dies } ∧
      u.die d = { s.die d with links := (s.die d).links.set l z h } ∧
      u.die e = { s.die e with links := (s.die e).links.set m.val z' m.isLt } ∧ ∀ k, k ≠ d → k ≠ e → u.die k = s.die k
    let w : BitVec 2 := v.extractLsb' 0 2
    let r : BitVec 2 := v.extractLsb' 2 2
    let bad : Prop := ¬d < e ∨ x.busy = true ∨ w = 3 ∨ r = 3 ∨ x.good < 64 / 2 ^ w.toNat
    (bad → own (.linkctlWrite d l v) { x with ignored := true }) ∧
    let lanes (q : BitVec 2) : Nat := 64 / 2 ^ q.toNat
    let fit (good : Nat) (q : BitVec 2) : BitVec 2 := if lanes q ≤ good ∨ good < 16 then q else if 64 ≤ good then 0 else if 32 ≤ good then 1 else 2
    (¬bad → w = x.reqWidth → r = x.reqRate → Yields (.linkctlWrite d l v) s (· = s)) ∧
    (¬bad → w ≠ x.reqWidth ∨ r ≠ x.reqRate →
      let z (q : Link) : Link := { q with
        busy := true
        wpend := decide (w ≠ x.reqWidth ∨ w ≠ x.width)
        rpend := decide (r ≠ x.reqRate ∨ r ≠ x.rate) }
      both (.linkctlWrite d l v) (z { x with reqWidth := w, reqRate := r }) (z y)) ∧
    (d < e → x.busy = true → x.wpend = true →
      let z (q : Link) : Link := { q with
        width := fit q.good x.reqWidth
        wdone := true
        wpend := false
        busy := x.rpend }
      both (.linkWidthChange d l) (z x) (z y) ∧ Yields (.linkRateChange d l) s (· = s)) ∧
    (d < e → x.busy = true → x.wpend = false → x.rpend = true →
      let z (q : Link) : Link := { q with rate := x.reqRate, rdone := true, rpend := false, busy := false }
      both (.linkRateChange d l) (z x) (z y) ∧ Yields (.linkWidthChange d l) s (· = s)) ∧
    (¬d < e ∨ x.busy = false → Yields (.linkWidthChange d l) s (· = s) ∧ Yields (.linkRateChange d l) s (· = s)) ∧
    (let z (q : Link) : Link := { q with
       good := x.good - 1
       width := fit (x.good - 1) q.width
       wdone := q.wdone || fit (x.good - 1) q.width != q.width }
     both (.laneFailure d l) (z x) (z y)) ∧
    (let at_ (off : Nat) : Instr := .registerWrite (0xA000000000000 + d * 2 ^ 32 + off) v
     let q := s.die d
     (∀ i ∈ [(at_ 0x000, { q with suptid := v &&& 0x800000000001FFFF }), (at_ 0x008, { q with cecnt := q.cecnt.set 0 v }),
         (at_ 0x010, { q with cecnt := q.cecnt.set 1 v }), (at_ 0x018, { q with cecnt := q.cecnt.set 2 v }),
         (at_ 0x020, { q with cecnt := q.cecnt.set 3 v }), (at_ 0x028, q), (at_ 0x030, { q with drops := v }), (at_ 0x038, { q with hdrops := v }),
         (at_ 0x040, if d = 7 then { q with rdrops := v } else q), 
         (at_ 0x1818, q), (at_ 0x2080, { q with engidle := v.extractLsb' 0 32 }), (at_ 0x3200, q),
         (at_ (0x3040 + 8 * l), { q with links := q.links.set l { x with
           ignored := x.ignored && !v.getLsbD 10
           wdone := x.wdone && !v.getLsbD 9
           rdone := x.rdone && !v.getLsbD 8 } h })],
       Yields i.1 s fun u => u = { s with dies := u.dies } ∧ u.die d = i.2 ∧ ∀ k, k ≠ d → u.die k = s.die k) ∧
     ((if q.tripped then q.rtrip ≠ 0 ∧ q.rtrip ≤ q.rsense + v.toNat % 2 ^ 14 else q.rtrip = 0 ∨ q.rsense < q.rtrip) →
       Yields (at_ 0x1810) s fun u => u = { s with dies := u.dies } ∧ u.die d = { q with rhyst := v.toNat % 2 ^ 14 } ∧
         ∀ k, k ≠ d → u.die k = s.die k) ∧
     (d = 7 → Yields (at_ 0x4000) s (· = { s with pkgid := v.extractLsb' 0 15 }) ∧ Yields (at_ 0x4008) s (· = { s with lostmsg := v })) ∧
     (∀ off, 0x5800 ≤ off → off < 2 ^ 32 → d ≠ 0 → Yields (at_ off) s (· = s)))

/-- R234, R381, R387, R422 to R425, Table 18.4: a frame in order is taken, an earlier one acknowledged again, a later one, one for another package and
any while PKGID is unset dropped. A write frame's writes, cut at 16-byte boundaries, are performed one by one in its context, or lost and counted in
RDROPS, and the frame is acknowledged after the last of them; a message frame is accepted as R158 says. An acknowledgement ends the frames up to its
number; 2^17 cycles after the oldest was sent it and the frames after it are sent again, 64 times, and then the peer is unreachable. That the
acknowledgement names its class in DEST and needs a valid peer entry, the cut of a frame, and that a dead link on the way from die 7 holds a message
are the model's choices (logs 41, 42 and 72). -/
def Obligations.Frames : Prop :=
  ∀ (s : State) (f : Frame) (pkg cls n : Nat), s.Canonical →
    let ours : Prop := f.dstPkg = s.pkgid.toNat ∧ s.pkgid ≠ 0x7FFF#15
    let x (p c : Nat) : Stream := Table.get Stream.zero s.streams (p * 4 + c)
    let sat (w : Word) : Word := if w = BitVec.allOnes 64 then w else w + 1
    let answer (upTo p c : Nat) : List Frame := match s.peerOf p with
      | some e => if s.pkgid = 0x7FFF#15 then []
        else [⟨e.a.getLsbD 62, e.mac.setWidth 48, s.pkgid.toNat, p, 2, 0, upTo, BitVec.ofNat 64 c, 0, [], 0⟩]
      | none => []
    let owed (xs : List Incoming) (p c : Nat) : Nat := if c = 0 then (xs.filter fun y => y.pkg == p).length else 0
    let i (c : Nat) : Instr := if c = 0 then .remoteWriteFrame f else .remoteMessageFrame f
    let taken (c : Nat) : Table Stream :=
      Table.set Stream.zero (f.srcPkg * 4 + c) { x f.srcPkg c with expect := (f.seq + 1) % 2 ^ 32 } s.streams
    (∀ c, c < 2 → ¬ours ∨ f.cls ≠ c → Yields (i c) s (· = s)) ∧
    (∀ c, c < 2 → ours → f.cls = c → f.seq < 2 ^ 32 → (x f.srcPkg c).expect < 2 ^ 32 →
      let ahead := (f.seq + 2 ^ 32 - (x f.srcPkg c).expect) % 2 ^ 32
      (0 < ahead → ahead < 2 ^ 31 → Yields (i c) s (· = s)) ∧
      (2 ^ 31 ≤ ahead → Yields (i c) s (· = { s with
        sent := s.sent ++ answer (((x f.srcPkg c).expect + 2 ^ 33 - 1 - owed s.incoming f.srcPkg c) % 2 ^ 32) f.srcPkg c }))) ∧
    (ours → f.cls = 0 → f.seq < 2 ^ 32 → f.seq = (x f.srcPkg 0).expect → 0 < f.bytes → f.bytes ≤ 8 * f.words.length →
      (∀ y ∈ s.incoming, y.pkg = f.srcPkg → y.writes ≠ [] ∨ y.flying ≠ 0) →
      let a := (f.dest.extractLsb' 0 48).toNat
      let byte (j : Nat) : Byte := ((f.words[j / 8]?).getD 0).extractLsb' (8 * (j % 8)) 8
      let writes : List (Nat × List Byte) := (List.range ((a % 16 + f.bytes + 15) / 16)).map fun k =>
        let lo := max a (a / 16 * 16 + 16 * k)
        (lo, (List.range (min (a + f.bytes) (a / 16 * 16 + 16 * k + 16) - lo)).map fun j => byte (lo - a + j))
      Yields (.remoteWriteFrame f) s (· = { s with
        streams := taken 0
        incoming := s.incoming ++ [⟨f.srcPkg, f.seq, BitVec.ofNat 12 f.ctx, writes, 0⟩] })) ∧
    (∀ pre y post j va bs, s.incoming = pre ++ y :: post → (pre ++ [y]).Pairwise (fun p q => p.pkg ≠ q.pkg) → y.seq < 2 ^ 32 →
      (∀ z ∈ pre ++ post, z.key ≠ y.key) → (∀ z ∈ post, z.pkg = y.pkg → z.writes ≠ [] ∨ z.flying ≠ 0) → y.writes[j]? = some (va, bs) →
      let e : Instr := .ew 1032 ((pre.map fun z => z.writes.length).sum + j)
      let z := { y with writes := y.writes.eraseIdx j }
      let last : Prop := z.writes = [] ∧ y.flying = 0
      let left (u : State) : Prop :=
        (¬last → u.incoming = pre ++ z :: post ∧ u.sent = s.sent) ∧
        (last → u.incoming = pre ++ post ∧
          u.sent = s.sent ++ answer (((x y.pkg 0).expect + 2 ^ 33 - 1 - owed post y.pkg 0) % 2 ^ 32) y.pkg 0)
      let lost : Prop := Yields e s fun u => u = { s with dies := u.dies, incoming := u.incoming, sent := u.sent } ∧ left u ∧
        (∀ d, d ≠ 7 → u.die d = s.die d) ∧ u.die 7 = { s.die 7 with rdrops := sat (s.die 7).rdrops }
      let c := Table.get none s.ctxs y.ctx.toNat
      (c = none ∨ va < 2 ^ 32 ∨ 2 ^ 48 ≤ va → lost) ∧
      ∀ c', c = some c' → 2 ^ 32 ≤ va → va < 2 ^ 48 → (s.walk c'.ptbase va = .absent → lost) ∧
        ∀ l span, s.walk c'.ptbase va = .leaf l span →
          let pa := leafPa l + va % span
          let may : Prop := storageOf pa ∈ [Storage.device, .sram, .spad] ∧ (l.extractLsb' 6 3).toNat ≠ 4 ∧ l.getLsbD 3 = true ∧ l.getLsbD 5 = true
          (¬may → lost) ∧
          (may → homeDie pa ≠ 7 → Yields e s (· = { s with
            incoming := pre ++ { z with flying := y.flying + 1 } :: post
            chans := (s.enqueue 7 (homeDie pa) (.jobWrite 1032 y.key y.ctx ⟨BitVec.ofNat 64 va, pa, bs.map some, []⟩)).chans })) ∧
          (may → homeDie pa = 7 → s.asleep pa = none → s.seals = [] → s.waits = [] → s.bad = [] → s.guarded pa bs.length = false → Yields e s fun u =>
            u = { s with mem := u.mem, empties := u.empties, incoming := u.incoming, sent := u.sent } ∧ left u ∧
            (∀ j, j < bs.length → u.byte (pa + j) = (bs[j]?).getD 0) ∧ s.SameOutside u pa bs.length ∧
            (∀ j, j < bs.length → u.full (pa + j) = true) ∧ ∀ b, wordOf b + 8 ≤ pa ∨ pa + bs.length ≤ wordOf b → u.full b = s.full b)) ∧
    (ours → f.cls = 1 → f.seq < 2 ^ 32 → f.seq = (x f.srcPkg 1).expect →
      let tid := (f.dest.extractLsb' 0 17).toNat
      let w (j : Nat) : Word := (f.words[j]?).getD 0
      let core := s.core (coreOf tid)
      let accepted (v : State) : State := { v with streams := taken 1, sent := s.sent ++ answer f.seq f.srcPkg 1 }
      let way : Prop := s.routeOpen 7 (dieOf tid) = true
      (goodTid tid = false → Yields (.remoteMessageFrame f) s (· = accepted { s with lostmsg := sat s.lostmsg })) ∧
      (goodTid tid = true → way → core.sysq = [] → core.mailbox.length + 8 ≤ 32 → (w 0).extractLsb' 44 3 = 0#3 →
        (∀ p, (s.thread tid).park = some p → p.why ≠ .mailbox ∧ p.why ≠ .halt) →
        Yields (.remoteMessageFrame f) s (· = accepted (s.updCore (coreOf tid) fun c =>
          { c with mailbox := c.mailbox ++ [⟨tid, w 0, #v[w 1, w 2, w 3, w 4], 4⟩] }))) ∧
      (goodTid tid = true → (w 0).extractLsb' 44 3 = 0#3 → core.sysq ≠ [] ∨ 32 < core.mailbox.length + 8 ∨ ¬way →
        Yields (.remoteMessageFrame f) s (· = s))) ∧
    (s.pkgid = 0x7FFF#15 → Yields (.acknowledgementFrame pkg cls n) s (· = s) ∧ Yields (.retransmit pkg cls) s (· = s)) ∧
    (∀ pre g post, s.pkgid ≠ 0x7FFF#15 → (x pkg cls).unacked = pre ++ g :: post → (∀ e ∈ pre, e.frame.seq ≠ n) → g.frame.seq = n →
      Yields (.acknowledgementFrame pkg cls n) s (· = { s with
        streams := Table.set Stream.zero (pkg * 4 + cls) { x pkg cls with unacked := post } s.streams })) ∧
    ((∀ e ∈ (x pkg cls).unacked, e.frame.seq ≠ n) → Yields (.acknowledgementFrame pkg cls n) s (· = s)) ∧
    ((x pkg cls).unacked = [] → Yields (.retransmit pkg cls) s (· = s)) ∧
    ∀ g post, (x pkg cls).unacked = g :: post → (s.now < g.sentAt + 2 ^ 17 → Yields (.retransmit pkg cls) s (· = s)) ∧
      (s.pkgid ≠ 0x7FFF#15 → g.sentAt + 2 ^ 17 ≤ s.now → g.tries < 64 → Yields (.retransmit pkg cls) s (· = { s with
        streams := Table.set Stream.zero (pkg * 4 + cls)
          { x pkg cls with unacked := (g :: post).map fun e => { e with sentAt := s.now, tries := e.tries + 1 } } s.streams
        sent := s.sent ++ (g :: post).map (·.frame) })) ∧
      (s.pkgid ≠ 0x7FFF#15 → g.sentAt + 2 ^ 17 ≤ s.now → 64 ≤ g.tries → Yields (.retransmit pkg cls) s fun u =>
        u = { s with streams := u.streams, lostmsg := u.lostmsg, clusters := u.clusters } ∧
        u.lostmsg.toNat = min (2 ^ 64 - 1) (s.lostmsg.toNat + (x pkg 1).unacked.length) ∧
        (∀ c, c < 2 → Table.get Stream.zero u.streams (pkg * 4 + c) = { x pkg c with unacked := [], dead := true }) ∧
        (∀ k, k ≠ pkg * 4 → k ≠ pkg * 4 + 1 → Table.get Stream.zero u.streams k = Table.get Stream.zero s.streams k) ∧
        ∀ k, u.cluster k = { s.cluster k with copies := (s.cluster k).copies.map fun q => { q with queue := q.queue.map fun j =>
          if j.isRemote = true ∧ j.pkg = pkg ∧ ∃ m ∈ j.remote, ∃ e ∈ (x pkg 0).unacked, e.frame.seq = m then
            { j with remote := [], reads := [], pieces := [], ended := some (j.ended.getD 2) }
          else j } })

/-- R216, R384, R387, R389, R402, R417 to R421, Table 18.2: BAR2 reads and writes device memory where it may, whatever the words' bits, at once at homes
of die 0 and through the channel to others; TAIL and QCTL are checked, and a notify waits for the earlier BAR2 writes of its function; the entry at HEAD
is offered to its dies as LAUNCH does, or gets status 4; a complete oldest entry is reported with its record and its MSI-X. How many virtual functions
there are, and that a longer request is unsupported, are the model's choices (log 73). -/
def Obligations.HostQueues : Prop :=
  ∀ (s : State) (fn q off n : Nat) (bs : List Byte) (v : Word), s.Canonical → q < 16 →
    let exists? : Prop := fn = 0 ∨ fn ≤ max 1 (min 32 Config.vfCount)
    (¬exists? → ∀ sup, ∀ i ∈ [Instr.bar2Read fn off n, .bar2Write fn off bs, .qtailWrite fn q v, .qctlWrite fn q v sup, .hostQueueTake fn q,
      .hostCompletion fn q], Yields i s (· = s)) ∧
    (exists? →
    let open? : Prop := 6 ≤ s.stage.toNat ∧ s.err = 0
    let pa := (Table.get 0 s.bar2base fn).toNat + off
    let inside (a m : Nat) : Prop := 0 < m ∧ storageOf a = .device ∧ storageOf (a + m - 1) = .device ∧ a / 2 ^ 44 = (a + m - 1) / 2 ^ 44
    let part (m j : Nat) : Nat × Nat := let lo := max pa (pa / 8 * 8 + 8 * j); (lo, min (pa + m) (pa / 8 * 8 + 8 * j + 8) - lo)
    let parts (m : Nat) : Nat := (pa % 8 + m + 7) / 8
    let home := homeDie pa
    let fresh? : Prop := (∀ r ∈ s.hostReads, r.id ≠ s.hostSeq) ∧ ∀ m ∈ s.notifies, m.left ≠ [] ∧ ∀ i ∈ m.left, i < s.hostSeq
    (¬open? ∨ ¬inside pa n ∨ 4096 < n → Yields (.bar2Read fn off n) s (· = { s with hostOut := s.hostOut ++ [.unsupported] })) ∧
    (open? → inside pa n → n ≤ 4096 →
      (s.guarded pa n = true → Yields (.bar2Read fn off n) s (· = { s with hostOut := s.hostOut ++ [.abort] })) ∧
      (s.guarded pa n = false → home = 0 → fresh? → s.bad = [] → Yields (.bar2Read fn off n) s (· = { s with
        hostSeq := s.hostSeq + 1
        hostOut := s.hostOut ++ [.data ((List.range n).map fun j => s.byte (pa + j))] })) ∧
      (s.guarded pa n = false → home ≠ 0 → Yields (.bar2Read fn off n) s (· = { s with
        hostSeq := s.hostSeq + 1
        hostReads := s.hostReads ++ [⟨s.hostSeq, [], parts n⟩]
        chans := ((List.range (parts n)).foldl (fun (u : State) j =>
          u.enqueue 0 home (.hostRead s.hostSeq (part n j).1 (part n j).2)) s).chans }))) ∧
    (¬open? ∨ ¬inside pa bs.length ∨ 512 < bs.length → Yields (.bar2Write fn off bs) s (· = { s with hostOut := s.hostOut ++ [.unsupported] })) ∧
    (open? → inside pa bs.length → bs.length ≤ 512 →
      (s.guarded pa bs.length = true → Yields (.bar2Write fn off bs) s fun u => u = { s with dies := u.dies } ∧
        (let x := s.die home
         u.die home = { x with hdrops := if x.hdrops = BitVec.allOnes 64 then x.hdrops else x.hdrops + 1 }) ∧
        ∀ d, d ≠ home → u.die d = s.die d) ∧
      (s.guarded pa bs.length = false → home = 0 → fresh? → s.bad = [] → s.waits = [] → Yields (.bar2Write fn off bs) s fun u =>
        u = { s with mem := u.mem, hostSeq := s.hostSeq + parts bs.length } ∧
        (∀ j, j < bs.length → u.byte (pa + j) = (bs[j]?).getD 0) ∧ s.SameOutside u pa bs.length) ∧
      (s.guarded pa bs.length = false → home ≠ 0 → Yields (.bar2Write fn off bs) s (· = { s with
        hostSeq := s.hostSeq + parts bs.length
        chans := ((List.range (parts bs.length)).foldl (fun (u : State) j => let p := part bs.length j
          u.enqueue 0 home (.hostWrite fn (s.hostSeq + j) p.1 ((bs.drop (p.1 - pa)).take p.2))) s).chans }))) ∧
    (∀ dst rest, dst < 8 → s.routeOpen 0 dst = true → s.bad = [] → let chans := Table.set [] dst rest s.chans
      (∀ i a m r pre post, Table.get [] s.chans dst = .hostRead i a m :: rest → s.hostReads = pre ++ r :: post → r.id = i →
        (∀ z ∈ pre ++ post, z.id ≠ i) → s.guarded a m = false →
        let got := Table.set [] a ((List.range m).map fun j => s.byte (a + j)) r.got
        (r.left ≤ 1 → Yields (.nd 0 dst) s (· = { s with
          chans := chans
          hostReads := pre ++ post
          hostOut := s.hostOut ++ [.data (got.flatMap fun (e : Nat × List Byte) => e.2)] })) ∧
        (1 < r.left → Yields (.nd 0 dst) s (· = { s with
          chans := chans
          hostReads := pre ++ post ++ [{ r with got := got, left := r.left - 1 }] }))) ∧
      ∀ f i a ys, Table.get [] s.chans dst = .hostWrite f i a ys :: rest → s.guarded a ys.length = false → s.waits = [] →
        let did (u : State) : Prop := (∀ j, j < ys.length → u.byte (a + j) = (ys[j]?).getD 0) ∧ s.SameOutside u a ys.length
        ((∀ m ∈ s.notifies, i ∉ m.left ∧ m.left ≠ []) → Yields (.nd 0 dst) s fun u => u = { s with chans := chans, mem := u.mem } ∧ did u) ∧
        ∀ k t, s.notifies = [⟨k, t, [i]⟩] → let y := Table.get HostQueue.zero s.queues k
          Yields (.nd 0 dst) s fun u => did u ∧ u = { s with
            chans := chans
            mem := u.mem
            notifies := []
            queues := Table.set HostQueue.zero k (if 2 ^ y.log2n.toNat < (t.toNat % 2 ^ 32 + 2 ^ 32 - y.head.toNat) % 2 ^ 32 then
              { y with ovr := true } else { y with tail := t.extractLsb' 0 32 }) s.queues }) ∧
    let k := fn * 16 + q
    let x := Table.get HostQueue.zero s.queues k
    let gives (i : Instr) (y : HostQueue) : Prop := Yields i s (· = { s with queues := Table.set HostQueue.zero k y s.queues })
    let size := 2 ^ x.log2n.toNat
    let owes (i : Nat) : Prop := ∃ ch ∈ s.chans, ∃ a ys, ChanItem.hostWrite fn i a ys ∈ ch.2
    (let t := v.toNat % 2 ^ 32
     let ahead := (t + 2 ^ 32 - x.head.toNat) % 2 ^ 32
     (∀ i, ¬owes i) → gives (.qtailWrite fn q v) (if size < ahead then { x with ovr := true } else { x with tail := v.extractLsb' 0 32 })) ∧
    ((∃ i, owes i) → Yields (.qtailWrite fn q v) s fun u => ∃ left, (∀ i, i ∈ left ↔ owes i) ∧
      u = { s with notifies := s.notifies ++ [⟨k, v, left⟩] }) ∧
    (∀ sup : Bool,
      let c : BitVec 12 := if sup then v.extractLsb' 20 12 else x.ctx
      let m : BitVec 5 := v.extractLsb' 0 5
      let bad : Prop := v.getLsbD 63 = true ∧ (m = 0 ∨ 16 < m.toNat ∨ c = 0)
      (bad → gives (.qctlWrite fn q v sup) { x with en := false, ctx := c, log2n := m, badcfg := true }) ∧
      (¬bad → gives (.qctlWrite fn q v sup) { x with en := v.getLsbD 63, ctx := c, log2n := m })) ∧
    let takes (d : Nat) : Prop := s.routeOpen 0 d = true ∧ (s.die d).launchesUsed < 64
    let lowest (d m : Nat) : Prop := Table.get none (s.die d).launches m = none ∧ ∀ j, j < m → (Table.get none (s.die d).launches j).isSome = true
    let rec_ (ws : List Word) (ad : Word) (c : Ctx) (m : Nat) (ready : Bool) (us : List Nat) : LaunchRec :=
      let b := vec8 ws
      ⟨b, ad, c, 0, if (b.get 2).extractLsb' 16 3 < c.rankset then (b.get 2).extractLsb' 16 3 else c.rankset, ready, us, us.length, some (fn, q, m),
        c.pondmap.extractLsb' 0 8,
        if (b.get 7).extractLsb' 3 45 = 0 then none else some ⟨((b.get 7).extractLsb' 3 45 ++ 0#3).setWidth 64, 0, c, false, 0⟩⟩
    let placed (u : State) (d m : Nat) (y : LaunchRec) : Prop := u.die d = { s.die d with
      launches := Table.set none m (some y) (s.die d).launches
      fifos := (s.die d).fifos.set y.rank.toNat ((s.die d).fifos.get ⟨y.rank.toNat, y.rank.isLt⟩ ++ [.launch m]) y.rank.isLt }
    let took (h : HostEntry) : HostQueue := { x with head := x.head + 1, offer := none, entries := x.entries ++ [h] }
    (x.offer = none → x.en = false ∨ x.head = x.tail → Yields (.hostQueueTake fn q) s (· = s)) ∧
    (x.offer = none → x.en = true → x.head ≠ x.tail → s.bad = [] →
      let at_ := x.base.toNat + 64 * (x.head.toNat % size)
      let e (j : Nat) : Word := s.word (at_ + 8 * j)
      let entry (status : Nat) (ds : List Nat) : HostEntry := ⟨x.head.toNat, e 1, e 2, e 3, status, ds⟩
      (¬inside at_ 64 → gives (.hostQueueTake fn q) (took ⟨x.head.toNat, 0, 0, 0, 4, []⟩)) ∧
      (inside at_ 64 → Table.get none s.ctxs x.ctx.toNat = none → gives (.hostQueueTake fn q) (took (entry 4 []))) ∧
      ∀ c leaf span, inside at_ 64 → Table.get none s.ctxs x.ctx.toNat = some c → (e 0).toNat % 64 = 0 → 2 ^ 32 ≤ (e 0).toNat →
        (e 0).toNat < 2 ^ 48 → s.walk c.ptbase (e 0).toNat = .leaf leaf span →
        let b := leafPa leaf + (e 0).toNat % span
        let w (j : Nat) : Word := s.word (b + 8 * j)
        let ws : List Word := [w 0, w 1, w 2, w 3, w 4, w 5, w 6, w 7]
        let ends (status : Nat) : Prop := gives (.hostQueueTake fn q) (took (entry status []))
        let refused : Prop := leaf.getLsbD 2 = false ∨ leaf.getLsbD 5 = false ∨
          (s.policy 0 ⟨b, 0, (leaf.extractLsb' 52 12).toNat, (leaf.extractLsb' 2 4).toNat, false, false, leafPa leaf, span⟩).isSome
        storageOf b = .device → (leaf.extractLsb' 6 3).toNat = 0 →
        (refused → ends 4) ∧
        (¬refused →
          (2 ^ 32 < (w 1).toNat → ends 1) ∧
          ((w 1).toNat ≤ 2 ^ 32 → (w 2).extractLsb' 0 2 = 3#2 → ends 3) ∧
          ((w 1).toNat ≤ 2 ^ 32 → (w 2).extractLsb' 0 2 ≠ 3#2 → (∀ d, d < 8 → (w 2).getLsbD (8 + d) = false) → ends 2) ∧
          ∀ d m, 0 < (w 1).toNat → (w 1).toNat ≤ 2 ^ 32 → (w 2).extractLsb' 0 2 ∈ [0#2, 1#2] → d < 8 →
            (∀ j, j < 8 → ((w 2).getLsbD (8 + j) = true ↔ j = d)) →
            (¬takes d → gives (.hostQueueTake fn q) { x with offer := some ⟨ws, e 0, c, [d], [], entry 0 []⟩ }) ∧
            (takes d → lowest d m → Yields (.hostQueueTake fn q) s fun u =>
              u = { s with dies := u.dies, queues := Table.set HostQueue.zero k (took (entry 0 [d])) s.queues } ∧
                (∀ j, j ≠ d → u.die j = s.die j) ∧ placed u d m (rec_ ws (e 0) c x.head.toNat true (List.range (w 1).toNat))))) ∧
    (∀ o d rest, x.offer = some o → o.left = d :: rest → (¬takes d → gives (.hostQueueTake fn q) x) ∧
      (∀ m e es, takes d → lowest d m → rest = e :: es → e ≠ d → ¬takes e → Yields (.hostQueueTake fn q) s (· = { s.updDie d fun z =>
          { z with launches := Table.set none m (some (rec_ o.block o.addr o.ctx o.entry.n false [])) z.launches } with
        queues := Table.set HostQueue.zero k { x with offer := some { o with left := rest, recs := o.recs ++ [(d, m)] } } s.queues })) ∧
      ∀ m, takes d → lowest d m → rest = [] →
        let all := o.recs ++ [(d, m)]
        let own (j : Nat) : List Nat := s.unitsOf o.ctx (vec8 o.block) j
        let set := allDies.filter fun d => ((o.block[2]?).getD 0).getLsbD (8 + d)
        (all.map Prod.fst).Nodup →
        (∀ e j, (e, j) ∈ o.recs → Table.get none (s.die e).launches j = some (rec_ o.block o.addr o.ctx o.entry.n false [])) →
        (∀ j, j < all.length → own j ≠ []) → Yields (.hostQueueTake fn q) s fun u =>
          u = { s with
            dies := u.dies
            meter := s.meter ++ (match (s.hostBlock o.ctx o.addr).bind Prod.snd with
              | some g => [⟨g, false, 64, 2 ^ 20 + k⟩]
              | none => [])
            queues := Table.set HostQueue.zero k (took { o.entry with dies := set }) s.queues } ∧
          (∀ j e i, all[j]? = some (e, i) → placed u e i (rec_ o.block o.addr o.ctx o.entry.n true (own j))) ∧
          ∀ e, (∀ i, (e, i) ∉ all) → u.die e = s.die e) ∧
    (x.entries = [] → Yields (.hostCompletion fn q) s (· = s)) ∧
    ∀ e rest, x.entries = e :: rest →
      (e.dies ≠ [] → Yields (.hostCompletion fn q) s (· = s)) ∧
      (e.dies = [] →
        let vector := (e.w3.extractLsb' 0 16).toNat
        let record : List HostOut := if e.w1 = 0 then [] else
          [.record e.w1 e.w2 (BitVec.ofNat 64 (e.status % 65536 + (e.n + 1) % 2 ^ 32 * 65536))]
        let msi : List HostOut := if e.w3.getLsbD 16 = true ∧ vector < (if fn = 0 then 64 else 8) then [.msix fn vector] else []
        Yields (.hostCompletion fn q) s (· = { s with
          queues := Table.set HostQueue.zero k { x with entries := rest } s.queues
          hostOut := s.hostOut ++ (record ++ msi) })))

/-- R371, R402, R416, R426 to R429, Table 18.6: module reset; each stage of the start sequence is entered from the one before and stops the sequence
with its ERR where it fails; BOOTCMD in stage 6 loads its record into TID 0 or gives ERR 4. Values that the firmware, training and key fixed outside
the spec are constants of Config. -/
def Obligations.StartSequence : Prop :=
  ∀ (s : State) (fn : Nat) (v : Word), s.Canonical →
    let at_ (n : Nat) : Prop := s.stage.toNat = n ∧ s.err = 0
    let imgs : List Config.Image := Config.controlImage :: Config.otherImages
    let lane (d l : Nat) : Nat := min 64 (Config.trainedLanes d l)
    let owned : List (Nat × Nat) := [(0, 0), (0, 1), (0, 2), (1, 0), (1, 2), (2, 0), (2, 2), (3, 2), (4, 0), (4, 1), (5, 0), (6, 0)]
    (∀ e ∈ [(Instr.ramovBoot, 1), (.firmwareVerify, 2), (.controlCoreRelease, 3), (.linkTraining, 4)], ¬at_ e.2 → Yields e.1 s (· = s)) ∧
    (s.stage.toNat < 5 → s.err = 0 → Yields .pcieEnumerate s (· = { s with hostOut := s.hostOut ++ [.retry] })) ∧
    (5 < s.stage.toNat ∨ s.err ≠ 0 → Yields .pcieEnumerate s (· = s)) ∧
    (at_ 1 → Yields .ramovBoot s (· = { s with stage := 2 })) ∧
    (at_ 2 → Yields .firmwareVerify s fun u =>
      let logged : List Config.Image := imgs.takeWhile fun x => x.genuine
      u = { s with
        stage := u.stage
        err := u.err
        fwlog := logged.flatMap fun x => [BitVec.ofNat 64 (x.kind.toNat * 256 + x.version.toNat)] ++ shake256 x.bytes ++ [1] } ∧
      ((∀ x ∈ imgs, x.genuine = true) → u.stage = 3 ∧ u.err = 0 ∧ logged = imgs) ∧
      ((∃ x ∈ imgs, x.genuine = false) → u.stage = 2 ∧ u.err = 1)) ∧
    (at_ 3 → Yields .controlCoreRelease s fun u => u.stage = 4 ∧ ∀ d, d < 8 → (let t := u.thread (2 ^ 17 + d)
      t.state = .running ∧ t.pc = 0x40000 ∧ t.tsr = ⟨true, false, false, false, false, false⟩ ∧ t.ctx = Ctx.zero ∧ t.wsp = 0 ∧ t.park = none) ∧
      ∀ e ∈ [(0, Config.controlImage.tcm.take 0x10000), (0x40000, Config.controlImage.dev.take 0x40000)], ∀ j b, e.2[j]? = some b →
        let pa := 2 ^ 53 + d * 2 ^ 20 + e.1 + j
        u.byte pa = b ∧ u.full pa = true) ∧
    (at_ 3 → Yields .controlCoreRelease s fun u => (∀ n, n < 2 ^ 17 → u.thread n = s.thread n) ∧
      u = { s with
        threads := u.threads
        mem := u.mem
        empties := u.empties
        stage := 4
        ctxs := u.ctxs }) ∧
    (at_ 4 → Yields .linkTraining s fun u =>
      u = { s with dies := u.dies, stage := u.stage, err := u.err } ∧
      (∀ e ∈ owned, ∀ h : e.2 < 3,
        let k := (u.die e.1).links.get ⟨e.2, h⟩
        let w : BitVec 2 := if 64 ≤ lane e.1 e.2 then 0 else if 32 ≤ lane e.1 e.2 then 1 else 2
        k.good = lane e.1 e.2 ∧ k.width = w ∧ k.reqWidth = w ∧ k.rate = 0 ∧ k.reqRate = 0) ∧
      (Config.memoryTrains = false → u.stage = 4 ∧ u.err = 2) ∧
      (Config.memoryTrains = true → (∃ e ∈ owned, lane e.1 e.2 < 16) → u.stage = 4 ∧ u.err = 3) ∧
      (Config.memoryTrains = true → (∀ e ∈ owned, 16 ≤ lane e.1 e.2) → u.stage = 5 ∧ u.err = 0)) ∧
    (at_ 5 → Yields .pcieEnumerate s (· = { s with stage := 6 })) ∧
    (s.meter = [] → Yields .moduleReset s (· = { State.reset with
      mem := s.mem
      regions := s.regions
      serial := s.serial
      turns := s.turns
      fresh := s.fresh })) ∧
    (fn ≠ 0 ∨ ¬at_ 6 → Yields (.bootcmdWrite fn v) s (· = s)) ∧
    (at_ 6 → s.bad = [] →
      let pa := (v.extractLsb' 8 44).toNat * 256
      let w (i : Nat) : Word := s.word (pa + 8 * i)
      let pc := ((w 16).extractLsb' 0 48).toNat
      let root := w 3 &&& 0x000FFFFFFFFFF000
      let fits : Prop := storageOf pa = .device ∧ storageOf (pa + 2047) = .device ∧ (w 0).getLsbD 63 = true ∧ (w 0).getLsbD 62 = true ∧
        (w 0).getLsbD 61 = true ∧ (w 0).extractLsb' 48 12 = 0#12
      let c : Ctx := { id := 0, tenant := (w 1).extractLsb' 0 16, pondmap := w 2, ptbase := root, stvec := w 4 &&& 0x0000FFFFFFFFFFFE
                       rankset := (w 5).extractLsb' 0 3, ttbase := w 8 &&& 0x0000FFFFFFFFFFE0, ttsize := w 9 &&& 0x1FFFFFF
                       rtbase := w 10 &&& 0x0000FFFFFFFFFF00, rtsize := w 11 &&& 0x1FFFFF, tiles := w 12 &&& 0x1FFFF, ringmask := w 13
                       spbase := w 14 &&& 0x0000FFFFFFFFFF80, spstride := w 15 &&& 0x0000FFFFFFFFFF80 }
      (¬fits ∨ pc < 2 ^ 32 ∨ s.walk root pc = .absent → Yields (.bootcmdWrite 0 v) s (· = { s with err := 4 })) ∧
      (∀ e span, s.walk root pc = .leaf e span → storageOf (leafPa e) ≠ .device → Yields (.bootcmdWrite 0 v) s (· = { s with err := 4 })) ∧
      ∀ e span, fits → s.codes = [] → 2 ^ 32 ≤ pc → s.walk root pc = .leaf e span → storageOf (leafPa e) = .device → s.guarded pa 8 = false →
        Yields (.bootcmdWrite 0 v) s fun u => u.stage = 7 ∧ u.err = 0 ∧ (∀ n, n ≠ 0 → u.thread n = s.thread n) ∧
          ({ s with codes := u.codes } : State).Started 0 c
            ⟨BitVec.ofNat 64 pc, #v[w 44, w 45, w 46, w 47], 0, 0, 0, c.pondmap.extractLsb' 0 8, 0, true⟩ none none (u.thread 0) ∧
          (u.thread 0).codeid = 1 ∧
          u.word pa = w 0 &&& 0x7FFFFFFFFFFFFFFF ∧ s.SameOutside u pa 8 ∧
          ∃ c, Table.get none u.codes 1 = some c ∧ c.ctx = 0 ∧ c.base = BitVec.ofNat 64 (pc / span * span) ∧ c.len = BitVec.ofNat 64 span ∧
            c.ranges = [(leafPa e, span)])

/-- R387, R402, R404 to R406, R409, R410, R412, R413, Table 17.5: MTRQ reads a region's counters and state once the thread's own events are applied, MTRS
puts its request into the queue; a posted event is applied to its region's counter, which saturates, and a counter that has come far enough is
checkpointed with a signed record; a power loss keeps the nonvolatile store and breaks what was OPEN. That a checkpoint is written at the event that
makes it due, and that a dead link holds MTRS, are the model's choices (logs 29 and 72). -/
def Obligations.Metering : Prop :=
  ∀ (s : State) (a b : Reg) (n : Nat), s.Canonical →
    let w := s.r b
    let x := Table.get Region.zero s.regions (w.extractLsb' 0 12).toNat
    let code : RegionState → Nat | .none => 0 | .opened => 1 | .closing => 2 | .closed => 3 | .broken => 4
    let reads (x : Region) : Word := if w.extractLsb' 12 2 = 0#2 then (if x.state = .none then 0 else BitVec.ofNat 64 x.bytes)
      else if w.extractLsb' 12 2 = 1#2 then (if x.state = .none then 0 else BitVec.ofNat 64 x.macs)
      else if w.extractLsb' 12 2 = 2#2 then
        BitVec.ofNat 64 (code x.state + x.attested.toNat * 1024 + x.metMacs.toNat * 512 + x.metBytes.toNat * 256)
      else BitVec.allOnes 64
    let add (k m : Nat) : Nat := min (2 ^ 64 - 1) (k + m)
    let counted (e : MeterEvent) : Region :=
      let r := Table.get Region.zero s.regions e.region
      if e.macs = true ∧ r.metMacs = true then { r with macs := add r.macs e.amount, satMacs := r.satMacs || decide (2 ^ 64 - 1 ≤ r.macs + e.amount) }
      else if e.macs = false ∧ r.metBytes = true then
        { r with bytes := add r.bytes e.amount, satBytes := r.satBytes || decide (2 ^ 64 - 1 ≤ r.bytes + e.amount) }
      else r
    let due (y : Region) : Prop := y.ckBytes + 2 ^ 30 ≤ y.bytes ∨ y.ckMacs + 2 ^ 40 ≤ y.macs
    let become (u : State) (k : Nat) (y : Region) : Prop := Table.get Region.zero u.regions k = y ∧
      ∀ j, j ≠ k → Table.get Region.zero u.regions j = Table.get Region.zero s.regions j
    ((∀ e ∈ s.meter, e.owner ≠ s.cur) → ¬s.me.pushes a → Yields (.mtrq a b) s (s.GivesScalar a (reads x) FFlags.none 0)) ∧
    (∀ pre e post, Table.wf Region.zero s.regions = true → s.meter = pre ++ e :: post → e.owner = s.cur → (∀ y ∈ pre ++ post, y.owner ≠ s.cur) →
      ¬due (counted e) → ¬s.me.pushes a → ∃ v : State, v = { s with regions := v.regions, meter := pre ++ post } ∧ become v e.region (counted e) ∧
      Yields (.mtrq a b) s (v.GivesScalar a (reads (Table.get Region.zero v.regions (w.extractLsb' 0 12).toNat)) FFlags.none 0)) ∧
    (∀ c v, c ≠ 14 → s.check s.cur s.me.ctx s.me.tsr.priv w 64 .read = .trap c v → Yields (.mtrs a b) s (s.Trapped ⟨c, s.me.pc, v, 0⟩)) ∧
    (∀ t, s.check s.cur s.me.ctx s.me.tsr.priv w 64 .read = .ok t → (∀ e ∈ s.meter, e.owner ≠ s.cur) → ¬s.me.pushes a →
      (s.routeOpen (dieOf s.cur) 0 = false → Yields (.mtrs a b) s (s.Rewaits .backPressure)) ∧
      (s.routeOpen (dieOf s.cur) 0 = true → 16 ≤ s.ramov.length → Yields (.mtrs a b) s (s.GivesScalar a 1 FFlags.none 0)) ∧
      (s.routeOpen (dieOf s.cur) 0 = true → s.ramov.length < 16 → Yields (.mtrs a b) s (({ s with
        ramov := s.ramov ++ [⟨s.cur, s.me.ctx, s.me.tsr.priv, true, [], w⟩] } : State).GivesScalar a 0 FFlags.none 0))) ∧
    (s.meter.length ≤ n → Yields (.meterApply n) s (· = s)) ∧
    (∀ e, s.meter[n]? = some e → Table.wf Region.zero s.regions = true → let y := counted e
      (¬due y → Yields (.meterApply n) s fun u => u = { s with regions := u.regions, meter := s.meter.eraseIdx n } ∧ become u e.region y) ∧
      (due y → Yields (.meterApply n) s fun u => u = { s with
          regions := u.regions
          meter := s.meter.eraseIdx n
          fresh := s.fresh + 1 } ∧ ∃ out, y.Signed out 2 e.region (y.seq + 1) 0 ∧
        become u e.region { y with seq := y.seq + 1, broke := false, record := out, ckBytes := y.bytes, ckMacs := y.macs })) ∧
    Yields .powerLoss s fun u => u = { State.reset with
        regions := u.regions
        serial := s.serial
        turns := s.turns
        fresh := s.fresh } ∧ ∀ k,
      let y := Table.get Region.zero s.regions k
      let z := Table.get Region.zero u.regions k
      let back : Region := { y with
        bytes := y.ckBytes
        macs := y.ckMacs
        satBytes := decide (y.ckBytes = 2 ^ 64 - 1)
        satMacs := decide (y.ckMacs = 2 ^ 64 - 1) }
      z = match y.state with
        | .opened => { back with state := .broken, broke := true }
        | .closing => back
        | _ => y

/-- R401, R404, R408 to R413, Tables 17.3, 17.4 and 17.6: REGISTER opens the lowest free region with its descriptor's policy and measurement, ATTACH
opens a BROKEN one again, CLOSE, GETCKPT and MTRS write signed records, and each answers its issuer with a message of kind 5. The request's block,
descriptor and buffer lie in one page each, mapped readable and writable at the issuer's level, in unprotected memory, and none holds an entry that
maps it. -/
def Obligations.RegionRequests : Prop :=
  ∀ (s : State) (r : RamovReq) (rest : List RamovReq), s.Canonical → s.ramov = r :: rest → s.bad = [] → s.seals = [] → s.waits = [] →
    let b (i : Nat) : Word := (r.block[i]?).getD 0
    let code := ((b 0).extractLsb' 0 8).toNat
    let at_ (va : Word) (n pa : Nat) : Prop := va.toNat % 64 = 0 ∧ 2 ^ 32 ≤ va.toNat ∧ va.toNat < 2 ^ 48 ∧ va.toNat % 65536 + n ≤ 65536 ∧
      ∃ e span, s.walk r.ctx.ptbase va.toNat = .leaf e span ∧ pa = leafPa e + va.toNat % span ∧ storageOf pa = .device ∧
        e.getLsbD 2 = true ∧ e.getLsbD 3 = true ∧ (r.priv = true ∨ e.getLsbD 5 = true) ∧
        ∀ v : State, v.bad = s.bad → s.SameOutside v pa n → v.walk r.ctx.ptbase va.toNat = s.walk r.ctx.ptbase va.toNat
    let reply (u : State) (tag : BitVec 16) (status : BitVec 16) (known : List Word) : Prop := u.ramov = rest ∧ ∃ p : Vector Word 4,
      u.outbox = s.outbox ++ [⟨r.issuer, 0#17 ++ 5#3 ++ 0#12 ++ tag ++ status, p, 3⟩] ∧ p.toList.take known.length = known
    let refuses (i : Instr) (status : BitVec 16) : Prop := Yields i s fun u =>
      reply u ((b 0).extractLsb' 16 16) status [] ∧ u = { s with ramov := u.ramov, outbox := u.outbox, fresh := u.fresh }
    let ok (u : State) (known : List Word) : Prop := reply u ((b 0).extractLsb' 16 16) 0 known
    let reg (id : Nat) : Region := Table.get Region.zero s.regions id
    let written (u : State) (pa : Nat) (bs : List Byte) : Prop := (∀ i, i < bs.length → u.byte (pa + i) = (bs[i]?).getD 0 ∧ u.full (pa + i) = true) ∧
      s.SameOutside u pa bs.length
    let others (u : State) : Prop := u = { s with
      mem := u.mem
      empties := u.empties
      regions := u.regions
      serial := u.serial
      ramov := u.ramov
      outbox := u.outbox
      fresh := u.fresh }
    let only (u : State) (id : Nat) (x : Region) : Prop := u.regions = Table.set Region.zero id x s.regions
    let next (x : Region) (n : Nat) (rec_ : List Byte) : Region := { x with
      seq := x.seq + BitVec.ofNat 64 n
      ckBytes := x.bytes
      ckMacs := x.macs
      broke := false
      record := rec_ }
    let me : Word := BitVec.ofNat 64 (r.ctx.tenant.toNat * 65536 + r.ctx.id.toNat)
    let id := (b 1).toNat
    let x := reg id
    let protects (n : Nat) (y : Nat × Nat) : Prop := (n ≠ id ∨ code = 1) ∧ ∃ z, (n, z) ∈ s.regions ∧ z.state ∈ [.opened, .closing, .broken] ∧
      ∃ w ∈ z.ranges, 0 < w.2 ∧ y.1 < w.1 + w.2 ∧ w.1 < y.1 + y.2
    (r.mtrs = false →
      (∀ e ∈ [(Instr.register, 1), (.close, 2), (.attach, 3), (.getckpt, 7)], code ≠ e.2 → Yields e.1 s (· = s)) ∧
      (∀ pa : Nat, at_ (b 1) 1536 pa → s.guarded pa 1536 = false →
        let w (i : Nat) : Word := s.word (pa + 8 * i)
        let n := ((w 0).extractLsb' 48 16).toNat
        let allow := ((w 0).extractLsb' 32 16).toNat
        let ranges : List (Nat × Nat) := (List.range n).map fun i => ((w (32 + 2 * i)).toNat, (w (33 + 2 * i)).toNat)
        let legal : Prop := 1 ≤ n ∧ n ≤ 16 ∧ allow ≤ 16 ∧ ∀ y ∈ ranges, y.1 % 65536 = 0 ∧ y.2 % 65536 = 0 ∧ y.2 ≠ 0
        let inside : Prop := ∀ y ∈ ranges, storageOf y.1 = .device ∧ storageOf (y.1 + y.2 - 1) = .device ∧ y.1 / 2 ^ 44 = (y.1 + y.2 - 1) / 2 ^ 44
        let meas := shake256 (ranges.flatMap fun y => s.bytesAt y.1 y.2)
        (code = 1 → ¬legal → refuses .register 2) ∧
        (code = 1 → legal → ¬inside → refuses .register 5) ∧
        (code = 1 → legal → inside → s.codes = [] →
          ((∃ y ∈ ranges, ∃ n, protects n y) → refuses .register 5) ∧
          ((∀ y ∈ ranges, ∀ n, ¬protects n y) →
            ((∀ i, i < 4096 → (reg i).state ∉ [.none, .closed]) → refuses .register 6) ∧
            ∀ i, i < 4096 → (reg i).state ∈ [.none, .closed] → (∀ j, j < i → (reg j).state ∉ [.none, .closed]) →
              ((w 0).getLsbD 4 = true → meas ≠ (List.range 8).map (fun j => w (10 + j)) → refuses .register 4) ∧
              ((w 0).getLsbD 4 = false ∨ meas = (List.range 8).map (fun j => w (10 + j)) → Yields .register s fun u =>
                others u ∧ ok u [BitVec.ofNat 64 i, s.serial] ∧ u.serial = s.serial + 1 ∧ written u (pa + 144) (bytesOfWords meas) ∧
                only u i { Region.zero with
                  state := .opened
                  serial := s.serial
                  attested := (w 0).getLsbD 2
                  metMacs := (w 0).getLsbD 1
                  metBytes := (w 0).getLsbD 0
                  ranges := ranges
                  allow := (List.range allow).map fun j => (List.range 8).map fun m => w (64 + 8 * j + m)
                  meas := meas
                  linkKind := ((w 1).extractLsb' 0 2).toNat
                  link := (List.range 8).map fun j => if (w 1).extractLsb' 0 2 = 0#2 then 0 else w (2 + j) })))) ∧
      (code = 3 → 4096 ≤ id ∨ x.state = .none → refuses .attach 1) ∧
      (code = 3 → id < 4096 → x.state ≠ .none → x.state ≠ .broken → refuses .attach 7) ∧
      (∀ pa : Nat, code = 3 → id < 4096 → x.state = .broken → at_ (b 2) 1536 pa → s.codes = [] →
        let w (i : Nat) : Word := s.word (pa + 8 * i)
        let n := ((w 0).extractLsb' 48 16).toNat
        let ranges : List (Nat × Nat) := (List.range n).map fun i => ((w (32 + 2 * i)).toNat, (w (33 + 2 * i)).toNat)
        1 ≤ n → n ≤ 16 → ((w 0).extractLsb' 32 16).toNat ≤ 16 → (∀ y ∈ ranges, y.1 % 65536 = 0 ∧ y.2 % 65536 = 0 ∧ y.2 ≠ 0) →
        (∀ y ∈ ranges, storageOf y.1 = .device ∧ storageOf (y.1 + y.2 - 1) = .device ∧ y.1 / 2 ^ 44 = (y.1 + y.2 - 1) / 2 ^ 44) →
        (∀ y ∈ ranges, ∀ n, ¬protects n y) →
        (shake256 (ranges.flatMap fun y => s.bytesAt y.1 y.2) ≠ x.meas → refuses .attach 4) ∧
        (shake256 (ranges.flatMap fun y => s.bytesAt y.1 y.2) = x.meas → Yields .attach s fun u =>
          others u ∧ ok u [BitVec.ofNat 64 id, x.serial] ∧ only u id { x with state := .opened, ranges := ranges })) ∧
      (∀ i ∈ [(Instr.close, 2), (.getckpt, 7)], code = i.2 → 4096 ≤ id ∨ x.state = .none → refuses i.1 1) ∧
      (code = 2 → id < 4096 → x.state = .closed → refuses .close 7) ∧
      (code = 7 → id < 4096 → x.state ≠ .none → x.record = [] → refuses .getckpt 7) ∧
      (∀ pa : Nat, id < 4096 → at_ (b 2) 1664 pa → s.guarded pa 1664 = false →
        (code = 7 → x.state ≠ .none → x.record ≠ [] → x.record.length ≤ 1664 → Yields .getckpt s fun u =>
          others u ∧ u.regions = s.regions ∧ ok u [BitVec.ofNat 64 id, x.seq] ∧ written u pa x.record) ∧
        (code = 2 → x.state = .opened → (∃ e ∈ s.meter, e.region = id) → Yields .close s
          (· = { s with regions := Table.set Region.zero id { x with state := .closing } s.regions })) ∧
        (code = 2 → x.state = .closing → (∃ e ∈ s.meter, e.region = id) → Yields .close s (· = s)) ∧
        (code = 2 → x.state = .opened ∨ x.state = .closing → (∀ e ∈ s.meter, e.region ≠ id) → Yields .close s fun u => ∃ out,
          others u ∧ ok u [BitVec.ofNat 64 id, x.seq + 2] ∧ Table.get Region.zero u.regions id = { next x 2 out with state := .closed } ∧
            (∀ k, k ≠ id → Table.get Region.zero u.regions k = reg k) ∧ written u pa out ∧ { x with broke := false }.Signed out 3 id (x.seq + 2) me) ∧
        (code = 2 → x.state = .broken → Yields .close s fun u => ∃ out,
          others u ∧ ok u [BitVec.ofNat 64 id, x.seq + 1] ∧ written u pa out ∧ x.Signed out 3 id (x.seq + 1) me ∧
            Table.get Region.zero u.regions id = { x with state := .closed, seq := x.seq + 1, broke := false, record := out } ∧
            ∀ k, k ≠ id → Table.get Region.zero u.regions k = reg k))) ∧
    (r.mtrs = false → Yields .signedRecordRequest s (· = s)) ∧
    ∀ pa qa : Nat, r.mtrs = true → at_ r.addr 64 pa →
      let w (i : Nat) : Word := s.word (pa + 8 * i)
      let n := ((w 0).extractLsb' 0 12).toNat
      let y := reg n
      let tag := (w 0).extractLsb' 16 16
      let no (status : BitVec 16) : Prop := Yields .signedRecordRequest s fun u =>
        reply u tag status [] ∧ u = { s with ramov := u.ramov, outbox := u.outbox, fresh := u.fresh }
      (y.state = .none → no 1) ∧ (y.state ∈ [.closing, .closed, .broken] → no 7) ∧
      (y.state = .opened → at_ (w 1) 1664 qa → s.guarded qa 1664 = false → Yields .signedRecordRequest s fun u => ∃ out,
        others u ∧ reply u tag 0 [BitVec.ofNat 64 n, y.seq + 2, w 1] ∧ written u qa out ∧ { y with broke := false }.Signed out 1 n (y.seq + 2) me ∧
          (∀ i, i < 4 → (out.drop (8 * (41 + i))).take 8 = bytesOf (w (4 + i)).toNat 8) ∧
          Table.get Region.zero u.regions n = next y 2 out ∧ ∀ k, k ≠ n → Table.get Region.zero u.regions k = reg k)

/-- R407, R412, R414, R416, Table 17.6: MEASURE enters a manifest's digest in the lowest free index of the code table, UNREGISTER removes an index,
GETLOG and GETKEY fill their buffers. The manifest has one range in one page, and each buffer lies in one page that holds no entry that maps it. -/
def Obligations.CodeRequests : Prop :=
  ∀ (s : State) (r : RamovReq) (rest : List RamovReq) (pa : Nat), s.Canonical → s.ramov = r :: rest → r.mtrs = false → s.bad = [] → s.seals = [] →
    s.waits = [] →
    let b (i : Nat) : Word := (r.block[i]?).getD 0
    let code := ((b 0).extractLsb' 0 8).toNat
    let at_ (va align n pa : Nat) : Prop := va % align = 0 ∧ 2 ^ 32 ≤ va ∧ va < 2 ^ 48 ∧ va % 65536 + n ≤ 65536 ∧
      ∃ e span, s.walk r.ctx.ptbase va = .leaf e span ∧ pa = leafPa e + va % span ∧ storageOf pa = .device ∧
        e.getLsbD 2 = true ∧ e.getLsbD 3 = true ∧ (r.priv = true ∨ e.getLsbD 5 = true) ∧
        ∀ v : State, v.bad = s.bad → s.SameOutside v pa n → v.walk r.ctx.ptbase va = s.walk r.ctx.ptbase va
    let reply (u : State) (status : BitVec 16) (known : List Word) : Prop := u.ramov = rest ∧ ∃ p : Vector Word 4,
      u.outbox = s.outbox ++ [⟨r.issuer, 0#17 ++ 5#3 ++ 0#12 ++ (b 0).extractLsb' 16 16 ++ status, p, 3⟩] ∧ p.toList.take known.length = known
    let refuses (i : Instr) (status : BitVec 16) : Prop := Yields i s fun u =>
      reply u status [] ∧ u = { s with ramov := u.ramov, outbox := u.outbox, fresh := u.fresh }
    let written (u : State) (bs : List Byte) : Prop := (∀ i, i < bs.length → u.byte (pa + i) = (bs[i]?).getD 0 ∧ u.full (pa + i) = true) ∧
      s.SameOutside u pa bs.length
    (∀ e ∈ [(Instr.measure, 4), (.unregister, 5), (.getlog, 6), (.getkey, 8)], code ≠ e.2 → Yields e.1 s (· = s)) ∧
    (code = 4 → at_ (b 1).toNat 8 40 pa →
      let w (i : Nat) : Word := s.word (pa + 8 * i)
      let base := w 1
      let len := w 2
      (w 0 = 0 ∨ 64 < (w 0).toNat → refuses .measure 2) ∧
      (w 0 = 1 → w 3 ≠ base ∨ w 4 ≠ len → refuses .measure 2) ∧
      ∀ q, w 0 = 1 → w 3 = base → w 4 = len → len.toNat % 8 = 0 → 0 < len.toNat → at_ base.toNat 8 len.toNat q →
        ((∀ i, 1 ≤ i → i ≤ 1024 → (Table.get none s.codes i).isSome = true) → refuses .measure 6) ∧
        ∀ i, 1 ≤ i → i ≤ 1024 → Table.get none s.codes i = none → (∀ j, 1 ≤ j → j < i → (Table.get none s.codes j).isSome = true) →
          Yields .measure s fun u => reply u 0 [BitVec.ofNat 64 i, 0] ∧ u = { s with
            ramov := u.ramov
            outbox := u.outbox
            fresh := u.fresh
            codes := (Table.set none i (some ⟨shake256 (bytesOfWords [1, 0, len, 0, len] ++ (List.range (len.toNat / 8)).flatMap fun k =>
              s.bytesAt (q + 8 * k) 8 ++ [if s.full (q + 8 * k) then 1 else 0]), r.ctx.id, base, len, [(q, len.toNat)]⟩) s.codes) }) ∧
    (code = 5 →
      (Table.get none s.codes (b 1).toNat = none → refuses .unregister 1) ∧
      ((Table.get none s.codes (b 1).toNat).isSome = true → Yields .unregister s fun u => reply u 0 [b 1, 0] ∧ u = { s with
        ramov := u.ramov
        outbox := u.outbox
        fresh := u.fresh
        codes := Table.set none (b 1).toNat none s.codes })) ∧
    (∀ e ∈ [(Instr.getlog, 6, bytesOfWords (BitVec.ofNat 64 (s.fwlog.length / 10) :: s.fwlog), [BitVec.ofNat 64 (s.fwlog.length / 10), 0]),
        (.getkey, 8, Config.publicKey.toList ++ Config.certificate, [1793, BitVec.ofNat 64 Config.certificate.length])],
      code = e.2.1 → at_ (b 1).toNat 64 4096 pa → s.guarded pa 4096 = false → e.2.2.1.length ≤ 4096 →
        Yields e.1 s fun u => reply u 0 e.2.2.2 ∧ written u e.2.2.1 ∧
          u = { s with mem := u.mem, empties := u.empties, ramov := u.ramov, outbox := u.outbox, fresh := u.fresh })

/-! ### The whole machine -/

/-- The words that the spec's own examples print, as fetched, decode to the instructions they stand for (R30 to R38, R53). -/
def Obligations.DecodedWords : Prop :=
  decode [0xF640, 0x0609] = .ok (.add 16 9 (some ⟨18, 0⟩)) 2 ∧
  decode [0xF003, 0x4204] = .ok (.addi 16 4 none [3]) 2 ∧
  decode [0xF000, 0xF002, 0x6A20] = .ok (.ldix 17 0 [0, 2]) 3 ∧
  decode [0xFF20, 0xF008, 0x9659] = .ok (.st64 18 25 none [8] (some ⟨3, 1, 0, 0⟩)) 3 ∧
  decode [0xF801, 0xF46A, 0x0422] = .ok (.vadd 1 2 (some ⟨3, 10⟩)) 3 ∧
  decode [0xF807, 0xF64A, 0x7211] = .ok (.fma 16 17 (some ⟨18, 10⟩)) 3 ∧
  decode [0xF804, 0xF413, 0xF040, 0x1A08] = .ok (.task 16 8 (some ⟨0, 19⟩) [64]) 4 ∧
  decode [0xFF20, 0xF804, 0x7678] = .ok (.bar 19 24 [] (some ⟨3, 1, 0, 0⟩)) 3 ∧
  decode [0xF802, 0xF6C0, 0x1AA0] = .ok (.mmaq 21 0 (some ⟨22, 0⟩)) 3 ∧
  decode [0xF803, 0xF080, 0x0608] = .ok (.copy 16 8 [128]) 3 ∧
  decode [0xF806, 0x0600] = .ok (.rdp 16 0) 2 ∧
  decode [0xF805, 0x1E03] = .ok (.rqry 16 3) 2 ∧
  decode [0x0000] = .ok (.ill 0 0) 1

/-- R30 to R40, R53: the words of a well-formed instruction, whatever stands after them, decode to it with every operand, modifier and immediate bit;
and a decoded group is well-formed, of one to five words, whatever stands after those. -/
def Obligations.EncodeDecodeRoundTrip : Prop :=
  (∀ (i : Instr) (g : Group) (ws : List IWord), i.group = some g → i.wf = true → decode (encode i ++ ws) = .ok i (encode i).length) ∧
    ∀ (ws : List IWord) (i : Instr) (n : Nat), decode ws = .ok i n →
      i.wf = true ∧ i.group ≠ none ∧ 1 ≤ n ∧ n ≤ 5 ∧ n ≤ ws.length ∧ ∀ xs, decode (ws.take n ++ xs) = .ok i n

/-- R30, R34, R40, R79, R149, R209: where it is the turn of a slot that may issue and that has nothing else to take at its boundary, and the words at
its pc decode to an instruction, the step is that instruction's meaning, in the state that the fetch leaves: the words are kept in the core's fetch
buffer and the cluster's instruction cache, and a demand on the core die may have been noted. A turn is the schedule's next, or, where the schedule names
none and no start stage is due, that of the slot that has been eligible longest; an event's turn is the event's meaning. Only the schedule, the marks
`cur`, `ir`, `issuedAt` and `lastIssue` and the cycle count are the model's own (logs 10, 11, 12). -/
def Obligations.StepRunsDecodedGroup : Prop :=
  (∀ (s : State) (dt tid pa : Nat) (rest : List Turn) (ws : List IWord) (i : Instr) (g : Group), s.Canonical →
    let t := s.thread tid
    let own : Prop := s.turns = [] ∧ rest = [] ∧ dt = 1 ∧ (s.err ≠ 0 ∨ s.stage.toNat = 0 ∨ 5 < s.stage.toNat) ∧ s.longest = some tid
    s.turns = .issue dt tid :: rest ∨ own → ({ s with turns := rest, now := s.now + dt } : State).eligible tid = true →
    t.park = none → t.preempts = [] → t.migr = none → t.pendTrap = none → t.pendJob = none → t.qbnd = 0 →
    (∀ w ∈ (s.core (coreOf tid)).hwWait, w.tid ≠ tid) → s.bad = [] →
    (∀ f ∈ (s.core (coreOf tid)).fetch ++ (s.cluster (clusterOf tid)).icache, f.word.toNat = s.readNat f.pa 2) →
    decodeLoop (some t.vt) .start ws = .ok i ws.length → i.group = some g → (isCtl tid = true → ctlAccepts g.page g.op = true) →
    (∀ k w, ws[k]? = some w → ∃ x, s.check tid t.ctx t.tsr.priv (t.pc + BitVec.ofNat 64 (2 * k)) 2 .fetch = .ok x ∧
      x.pa = pa + 2 * k ∧ s.readNat (pa + 2 * k) 2 = w.toNat) →
    ∃ v, step s = exec i v ∧
      v = { s with
        turns := rest
        now := s.now + dt
        threads := v.threads
        cores := v.cores
        clusters := v.clusters
        cur := tid
        ir := ws } ∧
      v.thread tid = { t with issuedAt := s.now + dt } ∧ (∀ n, n ≠ tid → v.thread n = s.thread n) ∧
      (∀ n, v.core n = { s.core n with
        fetch := (v.core n).fetch
        lastIssue := if n = coreOf tid then some (s.now + dt) else (s.core n).lastIssue }) ∧
      ∀ n, v.cluster n = { s.cluster n with
        icache := (v.cluster n).icache
        askCore := (v.cluster n).askCore
        askBase := (v.cluster n).askBase
        leapCore := (v.cluster n).leapCore
        leapBase := (v.cluster n).leapBase
        askAt := (v.cluster n).askAt }) ∧
  ∀ (s : State) (dt : Nat) (rest : List Turn) (i : Instr), i.group = none →
    s.turns = .event dt i :: rest → step s = exec i { s with turns := rest, now := s.now + dt }

/-- Every step keeps memory, its marks, and the tables of slots, cores, clusters and dies in canonical form: equal contents are equal data (the form
is the model's own). -/
def Obligations.StepKeepsCanonical : Prop :=
  ∀ s t : State, s.Canonical → step s = .next t → t.Canonical

/-- R8, R154, R245, R268, R426 and the reset columns of Tables 13.12, 14.3, 15.6, 16.2, 18.1 and 18.6: what module reset leaves, in the canonical
form: the start sequence at stage 1 with no error, every word full, every tile entry and every amax ring zero, no pond, no queue served, no package
id, the device registers at their reset values. That no slot is started is the model's reading (log 1). -/
def Obligations.ResetState : Prop :=
  State.reset.Canonical ∧ State.reset.stage = 1 ∧ State.reset.err = 0 ∧ (∀ n, State.reset.thread n = Thread.free) ∧
    (∀ a, State.reset.full a = true ∧ State.reset.held a = false) ∧
    (∀ k n, State.reset.tile k n = ⟨0, 0, false, 0, 0, false, 0⟩ ∧ State.reset.ring k n = ⟨Vector.replicate 16 0, 0, 0⟩) ∧
    (∀ d p, (State.reset.pond d p).cap = 0 ∧ (State.reset.pond d p).fill = 0) ∧
    (∀ d, let x := State.reset.die d
      x.suptid = 0 ∧ x.cecnt = Vector.replicate 4 0 ∧ x.uelast = 0 ∧ x.drops = 0 ∧ x.hdrops = 0 ∧ x.rdrops = 0 ∧ x.engidle = 0) ∧
    (∀ k, let c := State.reset.cluster k
      c.qreq = false ∧ c.refused = false ∧ c.ret = .none ∧ c.gate = false ∧ c.wake = 0 ∧ c.evt = 0) ∧
    State.reset.pkgid = 0x7FFF ∧ State.reset.lostmsg = 0 ∧ State.reset.peers = [] ∧ State.reset.queues = []
end

