-- ==== Sys2Proof/Laws/State.lean ====
section
/-!
SUPPORT. Sys2Proof/Laws/State.lean: what each named update of the state leaves in each field, one lemma a field, so that no proof
unfolds a record update.
-/
namespace Sys2Proof.Machine

/-! ### State.setThread -/

@[simp] theorem State.setThread_threads (s : State) (tid : Nat) (t : Thread) : (s.setThread tid t).threads = Table.set Thread.free tid t s.threads := rfl
@[simp] theorem State.setThread_cores (s : State) (tid : Nat) (t : Thread) : (s.setThread tid t).cores = s.cores := rfl
@[simp] theorem State.setThread_clusters (s : State) (tid : Nat) (t : Thread) : (s.setThread tid t).clusters = s.clusters := rfl
@[simp] theorem State.setThread_dies (s : State) (tid : Nat) (t : Thread) : (s.setThread tid t).dies = s.dies := rfl
@[simp] theorem State.setThread_mem (s : State) (tid : Nat) (t : Thread) : (s.setThread tid t).mem = s.mem := rfl
@[simp] theorem State.setThread_empties (s : State) (tid : Nat) (t : Thread) : (s.setThread tid t).empties = s.empties := rfl
@[simp] theorem State.setThread_bad (s : State) (tid : Nat) (t : Thread) : (s.setThread tid t).bad = s.bad := rfl
@[simp] theorem State.setThread_holds (s : State) (tid : Nat) (t : Thread) : (s.setThread tid t).holds = s.holds := rfl
@[simp] theorem State.setThread_waits (s : State) (tid : Nat) (t : Thread) : (s.setThread tid t).waits = s.waits := rfl
@[simp] theorem State.setThread_seals (s : State) (tid : Nat) (t : Thread) : (s.setThread tid t).seals = s.seals := rfl
@[simp] theorem State.setThread_chans (s : State) (tid : Nat) (t : Thread) : (s.setThread tid t).chans = s.chans := rfl
@[simp] theorem State.setThread_outbox (s : State) (tid : Nat) (t : Thread) : (s.setThread tid t).outbox = s.outbox := rfl
@[simp] theorem State.setThread_joins (s : State) (tid : Nat) (t : Thread) : (s.setThread tid t).joins = s.joins := rfl
@[simp] theorem State.setThread_tlbis (s : State) (tid : Nat) (t : Thread) : (s.setThread tid t).tlbis = s.tlbis := rfl
@[simp] theorem State.setThread_icinvs (s : State) (tid : Nat) (t : Thread) : (s.setThread tid t).icinvs = s.icinvs := rfl
@[simp] theorem State.setThread_kills (s : State) (tid : Nat) (t : Thread) : (s.setThread tid t).kills = s.kills := rfl
@[simp] theorem State.setThread_ctxs (s : State) (tid : Nat) (t : Thread) : (s.setThread tid t).ctxs = s.ctxs := rfl
@[simp] theorem State.setThread_saves (s : State) (tid : Nat) (t : Thread) : (s.setThread tid t).saves = s.saves := rfl
@[simp] theorem State.setThread_regions (s : State) (tid : Nat) (t : Thread) : (s.setThread tid t).regions = s.regions := rfl
@[simp] theorem State.setThread_serial (s : State) (tid : Nat) (t : Thread) : (s.setThread tid t).serial = s.serial := rfl
@[simp] theorem State.setThread_meter (s : State) (tid : Nat) (t : Thread) : (s.setThread tid t).meter = s.meter := rfl
@[simp] theorem State.setThread_codes (s : State) (tid : Nat) (t : Thread) : (s.setThread tid t).codes = s.codes := rfl
@[simp] theorem State.setThread_ramov (s : State) (tid : Nat) (t : Thread) : (s.setThread tid t).ramov = s.ramov := rfl
@[simp] theorem State.setThread_fwlog (s : State) (tid : Nat) (t : Thread) : (s.setThread tid t).fwlog = s.fwlog := rfl
@[simp] theorem State.setThread_bar2base (s : State) (tid : Nat) (t : Thread) : (s.setThread tid t).bar2base = s.bar2base := rfl
@[simp] theorem State.setThread_queues (s : State) (tid : Nat) (t : Thread) : (s.setThread tid t).queues = s.queues := rfl
@[simp] theorem State.setThread_hostOut (s : State) (tid : Nat) (t : Thread) : (s.setThread tid t).hostOut = s.hostOut := rfl
@[simp] theorem State.setThread_hostSeq (s : State) (tid : Nat) (t : Thread) : (s.setThread tid t).hostSeq = s.hostSeq := rfl
@[simp] theorem State.setThread_hostReads (s : State) (tid : Nat) (t : Thread) : (s.setThread tid t).hostReads = s.hostReads := rfl
@[simp] theorem State.setThread_notifies (s : State) (tid : Nat) (t : Thread) : (s.setThread tid t).notifies = s.notifies := rfl
@[simp] theorem State.setThread_incoming (s : State) (tid : Nat) (t : Thread) : (s.setThread tid t).incoming = s.incoming := rfl
@[simp] theorem State.setThread_pkgid (s : State) (tid : Nat) (t : Thread) : (s.setThread tid t).pkgid = s.pkgid := rfl
@[simp] theorem State.setThread_lostmsg (s : State) (tid : Nat) (t : Thread) : (s.setThread tid t).lostmsg = s.lostmsg := rfl
@[simp] theorem State.setThread_peers (s : State) (tid : Nat) (t : Thread) : (s.setThread tid t).peers = s.peers := rfl
@[simp] theorem State.setThread_streams (s : State) (tid : Nat) (t : Thread) : (s.setThread tid t).streams = s.streams := rfl
@[simp] theorem State.setThread_sent (s : State) (tid : Nat) (t : Thread) : (s.setThread tid t).sent = s.sent := rfl
@[simp] theorem State.setThread_stage (s : State) (tid : Nat) (t : Thread) : (s.setThread tid t).stage = s.stage := rfl
@[simp] theorem State.setThread_err (s : State) (tid : Nat) (t : Thread) : (s.setThread tid t).err = s.err := rfl
@[simp] theorem State.setThread_turns (s : State) (tid : Nat) (t : Thread) : (s.setThread tid t).turns = s.turns := rfl
@[simp] theorem State.setThread_now (s : State) (tid : Nat) (t : Thread) : (s.setThread tid t).now = s.now := rfl
@[simp] theorem State.setThread_cur (s : State) (tid : Nat) (t : Thread) : (s.setThread tid t).cur = s.cur := rfl
@[simp] theorem State.setThread_ir (s : State) (tid : Nat) (t : Thread) : (s.setThread tid t).ir = s.ir := rfl
@[simp] theorem State.setThread_fresh (s : State) (tid : Nat) (t : Thread) : (s.setThread tid t).fresh = s.fresh := rfl

/-! ### State.upd -/

@[simp] theorem State.upd_threads (s : State) (tid : Nat) (f : Thread → Thread) : (s.upd tid f).threads = Table.set Thread.free tid (f (s.thread tid)) s.threads := rfl
@[simp] theorem State.upd_cores (s : State) (tid : Nat) (f : Thread → Thread) : (s.upd tid f).cores = s.cores := rfl
@[simp] theorem State.upd_clusters (s : State) (tid : Nat) (f : Thread → Thread) : (s.upd tid f).clusters = s.clusters := rfl
@[simp] theorem State.upd_dies (s : State) (tid : Nat) (f : Thread → Thread) : (s.upd tid f).dies = s.dies := rfl
@[simp] theorem State.upd_mem (s : State) (tid : Nat) (f : Thread → Thread) : (s.upd tid f).mem = s.mem := rfl
@[simp] theorem State.upd_empties (s : State) (tid : Nat) (f : Thread → Thread) : (s.upd tid f).empties = s.empties := rfl
@[simp] theorem State.upd_bad (s : State) (tid : Nat) (f : Thread → Thread) : (s.upd tid f).bad = s.bad := rfl
@[simp] theorem State.upd_holds (s : State) (tid : Nat) (f : Thread → Thread) : (s.upd tid f).holds = s.holds := rfl
@[simp] theorem State.upd_waits (s : State) (tid : Nat) (f : Thread → Thread) : (s.upd tid f).waits = s.waits := rfl
@[simp] theorem State.upd_seals (s : State) (tid : Nat) (f : Thread → Thread) : (s.upd tid f).seals = s.seals := rfl
@[simp] theorem State.upd_chans (s : State) (tid : Nat) (f : Thread → Thread) : (s.upd tid f).chans = s.chans := rfl
@[simp] theorem State.upd_outbox (s : State) (tid : Nat) (f : Thread → Thread) : (s.upd tid f).outbox = s.outbox := rfl
@[simp] theorem State.upd_joins (s : State) (tid : Nat) (f : Thread → Thread) : (s.upd tid f).joins = s.joins := rfl
@[simp] theorem State.upd_tlbis (s : State) (tid : Nat) (f : Thread → Thread) : (s.upd tid f).tlbis = s.tlbis := rfl
@[simp] theorem State.upd_icinvs (s : State) (tid : Nat) (f : Thread → Thread) : (s.upd tid f).icinvs = s.icinvs := rfl
@[simp] theorem State.upd_kills (s : State) (tid : Nat) (f : Thread → Thread) : (s.upd tid f).kills = s.kills := rfl
@[simp] theorem State.upd_ctxs (s : State) (tid : Nat) (f : Thread → Thread) : (s.upd tid f).ctxs = s.ctxs := rfl
@[simp] theorem State.upd_saves (s : State) (tid : Nat) (f : Thread → Thread) : (s.upd tid f).saves = s.saves := rfl
@[simp] theorem State.upd_regions (s : State) (tid : Nat) (f : Thread → Thread) : (s.upd tid f).regions = s.regions := rfl
@[simp] theorem State.upd_serial (s : State) (tid : Nat) (f : Thread → Thread) : (s.upd tid f).serial = s.serial := rfl
@[simp] theorem State.upd_meter (s : State) (tid : Nat) (f : Thread → Thread) : (s.upd tid f).meter = s.meter := rfl
@[simp] theorem State.upd_codes (s : State) (tid : Nat) (f : Thread → Thread) : (s.upd tid f).codes = s.codes := rfl
@[simp] theorem State.upd_ramov (s : State) (tid : Nat) (f : Thread → Thread) : (s.upd tid f).ramov = s.ramov := rfl
@[simp] theorem State.upd_fwlog (s : State) (tid : Nat) (f : Thread → Thread) : (s.upd tid f).fwlog = s.fwlog := rfl
@[simp] theorem State.upd_bar2base (s : State) (tid : Nat) (f : Thread → Thread) : (s.upd tid f).bar2base = s.bar2base := rfl
@[simp] theorem State.upd_queues (s : State) (tid : Nat) (f : Thread → Thread) : (s.upd tid f).queues = s.queues := rfl
@[simp] theorem State.upd_hostOut (s : State) (tid : Nat) (f : Thread → Thread) : (s.upd tid f).hostOut = s.hostOut := rfl
@[simp] theorem State.upd_hostSeq (s : State) (tid : Nat) (f : Thread → Thread) : (s.upd tid f).hostSeq = s.hostSeq := rfl
@[simp] theorem State.upd_hostReads (s : State) (tid : Nat) (f : Thread → Thread) : (s.upd tid f).hostReads = s.hostReads := rfl
@[simp] theorem State.upd_notifies (s : State) (tid : Nat) (f : Thread → Thread) : (s.upd tid f).notifies = s.notifies := rfl
@[simp] theorem State.upd_incoming (s : State) (tid : Nat) (f : Thread → Thread) : (s.upd tid f).incoming = s.incoming := rfl
@[simp] theorem State.upd_pkgid (s : State) (tid : Nat) (f : Thread → Thread) : (s.upd tid f).pkgid = s.pkgid := rfl
@[simp] theorem State.upd_lostmsg (s : State) (tid : Nat) (f : Thread → Thread) : (s.upd tid f).lostmsg = s.lostmsg := rfl
@[simp] theorem State.upd_peers (s : State) (tid : Nat) (f : Thread → Thread) : (s.upd tid f).peers = s.peers := rfl
@[simp] theorem State.upd_streams (s : State) (tid : Nat) (f : Thread → Thread) : (s.upd tid f).streams = s.streams := rfl
@[simp] theorem State.upd_sent (s : State) (tid : Nat) (f : Thread → Thread) : (s.upd tid f).sent = s.sent := rfl
@[simp] theorem State.upd_stage (s : State) (tid : Nat) (f : Thread → Thread) : (s.upd tid f).stage = s.stage := rfl
@[simp] theorem State.upd_err (s : State) (tid : Nat) (f : Thread → Thread) : (s.upd tid f).err = s.err := rfl
@[simp] theorem State.upd_turns (s : State) (tid : Nat) (f : Thread → Thread) : (s.upd tid f).turns = s.turns := rfl
@[simp] theorem State.upd_now (s : State) (tid : Nat) (f : Thread → Thread) : (s.upd tid f).now = s.now := rfl
@[simp] theorem State.upd_cur (s : State) (tid : Nat) (f : Thread → Thread) : (s.upd tid f).cur = s.cur := rfl
@[simp] theorem State.upd_ir (s : State) (tid : Nat) (f : Thread → Thread) : (s.upd tid f).ir = s.ir := rfl
@[simp] theorem State.upd_fresh (s : State) (tid : Nat) (f : Thread → Thread) : (s.upd tid f).fresh = s.fresh := rfl

/-! ### State.updMe -/

@[simp] theorem State.updMe_threads (s : State) (f : Thread → Thread) : (s.updMe f).threads = Table.set Thread.free s.cur (f s.me) s.threads := rfl
@[simp] theorem State.updMe_cores (s : State) (f : Thread → Thread) : (s.updMe f).cores = s.cores := rfl
@[simp] theorem State.updMe_clusters (s : State) (f : Thread → Thread) : (s.updMe f).clusters = s.clusters := rfl
@[simp] theorem State.updMe_dies (s : State) (f : Thread → Thread) : (s.updMe f).dies = s.dies := rfl
@[simp] theorem State.updMe_mem (s : State) (f : Thread → Thread) : (s.updMe f).mem = s.mem := rfl
@[simp] theorem State.updMe_empties (s : State) (f : Thread → Thread) : (s.updMe f).empties = s.empties := rfl
@[simp] theorem State.updMe_bad (s : State) (f : Thread → Thread) : (s.updMe f).bad = s.bad := rfl
@[simp] theorem State.updMe_holds (s : State) (f : Thread → Thread) : (s.updMe f).holds = s.holds := rfl
@[simp] theorem State.updMe_waits (s : State) (f : Thread → Thread) : (s.updMe f).waits = s.waits := rfl
@[simp] theorem State.updMe_seals (s : State) (f : Thread → Thread) : (s.updMe f).seals = s.seals := rfl
@[simp] theorem State.updMe_chans (s : State) (f : Thread → Thread) : (s.updMe f).chans = s.chans := rfl
@[simp] theorem State.updMe_outbox (s : State) (f : Thread → Thread) : (s.updMe f).outbox = s.outbox := rfl
@[simp] theorem State.updMe_joins (s : State) (f : Thread → Thread) : (s.updMe f).joins = s.joins := rfl
@[simp] theorem State.updMe_tlbis (s : State) (f : Thread → Thread) : (s.updMe f).tlbis = s.tlbis := rfl
@[simp] theorem State.updMe_icinvs (s : State) (f : Thread → Thread) : (s.updMe f).icinvs = s.icinvs := rfl
@[simp] theorem State.updMe_kills (s : State) (f : Thread → Thread) : (s.updMe f).kills = s.kills := rfl
@[simp] theorem State.updMe_ctxs (s : State) (f : Thread → Thread) : (s.updMe f).ctxs = s.ctxs := rfl
@[simp] theorem State.updMe_saves (s : State) (f : Thread → Thread) : (s.updMe f).saves = s.saves := rfl
@[simp] theorem State.updMe_regions (s : State) (f : Thread → Thread) : (s.updMe f).regions = s.regions := rfl
@[simp] theorem State.updMe_serial (s : State) (f : Thread → Thread) : (s.updMe f).serial = s.serial := rfl
@[simp] theorem State.updMe_meter (s : State) (f : Thread → Thread) : (s.updMe f).meter = s.meter := rfl
@[simp] theorem State.updMe_codes (s : State) (f : Thread → Thread) : (s.updMe f).codes = s.codes := rfl
@[simp] theorem State.updMe_ramov (s : State) (f : Thread → Thread) : (s.updMe f).ramov = s.ramov := rfl
@[simp] theorem State.updMe_fwlog (s : State) (f : Thread → Thread) : (s.updMe f).fwlog = s.fwlog := rfl
@[simp] theorem State.updMe_bar2base (s : State) (f : Thread → Thread) : (s.updMe f).bar2base = s.bar2base := rfl
@[simp] theorem State.updMe_queues (s : State) (f : Thread → Thread) : (s.updMe f).queues = s.queues := rfl
@[simp] theorem State.updMe_hostOut (s : State) (f : Thread → Thread) : (s.updMe f).hostOut = s.hostOut := rfl
@[simp] theorem State.updMe_hostSeq (s : State) (f : Thread → Thread) : (s.updMe f).hostSeq = s.hostSeq := rfl
@[simp] theorem State.updMe_hostReads (s : State) (f : Thread → Thread) : (s.updMe f).hostReads = s.hostReads := rfl
@[simp] theorem State.updMe_notifies (s : State) (f : Thread → Thread) : (s.updMe f).notifies = s.notifies := rfl
@[simp] theorem State.updMe_incoming (s : State) (f : Thread → Thread) : (s.updMe f).incoming = s.incoming := rfl
@[simp] theorem State.updMe_pkgid (s : State) (f : Thread → Thread) : (s.updMe f).pkgid = s.pkgid := rfl
@[simp] theorem State.updMe_lostmsg (s : State) (f : Thread → Thread) : (s.updMe f).lostmsg = s.lostmsg := rfl
@[simp] theorem State.updMe_peers (s : State) (f : Thread → Thread) : (s.updMe f).peers = s.peers := rfl
@[simp] theorem State.updMe_streams (s : State) (f : Thread → Thread) : (s.updMe f).streams = s.streams := rfl
@[simp] theorem State.updMe_sent (s : State) (f : Thread → Thread) : (s.updMe f).sent = s.sent := rfl
@[simp] theorem State.updMe_stage (s : State) (f : Thread → Thread) : (s.updMe f).stage = s.stage := rfl
@[simp] theorem State.updMe_err (s : State) (f : Thread → Thread) : (s.updMe f).err = s.err := rfl
@[simp] theorem State.updMe_turns (s : State) (f : Thread → Thread) : (s.updMe f).turns = s.turns := rfl
@[simp] theorem State.updMe_now (s : State) (f : Thread → Thread) : (s.updMe f).now = s.now := rfl
@[simp] theorem State.updMe_cur (s : State) (f : Thread → Thread) : (s.updMe f).cur = s.cur := rfl
@[simp] theorem State.updMe_ir (s : State) (f : Thread → Thread) : (s.updMe f).ir = s.ir := rfl
@[simp] theorem State.updMe_fresh (s : State) (f : Thread → Thread) : (s.updMe f).fresh = s.fresh := rfl

/-! ### State.updCore -/

@[simp] theorem State.updCore_threads (s : State) (k : Nat) (f : CoreSt → CoreSt) : (s.updCore k f).threads = s.threads := rfl
@[simp] theorem State.updCore_cores (s : State) (k : Nat) (f : CoreSt → CoreSt) : (s.updCore k f).cores = Table.set CoreSt.init k (f (s.core k)) s.cores := rfl
@[simp] theorem State.updCore_clusters (s : State) (k : Nat) (f : CoreSt → CoreSt) : (s.updCore k f).clusters = s.clusters := rfl
@[simp] theorem State.updCore_dies (s : State) (k : Nat) (f : CoreSt → CoreSt) : (s.updCore k f).dies = s.dies := rfl
@[simp] theorem State.updCore_mem (s : State) (k : Nat) (f : CoreSt → CoreSt) : (s.updCore k f).mem = s.mem := rfl
@[simp] theorem State.updCore_empties (s : State) (k : Nat) (f : CoreSt → CoreSt) : (s.updCore k f).empties = s.empties := rfl
@[simp] theorem State.updCore_bad (s : State) (k : Nat) (f : CoreSt → CoreSt) : (s.updCore k f).bad = s.bad := rfl
@[simp] theorem State.updCore_holds (s : State) (k : Nat) (f : CoreSt → CoreSt) : (s.updCore k f).holds = s.holds := rfl
@[simp] theorem State.updCore_waits (s : State) (k : Nat) (f : CoreSt → CoreSt) : (s.updCore k f).waits = s.waits := rfl
@[simp] theorem State.updCore_seals (s : State) (k : Nat) (f : CoreSt → CoreSt) : (s.updCore k f).seals = s.seals := rfl
@[simp] theorem State.updCore_chans (s : State) (k : Nat) (f : CoreSt → CoreSt) : (s.updCore k f).chans = s.chans := rfl
@[simp] theorem State.updCore_outbox (s : State) (k : Nat) (f : CoreSt → CoreSt) : (s.updCore k f).outbox = s.outbox := rfl
@[simp] theorem State.updCore_joins (s : State) (k : Nat) (f : CoreSt → CoreSt) : (s.updCore k f).joins = s.joins := rfl
@[simp] theorem State.updCore_tlbis (s : State) (k : Nat) (f : CoreSt → CoreSt) : (s.updCore k f).tlbis = s.tlbis := rfl
@[simp] theorem State.updCore_icinvs (s : State) (k : Nat) (f : CoreSt → CoreSt) : (s.updCore k f).icinvs = s.icinvs := rfl
@[simp] theorem State.updCore_kills (s : State) (k : Nat) (f : CoreSt → CoreSt) : (s.updCore k f).kills = s.kills := rfl
@[simp] theorem State.updCore_ctxs (s : State) (k : Nat) (f : CoreSt → CoreSt) : (s.updCore k f).ctxs = s.ctxs := rfl
@[simp] theorem State.updCore_saves (s : State) (k : Nat) (f : CoreSt → CoreSt) : (s.updCore k f).saves = s.saves := rfl
@[simp] theorem State.updCore_regions (s : State) (k : Nat) (f : CoreSt → CoreSt) : (s.updCore k f).regions = s.regions := rfl
@[simp] theorem State.updCore_serial (s : State) (k : Nat) (f : CoreSt → CoreSt) : (s.updCore k f).serial = s.serial := rfl
@[simp] theorem State.updCore_meter (s : State) (k : Nat) (f : CoreSt → CoreSt) : (s.updCore k f).meter = s.meter := rfl
@[simp] theorem State.updCore_codes (s : State) (k : Nat) (f : CoreSt → CoreSt) : (s.updCore k f).codes = s.codes := rfl
@[simp] theorem State.updCore_ramov (s : State) (k : Nat) (f : CoreSt → CoreSt) : (s.updCore k f).ramov = s.ramov := rfl
@[simp] theorem State.updCore_fwlog (s : State) (k : Nat) (f : CoreSt → CoreSt) : (s.updCore k f).fwlog = s.fwlog := rfl
@[simp] theorem State.updCore_bar2base (s : State) (k : Nat) (f : CoreSt → CoreSt) : (s.updCore k f).bar2base = s.bar2base := rfl
@[simp] theorem State.updCore_queues (s : State) (k : Nat) (f : CoreSt → CoreSt) : (s.updCore k f).queues = s.queues := rfl
@[simp] theorem State.updCore_hostOut (s : State) (k : Nat) (f : CoreSt → CoreSt) : (s.updCore k f).hostOut = s.hostOut := rfl
@[simp] theorem State.updCore_hostSeq (s : State) (k : Nat) (f : CoreSt → CoreSt) : (s.updCore k f).hostSeq = s.hostSeq := rfl
@[simp] theorem State.updCore_hostReads (s : State) (k : Nat) (f : CoreSt → CoreSt) : (s.updCore k f).hostReads = s.hostReads := rfl
@[simp] theorem State.updCore_notifies (s : State) (k : Nat) (f : CoreSt → CoreSt) : (s.updCore k f).notifies = s.notifies := rfl
@[simp] theorem State.updCore_incoming (s : State) (k : Nat) (f : CoreSt → CoreSt) : (s.updCore k f).incoming = s.incoming := rfl
@[simp] theorem State.updCore_pkgid (s : State) (k : Nat) (f : CoreSt → CoreSt) : (s.updCore k f).pkgid = s.pkgid := rfl
@[simp] theorem State.updCore_lostmsg (s : State) (k : Nat) (f : CoreSt → CoreSt) : (s.updCore k f).lostmsg = s.lostmsg := rfl
@[simp] theorem State.updCore_peers (s : State) (k : Nat) (f : CoreSt → CoreSt) : (s.updCore k f).peers = s.peers := rfl
@[simp] theorem State.updCore_streams (s : State) (k : Nat) (f : CoreSt → CoreSt) : (s.updCore k f).streams = s.streams := rfl
@[simp] theorem State.updCore_sent (s : State) (k : Nat) (f : CoreSt → CoreSt) : (s.updCore k f).sent = s.sent := rfl
@[simp] theorem State.updCore_stage (s : State) (k : Nat) (f : CoreSt → CoreSt) : (s.updCore k f).stage = s.stage := rfl
@[simp] theorem State.updCore_err (s : State) (k : Nat) (f : CoreSt → CoreSt) : (s.updCore k f).err = s.err := rfl
@[simp] theorem State.updCore_turns (s : State) (k : Nat) (f : CoreSt → CoreSt) : (s.updCore k f).turns = s.turns := rfl
@[simp] theorem State.updCore_now (s : State) (k : Nat) (f : CoreSt → CoreSt) : (s.updCore k f).now = s.now := rfl
@[simp] theorem State.updCore_cur (s : State) (k : Nat) (f : CoreSt → CoreSt) : (s.updCore k f).cur = s.cur := rfl
@[simp] theorem State.updCore_ir (s : State) (k : Nat) (f : CoreSt → CoreSt) : (s.updCore k f).ir = s.ir := rfl
@[simp] theorem State.updCore_fresh (s : State) (k : Nat) (f : CoreSt → CoreSt) : (s.updCore k f).fresh = s.fresh := rfl

/-! ### State.updCluster -/

@[simp] theorem State.updCluster_threads (s : State) (k : Nat) (f : ClusterSt → ClusterSt) : (s.updCluster k f).threads = s.threads := rfl
@[simp] theorem State.updCluster_cores (s : State) (k : Nat) (f : ClusterSt → ClusterSt) : (s.updCluster k f).cores = s.cores := rfl
@[simp] theorem State.updCluster_clusters (s : State) (k : Nat) (f : ClusterSt → ClusterSt) : (s.updCluster k f).clusters = Table.set ClusterSt.init k (f (s.cluster k)) s.clusters := rfl
@[simp] theorem State.updCluster_dies (s : State) (k : Nat) (f : ClusterSt → ClusterSt) : (s.updCluster k f).dies = s.dies := rfl
@[simp] theorem State.updCluster_mem (s : State) (k : Nat) (f : ClusterSt → ClusterSt) : (s.updCluster k f).mem = s.mem := rfl
@[simp] theorem State.updCluster_empties (s : State) (k : Nat) (f : ClusterSt → ClusterSt) : (s.updCluster k f).empties = s.empties := rfl
@[simp] theorem State.updCluster_bad (s : State) (k : Nat) (f : ClusterSt → ClusterSt) : (s.updCluster k f).bad = s.bad := rfl
@[simp] theorem State.updCluster_holds (s : State) (k : Nat) (f : ClusterSt → ClusterSt) : (s.updCluster k f).holds = s.holds := rfl
@[simp] theorem State.updCluster_waits (s : State) (k : Nat) (f : ClusterSt → ClusterSt) : (s.updCluster k f).waits = s.waits := rfl
@[simp] theorem State.updCluster_seals (s : State) (k : Nat) (f : ClusterSt → ClusterSt) : (s.updCluster k f).seals = s.seals := rfl
@[simp] theorem State.updCluster_chans (s : State) (k : Nat) (f : ClusterSt → ClusterSt) : (s.updCluster k f).chans = s.chans := rfl
@[simp] theorem State.updCluster_outbox (s : State) (k : Nat) (f : ClusterSt → ClusterSt) : (s.updCluster k f).outbox = s.outbox := rfl
@[simp] theorem State.updCluster_joins (s : State) (k : Nat) (f : ClusterSt → ClusterSt) : (s.updCluster k f).joins = s.joins := rfl
@[simp] theorem State.updCluster_tlbis (s : State) (k : Nat) (f : ClusterSt → ClusterSt) : (s.updCluster k f).tlbis = s.tlbis := rfl
@[simp] theorem State.updCluster_icinvs (s : State) (k : Nat) (f : ClusterSt → ClusterSt) : (s.updCluster k f).icinvs = s.icinvs := rfl
@[simp] theorem State.updCluster_kills (s : State) (k : Nat) (f : ClusterSt → ClusterSt) : (s.updCluster k f).kills = s.kills := rfl
@[simp] theorem State.updCluster_ctxs (s : State) (k : Nat) (f : ClusterSt → ClusterSt) : (s.updCluster k f).ctxs = s.ctxs := rfl
@[simp] theorem State.updCluster_saves (s : State) (k : Nat) (f : ClusterSt → ClusterSt) : (s.updCluster k f).saves = s.saves := rfl
@[simp] theorem State.updCluster_regions (s : State) (k : Nat) (f : ClusterSt → ClusterSt) : (s.updCluster k f).regions = s.regions := rfl
@[simp] theorem State.updCluster_serial (s : State) (k : Nat) (f : ClusterSt → ClusterSt) : (s.updCluster k f).serial = s.serial := rfl
@[simp] theorem State.updCluster_meter (s : State) (k : Nat) (f : ClusterSt → ClusterSt) : (s.updCluster k f).meter = s.meter := rfl
@[simp] theorem State.updCluster_codes (s : State) (k : Nat) (f : ClusterSt → ClusterSt) : (s.updCluster k f).codes = s.codes := rfl
@[simp] theorem State.updCluster_ramov (s : State) (k : Nat) (f : ClusterSt → ClusterSt) : (s.updCluster k f).ramov = s.ramov := rfl
@[simp] theorem State.updCluster_fwlog (s : State) (k : Nat) (f : ClusterSt → ClusterSt) : (s.updCluster k f).fwlog = s.fwlog := rfl
@[simp] theorem State.updCluster_bar2base (s : State) (k : Nat) (f : ClusterSt → ClusterSt) : (s.updCluster k f).bar2base = s.bar2base := rfl
@[simp] theorem State.updCluster_queues (s : State) (k : Nat) (f : ClusterSt → ClusterSt) : (s.updCluster k f).queues = s.queues := rfl
@[simp] theorem State.updCluster_hostOut (s : State) (k : Nat) (f : ClusterSt → ClusterSt) : (s.updCluster k f).hostOut = s.hostOut := rfl
@[simp] theorem State.updCluster_hostSeq (s : State) (k : Nat) (f : ClusterSt → ClusterSt) : (s.updCluster k f).hostSeq = s.hostSeq := rfl
@[simp] theorem State.updCluster_hostReads (s : State) (k : Nat) (f : ClusterSt → ClusterSt) : (s.updCluster k f).hostReads = s.hostReads := rfl
@[simp] theorem State.updCluster_notifies (s : State) (k : Nat) (f : ClusterSt → ClusterSt) : (s.updCluster k f).notifies = s.notifies := rfl
@[simp] theorem State.updCluster_incoming (s : State) (k : Nat) (f : ClusterSt → ClusterSt) : (s.updCluster k f).incoming = s.incoming := rfl
@[simp] theorem State.updCluster_pkgid (s : State) (k : Nat) (f : ClusterSt → ClusterSt) : (s.updCluster k f).pkgid = s.pkgid := rfl
@[simp] theorem State.updCluster_lostmsg (s : State) (k : Nat) (f : ClusterSt → ClusterSt) : (s.updCluster k f).lostmsg = s.lostmsg := rfl
@[simp] theorem State.updCluster_peers (s : State) (k : Nat) (f : ClusterSt → ClusterSt) : (s.updCluster k f).peers = s.peers := rfl
@[simp] theorem State.updCluster_streams (s : State) (k : Nat) (f : ClusterSt → ClusterSt) : (s.updCluster k f).streams = s.streams := rfl
@[simp] theorem State.updCluster_sent (s : State) (k : Nat) (f : ClusterSt → ClusterSt) : (s.updCluster k f).sent = s.sent := rfl
@[simp] theorem State.updCluster_stage (s : State) (k : Nat) (f : ClusterSt → ClusterSt) : (s.updCluster k f).stage = s.stage := rfl
@[simp] theorem State.updCluster_err (s : State) (k : Nat) (f : ClusterSt → ClusterSt) : (s.updCluster k f).err = s.err := rfl
@[simp] theorem State.updCluster_turns (s : State) (k : Nat) (f : ClusterSt → ClusterSt) : (s.updCluster k f).turns = s.turns := rfl
@[simp] theorem State.updCluster_now (s : State) (k : Nat) (f : ClusterSt → ClusterSt) : (s.updCluster k f).now = s.now := rfl
@[simp] theorem State.updCluster_cur (s : State) (k : Nat) (f : ClusterSt → ClusterSt) : (s.updCluster k f).cur = s.cur := rfl
@[simp] theorem State.updCluster_ir (s : State) (k : Nat) (f : ClusterSt → ClusterSt) : (s.updCluster k f).ir = s.ir := rfl
@[simp] theorem State.updCluster_fresh (s : State) (k : Nat) (f : ClusterSt → ClusterSt) : (s.updCluster k f).fresh = s.fresh := rfl

/-! ### State.updDie -/

@[simp] theorem State.updDie_threads (s : State) (d : Nat) (f : DieSt → DieSt) : (s.updDie d f).threads = s.threads := rfl
@[simp] theorem State.updDie_cores (s : State) (d : Nat) (f : DieSt → DieSt) : (s.updDie d f).cores = s.cores := rfl
@[simp] theorem State.updDie_clusters (s : State) (d : Nat) (f : DieSt → DieSt) : (s.updDie d f).clusters = s.clusters := rfl
@[simp] theorem State.updDie_dies (s : State) (d : Nat) (f : DieSt → DieSt) : (s.updDie d f).dies = Table.set DieSt.init d (f (s.die d)) s.dies := rfl
@[simp] theorem State.updDie_mem (s : State) (d : Nat) (f : DieSt → DieSt) : (s.updDie d f).mem = s.mem := rfl
@[simp] theorem State.updDie_empties (s : State) (d : Nat) (f : DieSt → DieSt) : (s.updDie d f).empties = s.empties := rfl
@[simp] theorem State.updDie_bad (s : State) (d : Nat) (f : DieSt → DieSt) : (s.updDie d f).bad = s.bad := rfl
@[simp] theorem State.updDie_holds (s : State) (d : Nat) (f : DieSt → DieSt) : (s.updDie d f).holds = s.holds := rfl
@[simp] theorem State.updDie_waits (s : State) (d : Nat) (f : DieSt → DieSt) : (s.updDie d f).waits = s.waits := rfl
@[simp] theorem State.updDie_seals (s : State) (d : Nat) (f : DieSt → DieSt) : (s.updDie d f).seals = s.seals := rfl
@[simp] theorem State.updDie_chans (s : State) (d : Nat) (f : DieSt → DieSt) : (s.updDie d f).chans = s.chans := rfl
@[simp] theorem State.updDie_outbox (s : State) (d : Nat) (f : DieSt → DieSt) : (s.updDie d f).outbox = s.outbox := rfl
@[simp] theorem State.updDie_joins (s : State) (d : Nat) (f : DieSt → DieSt) : (s.updDie d f).joins = s.joins := rfl
@[simp] theorem State.updDie_tlbis (s : State) (d : Nat) (f : DieSt → DieSt) : (s.updDie d f).tlbis = s.tlbis := rfl
@[simp] theorem State.updDie_icinvs (s : State) (d : Nat) (f : DieSt → DieSt) : (s.updDie d f).icinvs = s.icinvs := rfl
@[simp] theorem State.updDie_kills (s : State) (d : Nat) (f : DieSt → DieSt) : (s.updDie d f).kills = s.kills := rfl
@[simp] theorem State.updDie_ctxs (s : State) (d : Nat) (f : DieSt → DieSt) : (s.updDie d f).ctxs = s.ctxs := rfl
@[simp] theorem State.updDie_saves (s : State) (d : Nat) (f : DieSt → DieSt) : (s.updDie d f).saves = s.saves := rfl
@[simp] theorem State.updDie_regions (s : State) (d : Nat) (f : DieSt → DieSt) : (s.updDie d f).regions = s.regions := rfl
@[simp] theorem State.updDie_serial (s : State) (d : Nat) (f : DieSt → DieSt) : (s.updDie d f).serial = s.serial := rfl
@[simp] theorem State.updDie_meter (s : State) (d : Nat) (f : DieSt → DieSt) : (s.updDie d f).meter = s.meter := rfl
@[simp] theorem State.updDie_codes (s : State) (d : Nat) (f : DieSt → DieSt) : (s.updDie d f).codes = s.codes := rfl
@[simp] theorem State.updDie_ramov (s : State) (d : Nat) (f : DieSt → DieSt) : (s.updDie d f).ramov = s.ramov := rfl
@[simp] theorem State.updDie_fwlog (s : State) (d : Nat) (f : DieSt → DieSt) : (s.updDie d f).fwlog = s.fwlog := rfl
@[simp] theorem State.updDie_bar2base (s : State) (d : Nat) (f : DieSt → DieSt) : (s.updDie d f).bar2base = s.bar2base := rfl
@[simp] theorem State.updDie_queues (s : State) (d : Nat) (f : DieSt → DieSt) : (s.updDie d f).queues = s.queues := rfl
@[simp] theorem State.updDie_hostOut (s : State) (d : Nat) (f : DieSt → DieSt) : (s.updDie d f).hostOut = s.hostOut := rfl
@[simp] theorem State.updDie_hostSeq (s : State) (d : Nat) (f : DieSt → DieSt) : (s.updDie d f).hostSeq = s.hostSeq := rfl
@[simp] theorem State.updDie_hostReads (s : State) (d : Nat) (f : DieSt → DieSt) : (s.updDie d f).hostReads = s.hostReads := rfl
@[simp] theorem State.updDie_notifies (s : State) (d : Nat) (f : DieSt → DieSt) : (s.updDie d f).notifies = s.notifies := rfl
@[simp] theorem State.updDie_incoming (s : State) (d : Nat) (f : DieSt → DieSt) : (s.updDie d f).incoming = s.incoming := rfl
@[simp] theorem State.updDie_pkgid (s : State) (d : Nat) (f : DieSt → DieSt) : (s.updDie d f).pkgid = s.pkgid := rfl
@[simp] theorem State.updDie_lostmsg (s : State) (d : Nat) (f : DieSt → DieSt) : (s.updDie d f).lostmsg = s.lostmsg := rfl
@[simp] theorem State.updDie_peers (s : State) (d : Nat) (f : DieSt → DieSt) : (s.updDie d f).peers = s.peers := rfl
@[simp] theorem State.updDie_streams (s : State) (d : Nat) (f : DieSt → DieSt) : (s.updDie d f).streams = s.streams := rfl
@[simp] theorem State.updDie_sent (s : State) (d : Nat) (f : DieSt → DieSt) : (s.updDie d f).sent = s.sent := rfl
@[simp] theorem State.updDie_stage (s : State) (d : Nat) (f : DieSt → DieSt) : (s.updDie d f).stage = s.stage := rfl
@[simp] theorem State.updDie_err (s : State) (d : Nat) (f : DieSt → DieSt) : (s.updDie d f).err = s.err := rfl
@[simp] theorem State.updDie_turns (s : State) (d : Nat) (f : DieSt → DieSt) : (s.updDie d f).turns = s.turns := rfl
@[simp] theorem State.updDie_now (s : State) (d : Nat) (f : DieSt → DieSt) : (s.updDie d f).now = s.now := rfl
@[simp] theorem State.updDie_cur (s : State) (d : Nat) (f : DieSt → DieSt) : (s.updDie d f).cur = s.cur := rfl
@[simp] theorem State.updDie_ir (s : State) (d : Nat) (f : DieSt → DieSt) : (s.updDie d f).ir = s.ir := rfl
@[simp] theorem State.updDie_fresh (s : State) (d : Nat) (f : DieSt → DieSt) : (s.updDie d f).fresh = s.fresh := rfl

/-! ### State.setByte -/

@[simp] theorem State.setByte_threads (s : State) (a : Nat) (b : Byte) : (s.setByte a b).threads = s.threads := rfl
@[simp] theorem State.setByte_cores (s : State) (a : Nat) (b : Byte) : (s.setByte a b).cores = s.cores := rfl
@[simp] theorem State.setByte_clusters (s : State) (a : Nat) (b : Byte) : (s.setByte a b).clusters = s.clusters := rfl
@[simp] theorem State.setByte_dies (s : State) (a : Nat) (b : Byte) : (s.setByte a b).dies = s.dies := rfl
@[simp] theorem State.setByte_mem (s : State) (a : Nat) (b : Byte) : (s.setByte a b).mem = Table.set unlisted a b s.mem := rfl
@[simp] theorem State.setByte_empties (s : State) (a : Nat) (b : Byte) : (s.setByte a b).empties = s.empties := rfl
@[simp] theorem State.setByte_bad (s : State) (a : Nat) (b : Byte) : (s.setByte a b).bad = s.bad := rfl
@[simp] theorem State.setByte_holds (s : State) (a : Nat) (b : Byte) : (s.setByte a b).holds = s.holds := rfl
@[simp] theorem State.setByte_waits (s : State) (a : Nat) (b : Byte) : (s.setByte a b).waits = s.waits := rfl
@[simp] theorem State.setByte_seals (s : State) (a : Nat) (b : Byte) : (s.setByte a b).seals = s.seals := rfl
@[simp] theorem State.setByte_chans (s : State) (a : Nat) (b : Byte) : (s.setByte a b).chans = s.chans := rfl
@[simp] theorem State.setByte_outbox (s : State) (a : Nat) (b : Byte) : (s.setByte a b).outbox = s.outbox := rfl
@[simp] theorem State.setByte_joins (s : State) (a : Nat) (b : Byte) : (s.setByte a b).joins = s.joins := rfl
@[simp] theorem State.setByte_tlbis (s : State) (a : Nat) (b : Byte) : (s.setByte a b).tlbis = s.tlbis := rfl
@[simp] theorem State.setByte_icinvs (s : State) (a : Nat) (b : Byte) : (s.setByte a b).icinvs = s.icinvs := rfl
@[simp] theorem State.setByte_kills (s : State) (a : Nat) (b : Byte) : (s.setByte a b).kills = s.kills := rfl
@[simp] theorem State.setByte_ctxs (s : State) (a : Nat) (b : Byte) : (s.setByte a b).ctxs = s.ctxs := rfl
@[simp] theorem State.setByte_saves (s : State) (a : Nat) (b : Byte) : (s.setByte a b).saves = s.saves := rfl
@[simp] theorem State.setByte_regions (s : State) (a : Nat) (b : Byte) : (s.setByte a b).regions = s.regions := rfl
@[simp] theorem State.setByte_serial (s : State) (a : Nat) (b : Byte) : (s.setByte a b).serial = s.serial := rfl
@[simp] theorem State.setByte_meter (s : State) (a : Nat) (b : Byte) : (s.setByte a b).meter = s.meter := rfl
@[simp] theorem State.setByte_codes (s : State) (a : Nat) (b : Byte) : (s.setByte a b).codes = s.codes := rfl
@[simp] theorem State.setByte_ramov (s : State) (a : Nat) (b : Byte) : (s.setByte a b).ramov = s.ramov := rfl
@[simp] theorem State.setByte_fwlog (s : State) (a : Nat) (b : Byte) : (s.setByte a b).fwlog = s.fwlog := rfl
@[simp] theorem State.setByte_bar2base (s : State) (a : Nat) (b : Byte) : (s.setByte a b).bar2base = s.bar2base := rfl
@[simp] theorem State.setByte_queues (s : State) (a : Nat) (b : Byte) : (s.setByte a b).queues = s.queues := rfl
@[simp] theorem State.setByte_hostOut (s : State) (a : Nat) (b : Byte) : (s.setByte a b).hostOut = s.hostOut := rfl
@[simp] theorem State.setByte_hostSeq (s : State) (a : Nat) (b : Byte) : (s.setByte a b).hostSeq = s.hostSeq := rfl
@[simp] theorem State.setByte_hostReads (s : State) (a : Nat) (b : Byte) : (s.setByte a b).hostReads = s.hostReads := rfl
@[simp] theorem State.setByte_notifies (s : State) (a : Nat) (b : Byte) : (s.setByte a b).notifies = s.notifies := rfl
@[simp] theorem State.setByte_incoming (s : State) (a : Nat) (b : Byte) : (s.setByte a b).incoming = s.incoming := rfl
@[simp] theorem State.setByte_pkgid (s : State) (a : Nat) (b : Byte) : (s.setByte a b).pkgid = s.pkgid := rfl
@[simp] theorem State.setByte_lostmsg (s : State) (a : Nat) (b : Byte) : (s.setByte a b).lostmsg = s.lostmsg := rfl
@[simp] theorem State.setByte_peers (s : State) (a : Nat) (b : Byte) : (s.setByte a b).peers = s.peers := rfl
@[simp] theorem State.setByte_streams (s : State) (a : Nat) (b : Byte) : (s.setByte a b).streams = s.streams := rfl
@[simp] theorem State.setByte_sent (s : State) (a : Nat) (b : Byte) : (s.setByte a b).sent = s.sent := rfl
@[simp] theorem State.setByte_stage (s : State) (a : Nat) (b : Byte) : (s.setByte a b).stage = s.stage := rfl
@[simp] theorem State.setByte_err (s : State) (a : Nat) (b : Byte) : (s.setByte a b).err = s.err := rfl
@[simp] theorem State.setByte_turns (s : State) (a : Nat) (b : Byte) : (s.setByte a b).turns = s.turns := rfl
@[simp] theorem State.setByte_now (s : State) (a : Nat) (b : Byte) : (s.setByte a b).now = s.now := rfl
@[simp] theorem State.setByte_cur (s : State) (a : Nat) (b : Byte) : (s.setByte a b).cur = s.cur := rfl
@[simp] theorem State.setByte_ir (s : State) (a : Nat) (b : Byte) : (s.setByte a b).ir = s.ir := rfl
@[simp] theorem State.setByte_fresh (s : State) (a : Nat) (b : Byte) : (s.setByte a b).fresh = s.fresh := rfl

/-! ### State.post -/

@[simp] theorem State.post_threads (s : State) (m : Msg) : (s.post m).threads = s.threads := rfl
@[simp] theorem State.post_cores (s : State) (m : Msg) : (s.post m).cores = s.cores := rfl
@[simp] theorem State.post_clusters (s : State) (m : Msg) : (s.post m).clusters = s.clusters := rfl
@[simp] theorem State.post_dies (s : State) (m : Msg) : (s.post m).dies = s.dies := rfl
@[simp] theorem State.post_mem (s : State) (m : Msg) : (s.post m).mem = s.mem := rfl
@[simp] theorem State.post_empties (s : State) (m : Msg) : (s.post m).empties = s.empties := rfl
@[simp] theorem State.post_bad (s : State) (m : Msg) : (s.post m).bad = s.bad := rfl
@[simp] theorem State.post_holds (s : State) (m : Msg) : (s.post m).holds = s.holds := rfl
@[simp] theorem State.post_waits (s : State) (m : Msg) : (s.post m).waits = s.waits := rfl
@[simp] theorem State.post_seals (s : State) (m : Msg) : (s.post m).seals = s.seals := rfl
@[simp] theorem State.post_chans (s : State) (m : Msg) : (s.post m).chans = s.chans := rfl
@[simp] theorem State.post_outbox (s : State) (m : Msg) : (s.post m).outbox = s.outbox ++ [m] := rfl
@[simp] theorem State.post_joins (s : State) (m : Msg) : (s.post m).joins = s.joins := rfl
@[simp] theorem State.post_tlbis (s : State) (m : Msg) : (s.post m).tlbis = s.tlbis := rfl
@[simp] theorem State.post_icinvs (s : State) (m : Msg) : (s.post m).icinvs = s.icinvs := rfl
@[simp] theorem State.post_kills (s : State) (m : Msg) : (s.post m).kills = s.kills := rfl
@[simp] theorem State.post_ctxs (s : State) (m : Msg) : (s.post m).ctxs = s.ctxs := rfl
@[simp] theorem State.post_saves (s : State) (m : Msg) : (s.post m).saves = s.saves := rfl
@[simp] theorem State.post_regions (s : State) (m : Msg) : (s.post m).regions = s.regions := rfl
@[simp] theorem State.post_serial (s : State) (m : Msg) : (s.post m).serial = s.serial := rfl
@[simp] theorem State.post_meter (s : State) (m : Msg) : (s.post m).meter = s.meter := rfl
@[simp] theorem State.post_codes (s : State) (m : Msg) : (s.post m).codes = s.codes := rfl
@[simp] theorem State.post_ramov (s : State) (m : Msg) : (s.post m).ramov = s.ramov := rfl
@[simp] theorem State.post_fwlog (s : State) (m : Msg) : (s.post m).fwlog = s.fwlog := rfl
@[simp] theorem State.post_bar2base (s : State) (m : Msg) : (s.post m).bar2base = s.bar2base := rfl
@[simp] theorem State.post_queues (s : State) (m : Msg) : (s.post m).queues = s.queues := rfl
@[simp] theorem State.post_hostOut (s : State) (m : Msg) : (s.post m).hostOut = s.hostOut := rfl
@[simp] theorem State.post_hostSeq (s : State) (m : Msg) : (s.post m).hostSeq = s.hostSeq := rfl
@[simp] theorem State.post_hostReads (s : State) (m : Msg) : (s.post m).hostReads = s.hostReads := rfl
@[simp] theorem State.post_notifies (s : State) (m : Msg) : (s.post m).notifies = s.notifies := rfl
@[simp] theorem State.post_incoming (s : State) (m : Msg) : (s.post m).incoming = s.incoming := rfl
@[simp] theorem State.post_pkgid (s : State) (m : Msg) : (s.post m).pkgid = s.pkgid := rfl
@[simp] theorem State.post_lostmsg (s : State) (m : Msg) : (s.post m).lostmsg = s.lostmsg := rfl
@[simp] theorem State.post_peers (s : State) (m : Msg) : (s.post m).peers = s.peers := rfl
@[simp] theorem State.post_streams (s : State) (m : Msg) : (s.post m).streams = s.streams := rfl
@[simp] theorem State.post_sent (s : State) (m : Msg) : (s.post m).sent = s.sent := rfl
@[simp] theorem State.post_stage (s : State) (m : Msg) : (s.post m).stage = s.stage := rfl
@[simp] theorem State.post_err (s : State) (m : Msg) : (s.post m).err = s.err := rfl
@[simp] theorem State.post_turns (s : State) (m : Msg) : (s.post m).turns = s.turns := rfl
@[simp] theorem State.post_now (s : State) (m : Msg) : (s.post m).now = s.now := rfl
@[simp] theorem State.post_cur (s : State) (m : Msg) : (s.post m).cur = s.cur := rfl
@[simp] theorem State.post_ir (s : State) (m : Msg) : (s.post m).ir = s.ir := rfl
@[simp] theorem State.post_fresh (s : State) (m : Msg) : (s.post m).fresh = s.fresh := rfl

end Sys2Proof.Machine
end

