-- ==== Sys2Proof/Laws/Table.lean ====
section
/-!
SUPPORT. Sys2Proof/Laws/Table.lean: the laws of sparse tables: what a write leaves at every key, and that the canonical form is
kept.
-/
namespace Sys2Proof.Machine

variable {α : Type}

@[simp] theorem Table.get_nil (d : α) (n : Nat) : Table.get d [] n = d := rfl

theorem Table.above_mono {m n : Nat} {t : Table α} (h : Table.above n t = true) (hm : m ≤ n) : Table.above m t = true := by
  cases t with
  | nil => rfl
  | cons e t => simp only [Table.above, decide_eq_true_eq] at h ⊢; omega

/-- A canonical table read at a key below all of its keys gives the default. -/
theorem Table.get_above [DecidableEq α] {d : α} {n m : Nat} {t : Table α} (hw : Table.wf d t = true)
    (h : Table.above n t = true) (hm : m ≤ n) : Table.get d t m = d := by
  induction t generalizing n with
  | nil => rfl
  | cons e t ih =>
    obtain ⟨k, v⟩ := e
    simp only [Table.above, decide_eq_true_eq] at h
    simp only [Table.wf, Bool.and_eq_true] at hw
    have : m ≠ k := by omega
    simp only [Table.get, this, if_false]
    exact ih hw.2 hw.1.2 (by omega)

/-- READ AFTER WRITE: a write changes its own key and no other. -/
theorem Table.get_set [DecidableEq α] {d : α} {t : Table α} (hw : Table.wf d t = true) (n m : Nat) (x : α) :
    Table.get d (Table.set d n x t) m = if m = n then x else Table.get d t m := by
  induction t with
  | nil =>
    by_cases hx : x = d
    · simp [Table.set, hx]
    · simp [Table.set, hx, Table.get]
  | cons e t ih =>
    obtain ⟨k, v⟩ := e
    simp only [Table.wf, Bool.and_eq_true] at hw
    have ih := ih hw.2
    simp only [Table.set]
    by_cases h1 : n < k
    · rw [if_pos h1]
      by_cases hx : x = d
      · rw [if_pos hx]
        by_cases hm : m = n
        · subst hm
          have : m ≠ k := by omega
          simp only [Table.get, this, if_false, if_true]
          rw [Table.get_above hw.2 hw.1.2 (by omega), hx]
        · simp [hm]
      · simp [hx, Table.get]
    · rw [if_neg h1]
      by_cases h2 : n = k
      · rw [if_pos h2]
        by_cases hx : x = d
        · rw [if_pos hx]
          by_cases hm : m = n
          · rw [if_pos hm, Table.get_above hw.2 hw.1.2 (by omega), hx]
          · have : m ≠ k := by omega
            simp [Table.get, hm, this]
        · rw [if_neg hx]
          by_cases hm : m = n
          · simp [Table.get, hm]
          · have : m ≠ k := by omega
            simp [Table.get, hm, this]
      · rw [if_neg h2]
        simp only [Table.get, ih]
        by_cases hk : m = k
        · have : m ≠ n := by omega
          simp [hk, Ne.symm h2]
        · simp [hk]

/-- A write puts no key at or below `k` where the table's keys and the written one lie above it. -/
theorem Table.above_set [DecidableEq α] {d : α} {t : Table α} {k n : Nat} {x : α} (hw : Table.wf d t = true)
    (h : Table.above k t = true) (hn : k < n) : Table.above k (Table.set d n x t) = true := by
  cases t with
  | nil => by_cases hx : x = d <;> simp [Table.set, hx, Table.above, hn]
  | cons e t =>
    obtain ⟨j, v⟩ := e
    simp only [Table.above, decide_eq_true_eq] at h
    simp only [Table.wf, Bool.and_eq_true] at hw
    simp only [Table.set]
    split
    · split <;> simp [Table.above, h, hn]
    · split
      · split
        · exact Table.above_mono hw.1.2 (by omega)
        · simp [Table.above, hn]
      · simp [Table.above, h]

/-- A write keeps the canonical form. -/
theorem Table.wf_set [DecidableEq α] {d : α} {t : Table α} (hw : Table.wf d t = true) (n : Nat) (x : α) :
    Table.wf d (Table.set d n x t) = true := by
  induction t with
  | nil => by_cases hx : x = d <;> simp [Table.set, hx, Table.wf, Table.above]
  | cons e t ih =>
    obtain ⟨k, v⟩ := e
    have hw' := hw
    simp only [Table.wf, Bool.and_eq_true, decide_eq_true_eq] at hw
    have ih := ih hw.2
    simp only [Table.set]
    split
    · split
      · exact hw'
      · rename_i h1 h2
        simp only [Table.wf, Table.above, Bool.and_eq_true, decide_eq_true_eq]
        exact ⟨⟨h2, h1⟩, hw.1, hw.2⟩
    · split
      · split
        · exact hw.2
        · rename_i h1 h2 h3
          simp only [Table.wf, Bool.and_eq_true, decide_eq_true_eq]
          exact ⟨⟨h3, h2 ▸ hw.1.2⟩, hw.2⟩
      · simp only [Table.wf, Bool.and_eq_true, decide_eq_true_eq]
        exact ⟨⟨hw.1.1, Table.above_set hw.2 hw.1.2 (by omega)⟩, ih⟩

/-- Dropping entries keeps every key above `k`. -/
theorem Table.above_filter [DecidableEq α] {d : α} {t : Table α} {k : Nat} (p : Nat × α → Bool)
    (hw : Table.wf d t = true) (h : Table.above k t = true) : Table.above k (t.filter p) = true := by
  induction t generalizing k with
  | nil => rfl
  | cons e t ih =>
    obtain ⟨j, v⟩ := e
    simp only [Table.above, decide_eq_true_eq] at h
    simp only [Table.wf, Bool.and_eq_true] at hw
    by_cases hp : p (j, v) = true
    · simp [List.filter_cons, hp, Table.above, h]
    · simp only [List.filter_cons, hp]
      exact ih hw.2 (Table.above_mono hw.1.2 (by omega))

/-- Dropping entries keeps the canonical form. -/
theorem Table.wf_filter [DecidableEq α] {d : α} {t : Table α} (p : Nat × α → Bool) (hw : Table.wf d t = true) :
    Table.wf d (t.filter p) = true := by
  induction t with
  | nil => rfl
  | cons e t ih =>
    obtain ⟨j, v⟩ := e
    simp only [Table.wf, Bool.and_eq_true] at hw
    by_cases hp : p (j, v) = true
    · simp only [List.filter_cons, hp, if_true, Table.wf, Bool.and_eq_true]
      exact ⟨⟨hw.1.1, Table.above_filter p hw.2 hw.1.2⟩, ih hw.2⟩
    · simp only [List.filter_cons, hp]
      exact ih hw.2

/-- The head of a canonical table is what its key reads as. -/
theorem Table.get_head (d : α) (k : Nat) (v : α) (t : Table α) : Table.get d ((k, v) :: t) k = v := by simp [Table.get]

/-- EQUAL CONTENTS ARE EQUAL DATA: two canonical tables that read alike at every key are one table. -/
theorem Table.ext [DecidableEq α] {d : α} {t u : Table α} (ht : Table.wf d t = true) (hu : Table.wf d u = true)
    (h : ∀ n, Table.get d t n = Table.get d u n) : t = u := by
  induction t generalizing u with
  | nil =>
    cases u with
    | nil => rfl
    | cons e u =>
      obtain ⟨k, v⟩ := e
      have hk := h k
      rw [Table.get_head] at hk
      simp only [Table.wf, Bool.and_eq_true, decide_eq_true_eq] at hu
      exact absurd hk.symm hu.1.1
  | cons e t ih =>
    obtain ⟨k, v⟩ := e
    have ht' := ht
    simp only [Table.wf, Bool.and_eq_true, decide_eq_true_eq] at ht
    cases u with
    | nil =>
      have hk := h k
      rw [Table.get_head] at hk
      exact absurd hk ht.1.1
    | cons e' u =>
      obtain ⟨j, w⟩ := e'
      have hu' := hu
      simp only [Table.wf, Bool.and_eq_true, decide_eq_true_eq] at hu
      have hkj : k = j := by
        rcases Nat.lt_trichotomy k j with hlt | heq | hgt
        · have hk := h k
          rw [Table.get_head, Table.get_above (n := k) hu' (by simp [Table.above, hlt]) (Nat.le_refl _)] at hk
          exact absurd hk ht.1.1
        · exact heq
        · have hk := h j
          rw [Table.get_head, Table.get_above (n := j) ht' (by simp [Table.above, hgt]) (Nat.le_refl _)] at hk
          exact absurd hk.symm hu.1.1
      subst hkj
      have hv : v = w := by simpa [Table.get_head] using h k
      subst hv
      have : t = u := ih ht.2 hu.2 (fun n => by
        by_cases hn : n = k
        · subst hn
          rw [Table.get_above ht.2 ht.1.2 (Nat.le_refl _), Table.get_above hu.2 hu.1.2 (Nat.le_refl _)]
        · simpa [Table.get, hn] using h n)
      rw [this]

end Sys2Proof.Machine
end

