-- ==== Sys2Proof/Laws/Results.lean ====
section
/-!
SUPPORT. Sys2Proof/Laws/Results.lean: what the operations that end a register group leave: a scalar or vector result, a branch, and
the reads of a slot after a write of it.
-/
namespace Sys2Proof.Machine

/-! ### Slots -/

theorem State.Canonical.threads {s : State} (h : s.Canonical) : Table.wf Thread.free s.threads = true := h.2.2.2.2.1

/-- Reading a slot after one slot has been replaced. -/
theorem State.thread_setThread {s : State} (h : Table.wf Thread.free s.threads = true) (n m : Nat) (u : Thread) :
    (s.setThread n u).thread m = if m = n then u else s.thread m := by
  simp only [State.thread, State.setThread_threads]
  exact Table.get_set h n m u

theorem State.thread_upd {s : State} (h : Table.wf Thread.free s.threads = true) (n m : Nat) (f : Thread → Thread) :
    (s.upd n f).thread m = if m = n then f (s.thread n) else s.thread m := by
  simp only [State.upd]
  exact State.thread_setThread h n m _

theorem State.wf_upd {s : State} (h : Table.wf Thread.free s.threads = true) (n : Nat) (f : Thread → Thread) :
    Table.wf Thread.free (s.upd n f).threads = true := Table.wf_set h _ _

/-! ### Debits -/

theorem State.debit_rest (s : State) (n drops : Nat) (leapt : Bool) :
    s.debit n drops leapt =
      { s with threads := (s.debit n drops leapt).threads, dies := (s.debit n drops leapt).dies } := by
  unfold State.debit
  dsimp only
  split <;> rfl

theorem State.wf_debit {s : State} (h : Table.wf Thread.free s.threads = true) (n drops : Nat) (leapt : Bool) :
    Table.wf Thread.free (s.debit n drops leapt).threads = true := by
  unfold State.debit
  dsimp only
  split
  · simp only [State.updDie_threads]
    exact State.wf_upd h _ _
  · exact h

/-- A debit changes a slot in SPENT alone. -/
theorem State.debit_thread {s : State} (h : Table.wf Thread.free s.threads = true) (n m drops : Nat) (leapt : Bool) :
    (s.debit n drops leapt).thread m =
      if m = n then { s.thread n with leaph := ((s.debit n drops leapt).thread n).leaph } else s.thread m := by
  have key : ∀ (u : State), u.threads = (s.upd n fun t => { t with leaph := { t.leaph with spent := t.leaph.spent + drops } }).threads →
      u.thread m = if m = n then { s.thread n with leaph := (u.thread n).leaph } else s.thread m := by
    intro u hu
    have e : ∀ k, u.thread k = (s.upd n fun t => { t with leaph := { t.leaph with spent := t.leaph.spent + drops } }).thread k := by
      intro k; simp only [State.thread, hu]
    rw [e, e, State.thread_upd h, State.thread_upd h]
    by_cases hm : m = n <;> simp [hm]
  unfold State.debit
  dsimp only
  split
  · exact key _ rfl
  · by_cases hm : m = n <;> simp [hm]

/-- A debit after a change of a slot that leaves its leap alone does to SPENT and the pond what it does before. -/
theorem State.debit_upd {s : State} (h : Table.wf Thread.free s.threads = true) (n drops : Nat) (leapt : Bool)
    (f : Thread → Thread) (hl : ∀ t, (f t).leaph = t.leaph ∧ (f t).tsr = t.tsr ∧ (f t).adepth = t.adepth) :
    ((s.upd n f).debit n drops leapt).dies = (s.debit n drops leapt).dies ∧
      (((s.upd n f).debit n drops leapt).thread n).leaph = ((s.debit n drops leapt).thread n).leaph := by
  have hu := State.wf_upd h n f
  have e : (s.upd n f).thread n = f (s.thread n) := by simp [State.thread_upd h]
  obtain ⟨h1, h2, h3⟩ := hl (s.thread n)
  have g : ∀ (u : State) (F : DieSt → DieSt) (k : Nat), (u.updDie k F).thread n = u.thread n := fun _ _ _ => rfl
  have g' : ∀ (u v : State) (F : DieSt → DieSt) (k : Nat), u.dies = v.dies → (u.updDie k F).dies = (v.updDie k F).dies := by
    intro u v F k huv; simp only [State.updDie, State.die, huv]
  unfold State.debit
  simp only [e, h1, h2]
  split
  · refine ⟨?_, ?_⟩
    · simp only [h3]
      exact g' _ _ _ _ rfl
    · simp only [g, State.thread_upd hu, State.thread_upd h, if_true, h1]
  · exact ⟨rfl, by rw [e, h1]⟩

/-! ### Going on -/

/-- A group that changes the issuing slot as `f` says, is debited, and goes on at `pc`. -/
theorem State.went {s : State} (h : s.Canonical) (pc : Word) (drops : Nat) (f : Thread → Thread)
    (hl : ∀ t, (f t).leaph = t.leaph ∧ (f t).tsr = t.tsr ∧ (f t).adepth = t.adepth) :
    s.Went (((s.upd s.cur f).debit s.cur drops s.me.tsr.leap).goto pc) pc drops f ∧
      s.OnlySlot (((s.upd s.cur f).debit s.cur drops s.me.tsr.leap).goto pc) drops := by
  have hw := h.threads
  have hu := State.wf_upd hw s.cur f
  have hd := State.wf_debit hu s.cur drops s.me.tsr.leap
  obtain ⟨d1, d2⟩ := State.debit_upd hw s.cur drops s.me.tsr.leap f hl
  have c : ((s.upd s.cur f).debit s.cur drops s.me.tsr.leap).cur = s.cur := by rw [State.debit_rest]; rfl
  have tm : ∀ m, (((s.upd s.cur f).debit s.cur drops s.me.tsr.leap).goto pc).thread m =
      if m = s.cur then { f s.me with pc := pc, g6 := none, leaph := ((s.debit s.cur drops s.me.tsr.leap).thread s.cur).leaph }
      else s.thread m := by
    intro m
    simp only [State.goto, State.updMe, c]
    have A := State.thread_upd hw s.cur s.cur f
    have B := State.debit_thread hu s.cur s.cur drops s.me.tsr.leap
    rw [if_pos rfl] at A B
    rw [A, d2] at B
    by_cases hm : m = s.cur
    · rw [hm, State.thread_upd hd, if_pos rfl, if_pos rfl, B]
      rfl
    · rw [State.thread_upd hd, if_neg hm, State.debit_thread hu, if_neg hm, State.thread_upd hw, if_neg hm, if_neg hm]
  refine ⟨?_, ?_, ?_, ?_⟩
  · unfold State.Went
    rw [tm, if_pos rfl]
  · simp only [State.goto, State.updMe, c]
    rw [State.debit_rest, d1]
    rfl
  · intro n hn
    rw [tm, if_neg hn]
  · intro a
    simp only [State.goto, State.updMe]
    rw [State.debit_rest]
    rfl

/-- RETIRING a group that has changed the issuing slot as `f` says. -/
theorem State.went_retire {s : State} (h : s.Canonical) (drops : Nat) (f : Thread → Thread)
    (hl : ∀ t, (f t).leaph = t.leaph ∧ (f t).tsr = t.tsr ∧ (f t).adepth = t.adepth ∧ (f t).pc = t.pc) :
    s.Went ((s.upd s.cur f).retire drops) s.nextPc drops f ∧ s.OnlySlot ((s.upd s.cur f).retire drops) drops := by
  have e : (s.upd s.cur f).me = f s.me := by
    show (s.upd s.cur f).thread s.cur = _
    simp [State.thread_upd h.threads, State.me]
  have : (s.upd s.cur f).retire drops = ((s.upd s.cur f).debit s.cur drops s.me.tsr.leap).goto s.nextPc := by
    unfold State.retire State.nextPc
    simp only [e, (hl s.me).2.1, (hl s.me).2.2.2]
    rfl
  rw [this]
  exact State.went h _ _ _ (fun t => ⟨(hl t).1, (hl t).2.1, (hl t).2.2.1⟩)

theorem State.upd_id {s : State} (h : s.Canonical) (n : Nat) : s.upd n (fun t => t) = s := by
  have hw := h.threads
  show ({ s with threads := Table.set Thread.free n (s.thread n) s.threads } : State) = s
  have : Table.set Thread.free n (s.thread n) s.threads = s.threads := by
    apply Table.ext (d := Thread.free) (Table.wf_set hw _ _) hw
    intro k
    rw [Table.get_set hw]
    by_cases hk : k = n <;> simp [hk, State.thread]
  rw [this]

/-! ### Results -/

/-- A register after a write of one register. -/
theorem reg_set {α : Type} (v : Vector α 32) (d r : Reg) (x : α) :
    (v.set d.toNat x d.isLt).get (regIx r) = if r = d then x else v.get (regIx r) := by
  show (v.set d.toNat x d.isLt)[r.toNat] = if r = d then x else v[r.toNat]
  rw [Vector.getElem_set]
  by_cases h : r = d
  · simp [h]
  · have : d.toNat ≠ r.toNat := fun hh => h (BitVec.eq_of_toNat_eq hh.symm)
    simp [h, this]

theorem raise_none (w : Word) : raiseFlags w FFlags.none = w := by simp [raiseFlags, FFlags.toWord, FFlags.none]

/-- Two changes of a slot are one. -/
theorem State.upd_upd {s : State} (h : Table.wf Thread.free s.threads = true) (n : Nat) (f g : Thread → Thread) :
    (s.upd n f).upd n g = s.upd n (fun t => g (f t)) := by
  have e := State.thread_upd h n n f
  rw [if_pos rfl] at e
  have hs : Table.set Thread.free n (g (f (s.thread n))) (Table.set Thread.free n (f (s.thread n)) s.threads) =
      Table.set Thread.free n (g (f (s.thread n))) s.threads := by
    apply Table.ext (d := Thread.free) (Table.wf_set (Table.wf_set h _ _) _ _) (Table.wf_set h _ _)
    intro k
    rw [Table.get_set (Table.wf_set h _ _), Table.get_set h, Table.get_set h]
    by_cases hk : k = n <;> simp [hk]
  have : ({ s with threads := Table.set Thread.free n (g ((s.upd n f).thread n)) (s.upd n f).threads } : State) =
      { s with threads := Table.set Thread.free n (g (f (s.thread n))) s.threads } := by
    rw [e, State.upd_threads, hs]
  exact this

theorem State.raise_none {s : State} (h : s.Canonical) : s.raise FFlags.none = s := by
  have : s.raise FFlags.none = s.upd s.cur (fun t => t) := by
    unfold State.raise
    simp only [Sys2Proof.Machine.raise_none]
    rfl
  rw [this, State.upd_id h]

/-- Writing a register that pushes no hardware queue. -/
theorem State.wr_form {s : State} (h : s.Canonical) (n : Nat) (rd : Reg) (v : Word) (hp : ¬(s.thread n).pushes rd) :
    s.wr n rd v = s.upd n (fun t => { t with regs := ((s.wr n rd v).thread n).regs }) ∧
      ((s.thread n).discards rd → ((s.wr n rd v).thread n).regs.get (regIx rd) = (s.thread n).regs.get (regIx rd)) ∧
      (¬(s.thread n).discards rd → ((s.wr n rd v).thread n).regs.get (regIx rd) = v) ∧
      ∀ r, r ≠ rd → ((s.wr n rd v).thread n).regs.get (regIx r) = (s.thread n).regs.get (regIx r) := by
  by_cases hd : (s.thread n).discards rd
  · have e : s.wr n rd v = s := by
      unfold State.wr
      rcases hd with h0 | h6
      · simp [h0]
      · by_cases h0 : rd = 0
        · simp [h0]
        · simp only [h0, if_false]
          exact if_pos h6
    rw [e]
    refine ⟨?_, fun _ => rfl, fun hn => absurd hd hn, fun _ _ => rfl⟩
    exact (State.upd_id h n).symm
  · have e : s.wr n rd v = s.upd n (fun t => { t with regs := t.regs.set rd.toNat v rd.isLt }) := by
      simp only [Thread.discards, not_or] at hd
      unfold State.wr
      simp only [hd.1, if_false]
      exact (if_neg hd.2).trans (if_neg hp)
    have e' := congrArg (fun x => x.thread n) e
    simp only [State.thread_upd h.threads, if_true] at e'
    rw [e']
    refine ⟨e, fun hn => absurd hn hd, fun _ => ?_, fun r hr => ?_⟩
    · simp only [reg_set, if_true]
    · simp only [reg_set, hr, if_false]

/-- A SCALAR RESULT with flags, whose register does not push a hardware queue. -/
theorem State.raise_result_gives {s : State} (h : s.Canonical) (rd : Reg) (v : Word) (fl : FFlags) (drops : Nat)
    (hp : ¬s.me.pushes rd) : s.GivesScalar rd v fl drops ((s.raise fl).result rd v drops) := by
  have hc : (s.raise fl).Canonical := by
    obtain ⟨a1, a2, a3, a4, a5, a6⟩ := h
    exact ⟨a1, a2, a3, a4, Table.wf_set a5 _ _, a6⟩
  have ht : (s.raise fl).thread s.cur = { s.me with fctl := raiseFlags s.me.fctl fl } := by
    show (s.upd s.cur _).thread s.cur = _
    rw [State.thread_upd h.threads, if_pos rfl]
    rfl
  have hp' : ¬((s.raise fl).thread s.cur).pushes rd := by rw [ht]; exact hp
  obtain ⟨e, k1, k2, k3⟩ := State.wr_form hc s.cur rd v hp'
  have e2 : (s.raise fl).wr s.cur rd v = s.upd s.cur (fun t => { t with
      regs := (((s.raise fl).wr s.cur rd v).thread s.cur).regs, fctl := raiseFlags t.fctl fl }) := by
    exact e.trans (State.upd_upd h.threads s.cur (fun t => { t with fctl := raiseFlags t.fctl fl })
      (fun t => { t with regs := (((s.raise fl).wr s.cur rd v).thread s.cur).regs }))
  have e3 : (s.raise fl).result rd v drops = ((s.raise fl).wr s.cur rd v).retire drops := rfl
  rw [e3]
  obtain ⟨w1, w2⟩ := State.went_retire h drops (fun t => { t with
      regs := (((s.raise fl).wr s.cur rd v).thread s.cur).regs, fctl := raiseFlags t.fctl fl }) (by simp)
  rw [← e2] at w1 w2
  rw [ht] at k1 k2 k3
  have w3 := congrArg Thread.regs w1
  simp only at w3
  unfold State.GivesScalar
  simp only [w3]
  exact ⟨k1, k2, k3, w1, w2⟩

/-- A SCALAR RESULT. -/
theorem State.result_gives {s : State} (h : s.Canonical) (rd : Reg) (v : Word) (drops : Nat) (hp : ¬s.me.pushes rd) :
    s.GivesScalar rd v FFlags.none drops (s.result rd v drops) := by
  have := State.raise_result_gives h rd v FFlags.none drops hp
  rwa [State.raise_none h] at this

/-- A VECTOR RESULT with flags. -/
theorem State.raise_resultV_gives {s : State} (h : s.Canonical) (vd : Reg) (v : VWord) (fl : FFlags) (drops : Nat) :
    s.GivesVector vd v fl drops ((s.raise fl).resultV vd v drops) := by
  have e : (s.raise fl).resultV vd v drops = (s.upd s.cur (fun t => { t with
      vregs := t.vregs.set vd.toNat v vd.isLt, fctl := raiseFlags t.fctl fl })).retire drops := by
    have : (s.raise fl).wrV s.cur vd v = s.upd s.cur (fun t => { t with
      vregs := t.vregs.set vd.toNat v vd.isLt, fctl := raiseFlags t.fctl fl }) := State.upd_upd h.threads s.cur (fun t => { t with fctl := raiseFlags t.fctl fl })
      (fun t => { t with vregs := t.vregs.set vd.toNat v vd.isLt })
    exact congrArg (fun x => State.retire x drops) this
  rw [e]
  obtain ⟨w1, w2⟩ := State.went_retire h drops (fun t => { t with
      vregs := t.vregs.set vd.toNat v vd.isLt, fctl := raiseFlags t.fctl fl }) (by simp)
  have w3 := congrArg Thread.vregs w1
  simp only at w3
  unfold State.GivesVector
  simp only [w3]
  refine ⟨by simp only [reg_set, if_true], fun r hr => by simp only [reg_set, hr, if_false], ?_, w2⟩
  exact w1

/-- A VECTOR RESULT. -/
theorem State.resultV_gives {s : State} (h : s.Canonical) (vd : Reg) (v : VWord) (drops : Nat) :
    s.GivesVector vd v FFlags.none drops (s.resultV vd v drops) := by
  have := State.raise_resultV_gives h vd v FFlags.none drops
  rwa [State.raise_none h] at this

/-- GOING ON at an address, or at the next group. -/
theorem State.goto_goes {s : State} (h : s.Canonical) (pc : Word) :
    s.GoesTo pc ((s.debit s.cur 0 s.me.tsr.leap).goto pc) := by
  have := State.went h pc 0 (fun t => t) (by simp)
  rwa [State.upd_id h] at this

theorem State.retire_goes {s : State} (h : s.Canonical) : s.GoesTo s.nextPc (s.retire 0) := State.goto_goes h _

end Sys2Proof.Machine
end

