-- ==== Sys2Proof/Laws/Accesses.lean ====
section
/-!
SUPPORT. Sys2Proof/Laws/Accesses.lean: what an access of an idle slot to memory of its own die comes to: its action at the home.
-/
namespace Sys2Proof.Machine

/-- The access that a checked request makes at its home. -/
def Request.accessAt (q : Request) (s : State) (t : Target) : Access where
  tid := s.cur
  va := q.va
  pa := t.pa
  size := q.size
  fe := q.fe
  op := q.op
  got := []
  acq := q.acq
  strong := q.strong
  region := if t.kind = 3 then some t.region else none
  ctx := s.me.ctx.id

theorem State.release_idle {s : State} (h : s.Idle) (scope : Nat) : s.release s.cur scope = (s, true) := by
  obtain ⟨h0, hq, hw, _, hc, hs, _⟩ := h
  have ch : ∀ d e, s.chan d e = [] := by intro d e; simp [State.chan, hc]
  have fl : ∀ l, s.flush s.cur l = s := by
    intro l
    induction l with
    | nil => rfl
    | cons e es ih => simp [State.flush, ch, lastOwed, State.deliverTimes, ih]
  have ow : s.owing s.cur = false := by simp [State.owing, ch]
  have ro : ∀ c, s.remoteOwing c = false := by intro c; simp [State.remoteOwing, hs]
  have q : s.qdAll (coreOf s.cur) = s := by simp [State.qdAll, hq, State.qdTimes]
  have w : s.bdAll (clusterOf s.cur) = s := by simp [State.bdAll, hw, State.sendStores]
  unfold State.release
  simp only [h0, q, w, fl, ow, ro]
  by_cases a : scope = 0
  · simp [a]
  · by_cases b : scope = 1
    · simp [b]
    · by_cases c : scope = 2 <;> simp [c, a, b]

theorem State.releasing_idle {s : State} (h : s.Idle) (scope : Option Nat) (k : State → State) :
    s.releasingOpt scope k = k s := by
  cases scope with
  | none => rfl
  | some sc =>
    have hs := h.2.2.2.2.2.2.2.1
    simp [State.releasingOpt, State.releasing, State.release_idle h, State.sealIn, hs]

theorem State.drainWords_idle {s : State} (h : s.Idle) (ws : List Nat) : s.drainWords s.cur ws = s := by
  obtain ⟨h0, hq, hw, _⟩ := h
  simp [State.drainWords, h0, hq, hw, lastTouching, State.qdTimes, State.sendStores]

theorem State.drainFor_idle {s : State} (h : s.Idle) (a : Access) (ha : a.tid = s.cur) : s.drainFor a = s := by
  unfold State.drainFor
  rw [ha, State.drainWords_idle h]
  dsimp only
  split
  · rfl
  · split
    · exact State.drainWords_idle h _
    · rfl

theorem State.forward_idle {s : State} (h : s.Idle) (rc : Bool) (pa n : Nat) : s.forward s.cur rc pa n = [] := by
  obtain ⟨h0, hq, hw, hl, _⟩ := h
  have : ∀ a, s.forwardByte s.cur rc a = none := by
    intro a
    cases rc <;> simp [State.forwardByte, h0, hq, hw, hl, youngest]
  simp [State.forward, this]

/-- AN ACCESS of an idle slot to memory of its own die, other than a buffered store, acts at its home at once. -/
theorem State.access_idle {s : State} (h : s.Idle) (q : Request) (t : Target) (drops : Nat)
    (hr : s.Reaches q.va q.align q.need t) (hq : q.refused t = none)
    (hb : ∀ v, q.op = .store v → q.fe ≠ 0 ∨ q.strong = true) :
    s.access q drops = (s.parkMe (.reply (q.accessAt s t)) drops).actHere (q.accessAt s t) := by
  obtain ⟨hc, hg, hd, hp⟩ := hr
  have hf : homeFor s.cur t.pa = dieOf s.cur := by unfold homeFor; split <;> simp [hd]
  have h0 := h.1
  have key : ∀ op, q.op = op → s.direct q t drops op [] =
      (s.parkMe (.reply (q.accessAt s t)) drops).actHere (q.accessAt s t) := by
    intro op hop
    unfold State.direct
    simp only [hg]
    have e : (⟨s.cur, q.va, t.pa, q.size, q.fe, op, [], q.acq, q.strong, if t.kind = 3 then some t.region else none, s.me.ctx.id⟩ : Access)
        = q.accessAt s t := by simp [Request.accessAt, hop]
    simp only [Bool.or_false, Bool.false_eq_true, if_false, e]
    rw [State.drainFor_idle h _ rfl, if_pos (Or.inl hf)]
    split <;> rfl
  have hr2 : ∀ x, (q.roams && t.kind == 2 && homeDie t.pa != dieOf s.cur && x) = false := by
    intro x; simp [hd]
  unfold State.access
  rw [hc]
  simp only [State.sendChecked, hq, hr2, hp, Bool.false_eq_true, if_false]
  rw [State.releasing_idle h]
  unfold State.send
  simp only [hg, State.forward_idle h]
  cases hop : q.op with
  | store v =>
    have hb' := hb v hop
    have : (q.fe == 0 && !q.strong && !false && !isCtl s.cur) = false := by
      rcases hb' with x | x
      · simp only [beq_eq_false_iff_ne.mpr x, Bool.false_and]
      · simp [x]
    simp only [this, Bool.false_eq_true, if_false]
    exact key _ hop
  | _ =>
    simp only
    split <;> exact key _ hop

theorem State.acquireOf_idle {v : State} (a : Access) (hl : (v.cluster (clusterOf a.tid)).lines = []) : v.acquireOf a = v := by
  unfold State.acquireOf
  split
  · unfold State.acquire State.dropLines
    split
    · rfl
    · rfl
  · rfl

theorem State.serveAll_idle {v : State} (hw : v.waits = []) (ws : List Nat) : v.serveAll ws = v := by
  unfold State.serveAll
  rw [hw]
  split <;> rfl

theorem State.count_canonical' {v : State} (h : v.Canonical) (r : Option Nat) (m : Bool) (n o : Nat) :
    (v.count r m n o).Canonical := by
  unfold State.count
  split <;> exact h

/-! ### Completion -/

theorem State.woken_canonical {v : State} (h : v.Canonical) : v.woken.Canonical := by
  obtain ⟨a1, a2, a3, a4, a5, a6⟩ := h
  exact ⟨a1, a2, a3, a4, Table.wf_set a5 _ _, a6⟩

theorem State.woken_me {v : State} (h : v.Canonical) : v.woken.me = { v.me with park := none, wokenAt := v.now } := by
  show (v.upd v.cur _).thread v.cur = _
  rw [State.thread_upd h.threads, if_pos rfl]
  rfl

theorem State.woken_nextPc {v : State} (h : v.Canonical) : v.woken.nextPc = v.nextPc := by
  simp only [State.nextPc, State.woken_me h]
  rfl

/-- COMPLETING a parked group whose slot has taken new registers is going on from the woken state. -/
theorem State.complete_parked {v : State} (h : v.Canonical) (why : Park) (d : Nat) (R : Vector Word 32) (V : Vector VWord 32) :
    (v.upd v.cur fun t => { t with park := some ⟨why, v.nextPc, d, t.tsr.leap⟩, regs := R, vregs := V }).complete v.cur =
      (((v.woken.upd v.cur fun t => { t with regs := R, vregs := V }).debit v.cur d v.woken.me.tsr.leap).goto v.nextPc) := by
  have hw := h.threads
  have hk := State.wf_upd hw v.cur fun x => { x with park := none, wokenAt := v.now }
  let F : Thread → Thread := fun t => { t with park := some ⟨why, v.nextPc, d, t.tsr.leap⟩, regs := R, vregs := V }
  let G : Thread → Thread := fun t => { t with park := none, wokenAt := v.now, regs := R, vregs := V }
  have eG : (v.woken.upd v.cur fun t => { t with regs := R, vregs := V }) = v.upd v.cur G :=
    State.upd_upd hw v.cur (fun x => { x with park := none, wokenAt := v.now }) (fun t => { t with regs := R, vregs := V })
  rw [eG, State.woken_me h]
  have tF : (v.upd v.cur F).thread v.cur = F v.me := by rw [State.thread_upd hw, if_pos rfl]; rfl
  have hF := State.wf_upd hw v.cur F
  have hG := State.wf_upd hw v.cur G
  have A := State.debit_upd hw v.cur d v.me.tsr.leap F (fun t => ⟨rfl, rfl, rfl⟩)
  have B := State.debit_upd hw v.cur d v.me.tsr.leap G (fun t => ⟨rfl, rfl, rfl⟩)
  have eL : (v.upd v.cur F).complete v.cur = ((v.upd v.cur F).debit v.cur d v.me.tsr.leap).upd v.cur
      fun t => { t with park := none, pc := v.nextPc, g6 := none, wokenAt := v.now } := by
    unfold State.complete
    rw [tF]
    show ((v.upd v.cur F).debit v.cur d v.me.tsr.leap).upd v.cur _ = _
    rw [State.debit_rest]
    rfl
  have eR : ((v.upd v.cur G).debit v.cur d v.me.tsr.leap).goto v.nextPc =
      ((v.upd v.cur G).debit v.cur d v.me.tsr.leap).upd v.cur fun t => { t with pc := v.nextPc, g6 := none } := by
    rw [State.debit_rest]
    rfl
  refine eL.trans (Eq.trans ?_ eR.symm)
  have dF := State.wf_debit hF v.cur d v.me.tsr.leap
  have dG := State.wf_debit hG v.cur d v.me.tsr.leap
  have tt : (((v.upd v.cur F).debit v.cur d v.me.tsr.leap).upd v.cur
        fun t => { t with park := none, pc := v.nextPc, g6 := none, wokenAt := v.now }).threads =
      (((v.upd v.cur G).debit v.cur d v.me.tsr.leap).upd v.cur fun t => { t with pc := v.nextPc, g6 := none }).threads := by
    apply Table.ext (d := Thread.free) (State.wf_upd dF _ _) (State.wf_upd dG _ _)
    intro n
    have p := State.thread_upd dF v.cur n fun t => { t with park := none, pc := v.nextPc, g6 := none, wokenAt := v.now }
    have q := State.thread_upd dG v.cur n fun t => { t with pc := v.nextPc, g6 := none }
    refine p.trans (Eq.trans ?_ q.symm)
    by_cases hn : n = v.cur
    · rw [if_pos hn, if_pos hn, State.debit_thread hF, State.debit_thread hG, if_pos rfl, if_pos rfl, A.2, B.2, State.thread_upd hw, State.thread_upd hw, if_pos rfl, if_pos rfl]
    · rw [if_neg hn, if_neg hn, State.debit_thread hF, State.debit_thread hG, if_neg hn, if_neg hn, State.thread_upd hw,
        State.thread_upd hw, if_neg hn, if_neg hn]
  have rest : ∀ (F : Thread → Thread) (g : Thread → Thread), (((v.upd v.cur F).debit v.cur d v.me.tsr.leap).upd v.cur g) =
      { v with
        threads := (((v.upd v.cur F).debit v.cur d v.me.tsr.leap).upd v.cur g).threads
        dies := ((v.upd v.cur F).debit v.cur d v.me.tsr.leap).dies } := by
    intro F g
    rw [State.debit_rest]
    rfl
  rw [rest F, rest G, tt, A.1, B.1]

theorem State.complete_went {v : State} (h : v.Canonical) (why : Park) (d : Nat) (R : Vector Word 32) (V : Vector VWord 32) :
    let X := v.upd v.cur fun t => { t with park := some ⟨why, v.nextPc, d, t.tsr.leap⟩, regs := R, vregs := V }
    v.woken.Went (X.complete v.cur) v.nextPc d (fun t => { t with regs := R, vregs := V }) ∧ v.woken.OnlySlot (X.complete v.cur) d := by
  have e := State.complete_parked h why d R V
  have w := State.went (State.woken_canonical h) v.nextPc d (fun t => { t with regs := R, vregs := V }) (fun t => ⟨rfl, rfl, rfl⟩)
  dsimp only
  rw [e]
  exact w

/-- A parked group without a register result completes. -/
theorem State.park_complete {v : State} (h : v.Canonical) (why : Park) : v.Completes ((v.parkMe why 1).complete v.cur) := by
  have w := State.complete_went h why 1 v.me.regs v.me.vregs
  have e : (v.upd v.cur fun t => { t with park := some ⟨why, v.nextPc, 1, t.tsr.leap⟩, regs := v.me.regs, vregs := v.me.vregs }) =
      v.parkMe why 1 := rfl
  dsimp only at w
  rw [e] at w
  refine ⟨?_, w.2⟩
  have := w.1
  unfold State.Went at this ⊢
  rw [this]
  have m := State.woken_me h
  have r1 : v.woken.me.regs = v.me.regs := by rw [m]
  have r2 : v.woken.me.vregs = v.me.vregs := by rw [m]
  rw [← r1, ← r2]

/-- A parked group with a scalar result completes. -/
theorem State.park_answer {v : State} (h : v.Canonical) (why : Park) (rd : Reg) (x : Word) (hp : ¬v.me.pushes rd) :
    v.woken.GivesScalar rd x FFlags.none 1 (((v.parkMe why 1).wr v.cur rd x).complete v.cur) := by
  have hc : (v.parkMe why 1).Canonical := by
    obtain ⟨a1, a2, a3, a4, a5, a6⟩ := h
    exact ⟨a1, a2, a3, a4, Table.wf_set a5 _ _, a6⟩
  have ht : (v.parkMe why 1).thread v.cur = { v.me with park := some ⟨why, v.nextPc, 1, v.me.tsr.leap⟩ } := by
    show (v.upd v.cur _).thread v.cur = _
    rw [State.thread_upd h.threads, if_pos rfl]
    rfl
  obtain ⟨e, k1, k2, k3⟩ := State.wr_form hc v.cur rd x (by rw [ht]; exact hp)
  rw [ht] at k1 k2 k3
  generalize hR : (((v.parkMe why 1).wr v.cur rd x).thread v.cur).regs = R at e k1 k2 k3
  have e2 : (v.parkMe why 1).wr v.cur rd x =
      v.upd v.cur fun t => { t with park := some ⟨why, v.nextPc, 1, t.tsr.leap⟩, regs := R, vregs := v.me.vregs } := by
    refine e.trans ((State.upd_upd h.threads v.cur (fun t => { t with park := some ⟨why, v.nextPc, 1, t.tsr.leap⟩ })
      (fun t => { t with regs := R })).trans ?_)
    rfl
  have w := State.complete_went h why 1 R v.me.vregs
  dsimp only at w
  rw [← e2] at w
  have m := State.woken_me h
  have r2 : v.woken.me.vregs = v.me.vregs := by rw [m]
  have r1 : v.woken.me.regs = v.me.regs := by rw [m]
  have g1 : v.woken.me.discards rd ↔ v.me.discards rd := by rw [m]; rfl
  have f : ((((v.parkMe why 1).wr v.cur rd x).complete v.cur).thread v.woken.cur).regs = R := by
    have := congrArg Thread.regs w.1
    exact this
  unfold State.GivesScalar
  dsimp only
  rw [f, r1]
  refine ⟨fun q => k1 (g1.1 q), fun q => k2 (fun z => q (g1.2 z)), k3, ?_, w.2⟩
  have := w.1
  rw [← State.woken_nextPc h] at this
  unfold State.Went at this ⊢
  rw [this]
  simp only [Sys2Proof.Machine.raise_none]
  rw [← r2]

/-- A parked group with a vector result completes. -/
theorem State.park_answerV {v : State} (h : v.Canonical) (why : Park) (vd : Reg) (x : VWord) :
    v.woken.GivesVector vd x FFlags.none 1 (((v.parkMe why 1).wrV v.cur vd x).complete v.cur) := by
  have e2 : (v.parkMe why 1).wrV v.cur vd x = v.upd v.cur fun t => { t with
      park := some ⟨why, v.nextPc, 1, t.tsr.leap⟩, regs := v.me.regs, vregs := v.me.vregs.set vd.toNat x vd.isLt } := by
    refine (State.upd_upd h.threads v.cur (fun t => { t with park := some ⟨why, v.nextPc, 1, t.tsr.leap⟩ })
      (fun t => { t with vregs := t.vregs.set vd.toNat x vd.isLt })).trans ?_
    rfl
  have w := State.complete_went h why 1 v.me.regs (v.me.vregs.set vd.toNat x vd.isLt)
  dsimp only at w
  rw [← e2] at w
  have m := State.woken_me h
  have r2 : v.woken.me.vregs = v.me.vregs := by rw [m]
  have r1 : v.woken.me.regs = v.me.regs := by rw [m]
  have f : ((((v.parkMe why 1).wrV v.cur vd x).complete v.cur).thread v.woken.cur).vregs = v.me.vregs.set vd.toNat x vd.isLt :=
    congrArg Thread.vregs w.1
  unfold State.GivesVector
  dsimp only
  rw [f, r2]
  refine ⟨by simp only [reg_set, if_true], fun r hr => by simp only [reg_set, hr, if_false], ?_, w.2⟩
  have := w.1
  rw [← State.woken_nextPc h] at this
  unfold State.Went at this ⊢
  rw [this]
  simp only [Sys2Proof.Machine.raise_none]
  rw [← r1]

/-- A write of a register that pushes no hardware queue, in one form. -/
theorem State.wr_plain (s : State) (n : Nat) (rd : Reg) (v : Word) (hp : ¬(s.thread n).pushes rd) :
    s.wr n rd v = if rd = 0 ∨ (rd = 6 ∧ (s.thread n).g6en = true) then s
      else s.upd n fun t => { t with regs := t.regs.set rd.toNat v rd.isLt } := by
  unfold State.wr
  by_cases h0 : rd = 0
  · simp [h0]
  · simp only [h0, if_false, false_or]
    by_cases h6 : rd = 6 ∧ (s.thread n).g6en = true
    · rw [if_pos h6, if_pos h6]
    · rw [if_neg h6, if_neg h6]
      exact if_neg hp

theorem State.count_me (v : State) (r : Option Nat) (m : Bool) (n o : Nat) : (v.count r m n o).me = v.me := by
  cases r <;> rfl

theorem State.count_cur (v : State) (r : Option Nat) (m : Bool) (n o : Nat) : (v.count r m n o).cur = v.cur := by
  cases r <;> rfl

theorem State.count_cluster (v : State) (r : Option Nat) (m : Bool) (n o k : Nat) : (v.count r m n o).cluster k = v.cluster k := by
  cases r <;> rfl

/-- A performed access that gives a register its value, with the event it counts. -/
theorem State.answer_idle {v : State} (h : v.Canonical) (why : Park) (rd : Reg) (x : Word) (hp : ¬v.me.pushes rd) (a : Access)
    (ha : a.tid = v.cur) (hl : (v.cluster (clusterOf v.cur)).lines = []) (r : Option Nat) (n : Nat) :
    (v.count r false n v.cur).woken.GivesScalar rd x FFlags.none 1
      (((((v.parkMe why 1).wr v.cur rd x).count r false n v.cur).acquireOf a).complete v.cur) := by
  have ht : (v.parkMe why 1).thread v.cur = { v.me with park := some ⟨why, v.nextPc, 1, v.me.tsr.leap⟩ } := by
    show (v.upd v.cur _).thread v.cur = _
    rw [State.thread_upd h.threads, if_pos rfl]
    rfl
  have hc' := State.count_canonical' h r false n v.cur
  have e : ((v.parkMe why 1).wr v.cur rd x).count r false n v.cur =
      ((v.count r false n v.cur).parkMe why 1).wr v.cur rd x := by
    have t1 : ((v.count r false n v.cur).parkMe why 1).thread v.cur = (v.parkMe why 1).thread v.cur := by cases r <;> rfl
    rw [State.wr_plain _ _ _ _ (by rw [ht]; exact hp), State.wr_plain _ _ _ _ (by rw [t1, ht]; exact hp), t1]
    split
    · cases r <;> rfl
    · cases r <;> rfl
  have g := State.park_answer hc' why rd x (by rw [State.count_me]; exact hp)
  rw [State.count_cur] at g
  rw [e, State.acquireOf_idle]
  · exact g
  · rw [ha, State.wr_plain _ _ _ _ ?_]
    · split <;> · rw [← hl]; cases r <;> rfl
    · have t1 : ((v.count r false n v.cur).parkMe why 1).thread v.cur = (v.parkMe why 1).thread v.cur := by cases r <;> rfl
      rw [t1, ht]; exact hp

theorem State.answerV_idle {v : State} (h : v.Canonical) (why : Park) (vd : Reg) (x : VWord) (a : Access)
    (ha : a.tid = v.cur) (hl : (v.cluster (clusterOf v.cur)).lines = []) (r : Option Nat) (n : Nat) :
    (v.count r false n v.cur).woken.GivesVector vd x FFlags.none 1
      (((((v.parkMe why 1).wrV v.cur vd x).count r false n v.cur).acquireOf a).complete v.cur) := by
  have hc' := State.count_canonical' h r false n v.cur
  have e : ((v.parkMe why 1).wrV v.cur vd x).count r false n v.cur =
      ((v.count r false n v.cur).parkMe why 1).wrV v.cur vd x := by cases r <;> rfl
  have g := State.park_answerV hc' why vd x
  rw [State.count_cur] at g
  rw [e, State.acquireOf_idle]
  · exact g
  · rw [ha, ← hl]; cases r <;> rfl

/-- A performed access without a register result. -/
theorem State.finish_idle {v : State} (h : v.Canonical) (why : Park) (a : Access)
    (ha : a.tid = v.cur) (hl : (v.cluster (clusterOf v.cur)).lines = []) :
    v.Completes ((v.parkMe why 1).finish a) := by
  unfold State.finish
  rw [State.acquireOf_idle, ha]
  · exact State.park_complete h why
  · rw [ha, ← hl]; rfl

/-! ### Bytes and bits at homes -/

/-- The bytes of a number made of bytes. -/
theorem natOfBytes_byte (f : Nat → Byte) (n : Nat) : ∀ k, k < n → ∀ o,
    (BitVec.ofNat (8 * n) (natOfBytes ((List.range n).map fun i => f (o + i)))).extractLsb' (8 * k) 8 = f (o + k) := by
  have lt : ∀ l : List Byte, natOfBytes l < 2 ^ (8 * l.length) := by
    intro l
    induction l with
    | nil => simp [natOfBytes]
    | cons b bs ih =>
      simp only [natOfBytes, List.length_cons]
      have := b.isLt
      have e : 2 ^ (8 * (bs.length + 1)) = 256 * 2 ^ (8 * bs.length) := by rw [Nat.mul_add, Nat.pow_add]; omega
      rw [e]; omega
  have dig : ∀ (l : List Byte) k, natOfBytes l / 2 ^ (8 * k) % 256 = ((l[k]?).getD 0).toNat := by
    intro l
    induction l with
    | nil => intro k; simp [natOfBytes]
    | cons b bs ih =>
      intro k
      cases k with
      | zero => have := b.isLt; simp [natOfBytes]; omega
      | succ k =>
        simp only [natOfBytes, List.getElem?_cons_succ]
        rw [← ih k]
        have e : 2 ^ (8 * (k + 1)) = 256 * 2 ^ (8 * k) := by rw [Nat.mul_add, Nat.pow_add]; omega
        have hb := b.isLt
        rw [e, ← Nat.div_div_eq_div_mul, Nat.add_mul_div_left _ _ (by omega), Nat.div_eq_of_lt hb, Nat.zero_add]
  intro k hk o
  apply BitVec.eq_of_toNat_eq
  have l := lt ((List.range n).map fun i => f (o + i))
  simp only [List.length_map, List.length_range] at l
  simp only [BitVec.extractLsb'_toNat, BitVec.toNat_ofNat, Nat.shiftRight_eq_div_pow, Nat.mod_eq_of_lt l]
  have := dig ((List.range n).map fun i => f (o + i)) k
  rw [show (2:Nat)^8 = 256 from rfl, this]
  simp [hk]

theorem State.loadNat_idle (s : State) (a : Access) (hg : a.got = []) :
    s.loadNat a = natOfBytes ((List.range a.size).map fun i => s.byte (a.pa + i)) := by
  simp [State.loadNat, hg]

/-- Setting or clearing the bits of several words. -/
theorem State.setFulls_marked (s : State) (h : s.Canonical) (ws : List Nat) (hw : ∀ w ∈ ws, wordOf w = w) (f : Bool) :
    s.Marked (s.setFulls f ws) ws f ∧ (s.setFulls f ws).Canonical := by
  induction ws generalizing s with
  | nil => exact ⟨⟨rfl, by simp [State.setFulls]⟩, h⟩
  | cons w ws ih =>
    have hc : (s.setFull w f).Canonical := by
      obtain ⟨a1, a2, a3, a4, a5, a6⟩ := h
      exact ⟨a1, Table.wf_set a2 _ _, a3, a4, a5, a6⟩
    obtain ⟨⟨e, k⟩, c⟩ := ih (s.setFull w f) hc (fun x hx => hw x (by simp [hx]))
    refine ⟨⟨?_, ?_⟩, c⟩
    · show (s.setFull w f).setFulls f ws = _
      rw [e]; rfl
    · intro a
      show ((s.setFull w f).setFulls f ws).full a = _
      rw [k a]
      have h2 := h.2.1
      have : (s.setFull w f).full a = if wordOf a = w then f else s.full a := by
        simp only [State.full, State.setFull]
        rw [Table.get_set h2, hw w (by simp)]
        by_cases q : wordOf a = w <;> simp [q]
      rw [this]
      by_cases q : wordOf a ∈ ws
      · simp [q]
      · simp [q]

theorem touched_word (a n : Nat) : ∀ w ∈ wordsTouched a n, wordOf w = w := by
  intro w hw
  unfold wordsTouched at hw
  split at hw
  · simp at hw
  · simp only [List.mem_map] at hw
    obtain ⟨i, -, rfl⟩ := hw
    unfold wordOf; omega

theorem State.ready_of (s : State) (ws : List Nat) (h : s.AllAre ws true) : s.ready ws .full = true := by
  simp only [State.ready, List.all_eq_true]
  intro x hx
  obtain ⟨h1, h2⟩ := h x hx
  simp [h1, h2]

theorem State.bad_of (s : State) (h : s.bad = []) (a : Nat) : s.uncorrectable a = false := by simp [State.uncorrectable, h]


/-- Beginning or ending the holds of several words. -/
theorem State.setHelds_spec (f : Bool) (ws : List Nat) : ∀ (s : State), s.Canonical → (∀ w ∈ ws, wordOf w = w) →
    s.setHelds f ws = { s with holds := (s.setHelds f ws).holds } ∧ (s.setHelds f ws).Canonical ∧
    ∀ a, (s.setHelds f ws).held a = if wordOf a ∈ ws then f else s.held a := by
  induction ws with
  | nil => intro s h _; exact ⟨rfl, h, by intro a; simp [State.setHelds]⟩
  | cons w ws ih =>
    intro s h hw
    have hc : (s.setHeld w f).Canonical := by
      obtain ⟨a1, a2, a3, a4, a5, a6⟩ := h
      exact ⟨a1, a2, Table.wf_set a3 _ _, a4, a5, a6⟩
    obtain ⟨e, c, k⟩ := ih (s.setHeld w f) hc (fun x hx => hw x (by simp [hx]))
    refine ⟨?_, c, ?_⟩
    · show (s.setHeld w f).setHelds f ws = _
      rw [e]; rfl
    · intro a
      show ((s.setHeld w f).setHelds f ws).held a = _
      rw [k a]
      have h3 := h.2.2.1
      have : (s.setHeld w f).held a = if wordOf a = w then f else s.held a := by
        simp only [State.held, State.setHeld]
        rw [Table.get_set h3, hw w (by simp)]
      rw [this]
      by_cases q : wordOf a ∈ ws <;> simp [q]

/-- Writing bytes at a home. -/
theorem State.putBytes_spec (bs : List (Option Byte)) : ∀ (s : State) (a : Nat), s.Canonical →
    (s.putBytes a bs).Canonical ∧ s.putBytes a bs = { s with mem := (s.putBytes a bs).mem } ∧
      ∀ x, (s.putBytes a bs).byte x = if a ≤ x then ((bs[x - a]?).join).getD (s.byte x) else s.byte x := by
  induction bs with
  | nil => intro s a h; exact ⟨h, rfl, by intro x; simp [State.putBytes]⟩
  | cons b bs ih =>
    intro s a h
    cases b with
    | none =>
      obtain ⟨h1, h2, h3⟩ := ih s (a + 1) h
      refine ⟨h1, h2, fun x => (h3 x).trans ?_⟩
      by_cases c : a ≤ x
      · by_cases d : a = x
        · subst d; rw [if_pos c, if_neg (by omega)]; simp
        · have e : x - a = (x - (a + 1)) + 1 := by omega
          rw [if_pos c, if_pos (by omega), e, List.getElem?_cons_succ]
      · rw [if_neg c, if_neg (by omega)]
    | some v =>
      have hc : (s.setByte a v).Canonical := by
        obtain ⟨a1, a2⟩ := h
        exact ⟨Table.wf_set a1 _ _, a2⟩
      have hb : ∀ x, (s.setByte a v).byte x = if x = a then v else s.byte x := fun x => Table.get_set h.1 _ _ _
      obtain ⟨h1, h2, h3⟩ := ih (s.setByte a v) (a + 1) hc
      refine ⟨h1, ?_, fun x => (h3 x).trans ?_⟩
      · show (s.setByte a v).putBytes (a + 1) bs = _
        rw [h2]; rfl
      · rw [hb]
        by_cases c : a ≤ x
        · by_cases d : x = a
          · subst d; rw [if_pos c, if_neg (by omega), if_pos rfl]; simp
          · have e : x - a = (x - (a + 1)) + 1 := by omega
            rw [if_pos c, if_pos (by omega), e, List.getElem?_cons_succ, if_neg d]
        · rw [if_neg c, if_neg (by omega), if_neg (by omega)]

/-- Bits stay where no word is uncorrectable and no engine writes. -/
theorem State.settleBits_idle (a : Nat) (bs : List (Option Byte)) (ws : List Nat) : ∀ (s : State), s.bad = [] →
    s.settleBits false a bs ws = s := by
  induction ws with
  | nil => intro s _; rfl
  | cons w ws ih =>
    intro s hb
    unfold State.settleBits
    simp only [State.bad_of s hb, Bool.false_and, Bool.or_self, Bool.false_eq_true, if_false]
    exact ih s hb

/-- A write at a home that no seal, no protected range and no uncorrectable word stops. -/
theorem State.writeHome_idle (s : State) (hs : s.seals = []) (hb : s.bad = []) (ctx : BitVec 12) (va : Word) (pa : Nat)
    (bs : List (Option Byte)) (hg : s.guarded pa bs.length = false) : s.writeHome false ctx va pa bs = (s.putBytes pa bs, true) := by
  have h1 : (s.seal? pa ctx) = none := by simp [State.seal?, hs]
  have h2 : s.writable pa bs = true := by simp [State.writable, hg, State.bad_of s hb]
  have h3 : ∀ (bs : List (Option Byte)) (u : State) a, u.bad = [] → (u.putBytes a bs).bad = [] := by
    intro bs
    induction bs with
    | nil => intro u a h; exact h
    | cons b bs ih => intro u a h; cases b <;> exact ih _ _ h
  simp only [State.writeHome, h1, h2, Option.isSome_none, Bool.false_eq_true, if_false, if_true]
  rw [State.settleBits_idle _ _ _ _ (h3 _ _ _ hb)]

theorem bytesOf_get (v : Nat) (n : Nat) : ∀ i, i < n → (bytesOf v n)[i]? = some (BitVec.ofNat 8 (v / 2 ^ (8 * i))) := by
  induction n generalizing v with
  | zero => intro i hi; omega
  | succ n ih =>
    intro i hi
    cases i with
    | zero => simp [bytesOf]
    | succ i =>
      simp only [bytesOf, List.getElem?_cons_succ]
      rw [ih _ _ (by omega), Nat.div_div_eq_div_mul]
      congr 3
      rw [Nat.mul_add, Nat.pow_add, Nat.mul_comm]

theorem bytesOf_length (v n : Nat) : (bytesOf v n).length = n := by
  induction n generalizing v with
  | zero => rfl
  | succ n ih => simp [bytesOf, ih]

/-- Writing the bytes of a number. -/
theorem State.putNat_byte {s : State} (h : s.Canonical) (a v n x : Nat) :
    (s.putBytes a ((bytesOf v n).map some)).byte x =
      if a ≤ x ∧ x < a + n then BitVec.ofNat 8 (v / 2 ^ (8 * (x - a))) else s.byte x := by
  rw [(State.putBytes_spec _ s a h).2.2 x]
  by_cases c : a ≤ x
  · by_cases d : x < a + n
    · rw [if_pos c, if_pos ⟨c, d⟩, List.getElem?_map, bytesOf_get _ _ _ (by omega)]
      rfl
    · have : ((bytesOf v n).map some)[x - a]? = none := by
        rw [List.getElem?_eq_none_iff, List.length_map, bytesOf_length]; omega
      rw [if_pos c, if_neg (fun q => d q.2), this]
      rfl
  · rw [if_neg c, if_neg (fun q => c q.1)]

/-! ### What an action leaves of the wait lists -/

theorem State.debit_waits (s : State) (n d : Nat) (l : Bool) : (s.debit n d l).waits = s.waits := by rw [State.debit_rest]

theorem State.complete_waits (s : State) (n : Nat) : (s.complete n).waits = s.waits := by
  unfold State.complete
  split
  · rfl
  · exact State.debit_waits _ _ _ _

theorem State.acquireOf_waits (s : State) (a : Access) : (s.acquireOf a).waits = s.waits := by
  unfold State.acquireOf State.acquire State.dropLines
  split
  · split
    · rfl
    · split <;> rfl
  · rfl

theorem State.finish_waits (s : State) (a : Access) : (s.finish a).waits = s.waits := by
  unfold State.finish
  rw [State.complete_waits, State.acquireOf_waits]

theorem State.wr_waits (s : State) (n : Nat) (rd : Reg) (v : Word) (hp : ¬(s.thread n).pushes rd) : (s.wr n rd v).waits = s.waits := by
  rw [State.wr_plain _ _ _ _ hp]
  split <;> rfl

theorem State.count_waits (s : State) (r : Option Nat) (m : Bool) (n o : Nat) : (s.count r m n o).waits = s.waits := by
  cases r <;> rfl

/-! ### A parked slot completes -/

/-- A debit reads and changes slots and dies alone. -/
theorem State.debit_congr {s t : State} (h1 : t.threads = s.threads) (h2 : t.dies = s.dies) (n d : Nat) (l : Bool) :
    (t.debit n d l).threads = (s.debit n d l).threads ∧ (t.debit n d l).dies = (s.debit n d l).dies := by
  unfold State.debit State.thread State.upd State.updDie State.setThread State.die State.thread
  simp only [h1, h2]
  split
  · exact ⟨rfl, rfl⟩
  · exact ⟨h1, h2⟩

/-- COMPLETION of a parked slot in a state whose slots are those of `s` with one slot changed by `f`. -/
theorem State.complete_wakes {s Y : State} (h : Table.wf Thread.free s.threads = true) (tid : Nat) (f : Thread → Thread) (p : Parked)
    (hl : ∀ t, (f t).leaph = t.leaph ∧ (f t).tsr = t.tsr ∧ (f t).adepth = t.adepth) (hq : (f (s.thread tid)).park = some p)
    (hY : Y.threads = (s.upd tid f).threads) (hd : Y.dies = s.dies) (hn : Y.now = s.now) :
    s.Wakes (Y.complete tid) tid p f ∧
      Y.complete tid = { Y with threads := (Y.complete tid).threads, dies := (Y.complete tid).dies } := by
  have hu := State.wf_upd h tid f
  have tY : ∀ n, Y.thread n = (s.upd tid f).thread n := by intro n; simp only [State.thread, hY]
  have ty : Y.thread tid = f (s.thread tid) := by rw [tY, State.thread_upd h, if_pos rfl]
  obtain ⟨c1, c2⟩ := State.debit_congr (s := s.upd tid f) (t := Y) hY (by rw [hd]; rfl) tid p.drops p.leapt
  obtain ⟨d1, d2⟩ := State.debit_upd h tid p.drops p.leapt f hl
  have e : Y.complete tid = (Y.debit tid p.drops p.leapt).upd tid fun t =>
      { t with park := none, pc := p.next, g6 := none, wokenAt := s.now } := by
    unfold State.complete
    rw [ty, hq]
    show (Y.debit tid p.drops p.leapt).upd tid _ = _
    rw [State.debit_rest, hn]
  have hw : Table.wf Thread.free (Y.debit tid p.drops p.leapt).threads = true := by
    rw [c1]; exact State.wf_debit hu _ _ _
  have tD : ∀ n, (Y.debit tid p.drops p.leapt).thread n = ((s.upd tid f).debit tid p.drops p.leapt).thread n := by
    intro n; simp only [State.thread, c1]
  rw [e]
  refine ⟨⟨?_, ?_, ?_⟩, ?_⟩
  · rw [State.thread_upd hw, if_pos rfl, tD, State.debit_thread hu, if_pos rfl, d2, State.thread_upd h, if_pos rfl]
  · intro n hn
    rw [State.thread_upd hw, if_neg hn, tD, State.debit_thread hu, if_neg hn, State.thread_upd h, if_neg hn]
  · exact c2.trans d1
  · rw [State.debit_rest]; rfl

/-- A put at its home that nothing stops: whole words written, full, their hold over. -/
theorem State.performPut_idle {s : State} (h : s.Canonical) (hw : s.waits = []) (hs : s.seals = []) (hb : s.bad = []) (p : Put)
    (hg : s.guarded p.pa (8 * p.words.length) = false) (hn : p.saved = none) :
    let ws := wordsTouched p.pa (8 * p.words.length)
    let t := s.performPut p
    t.Canonical ∧ t = { s with mem := t.mem, empties := t.empties, holds := t.holds } ∧
      (∀ x, t.byte x = (s.putBytes p.pa ((p.words.flatMap fun w => bytesOf w.toNat 8).map some)).byte x) ∧
      (∀ a, t.full a = if wordOf a ∈ ws then true else s.full a) ∧ ∀ a, t.held a = if wordOf a ∈ ws then false else s.held a := by
  dsimp only
  have hlen : ((p.words.flatMap fun w => bytesOf w.toNat 8).map some).length = 8 * p.words.length := by
    have : ∀ l : List Word, (l.flatMap fun w => bytesOf w.toNat 8).length = 8 * l.length := by
      intro l
      induction l with
      | nil => rfl
      | cons w l ih => simp only [List.flatMap_cons, List.length_append, ih, bytesOf_length, List.length_cons]; omega
    rw [List.length_map, this]
  have e := State.writeHome_idle s hs hb p.ctx p.va p.pa _ (hlen.symm ▸ hg)
  have tw := touched_word p.pa (8 * p.words.length)
  obtain ⟨p1, p2, -⟩ := State.putBytes_spec ((p.words.flatMap fun w => bytesOf w.toNat 8).map some) s p.pa h
  obtain ⟨⟨f1, f2⟩, f3⟩ := State.setFulls_marked _ p1 _ tw true
  obtain ⟨g1, g2, g3⟩ := State.setHelds_spec false _ _ f3 tw
  have et : s.performPut p = (((s.putBytes p.pa ((p.words.flatMap fun w => bytesOf w.toNat 8).map some)).setFulls true
      (wordsTouched p.pa (8 * p.words.length))).setHelds false (wordsTouched p.pa (8 * p.words.length))) := by
    unfold State.performPut
    simp only [e, if_true, hn]
    apply State.serveAll_idle
    show (State.drained _ []).waits = []
    simp only [State.drained]
    rw [g1, f1, p2]
    exact hw
  rw [et]
  refine ⟨g2, ?_, ?_, ?_, ?_⟩
  · rw [g1, f1, p2]
  · intro x
    rw [g1, f1]; rfl
  · intro a
    have : (((s.putBytes p.pa ((p.words.flatMap fun w => bytesOf w.toNat 8).map some)).setFulls true
      (wordsTouched p.pa (8 * p.words.length))).setHelds false (wordsTouched p.pa (8 * p.words.length))).full a =
      ((s.putBytes p.pa ((p.words.flatMap fun w => bytesOf w.toNat 8).map some)).setFulls true
      (wordsTouched p.pa (8 * p.words.length))).full a := by rw [g1]; rfl
    rw [this, f2]
    have : (s.putBytes p.pa ((p.words.flatMap fun w => bytesOf w.toNat 8).map some)).full a = s.full a := by rw [p2]; rfl
    rw [this]
  · intro a
    rw [g3]
    have : ((s.putBytes p.pa ((p.words.flatMap fun w => bytesOf w.toNat 8).map some)).setFulls true
      (wordsTouched p.pa (8 * p.words.length))).held a = s.held a := by rw [f1, p2]; rfl
    rw [this]

theorem State.readNat_bytes (s : State) (a n : Nat) : s.readNat a n = natOfBytes ((List.range n).map fun i => s.byte (a + i)) := by
  induction n generalizing a with
  | zero => rfl
  | succ n ih =>
    rw [List.range_succ_eq_map]
    simp only [State.readNat, List.map_cons, List.map_map, natOfBytes, Nat.add_zero, ih]
    congr 4
    funext i
    simp only [Function.comp_apply]
    rw [show a + 1 + i = a + (i + 1) by omega]

/-- A number is its bytes. -/
theorem eq_of_bytes {n : Nat} (x y : BitVec (8 * n)) (h : ∀ i, i < n → x.extractLsb' (8 * i) 8 = y.extractLsb' (8 * i) 8) : x = y := by
  apply BitVec.eq_of_getLsbD_eq
  intro j hj
  have := h (j / 8) (by omega)
  have hb := congrArg (fun z => z.getLsbD (j % 8)) this
  simp only [BitVec.getLsbD_extractLsb'] at hb
  have e : 8 * (j / 8) + j % 8 = j := by omega
  rw [e] at hb
  have l : decide (j % 8 < 8) = true := by simp; omega
  rw [l] at hb
  simpa using hb

/-- A word whose bytes are those of a number. -/
theorem State.word_of_bytes (s : State) (a : Nat) (v : Word) (h : ∀ i, i < 8 → s.byte (a + i) = v.extractLsb' (8 * i) 8) :
    s.word a = v := by
  unfold State.word
  rw [State.readNat_bytes]
  apply eq_of_bytes (n := 8)
  intro i hi
  exact (natOfBytes_byte s.byte 8 i hi a).trans (h i hi)

theorem ofNat_byte (v : Word) (i : Nat) : BitVec.ofNat 8 (v.toNat / 2 ^ (8 * i)) = v.extractLsb' (8 * i) 8 := by
  apply BitVec.eq_of_toNat_eq
  simp only [BitVec.extractLsb'_toNat, BitVec.toNat_ofNat, Nat.shiftRight_eq_div_pow]

end Sys2Proof.Machine
end

