-- ==== Sys2Proof/Laws/Canonical.lean ====
section
/-!
SUPPORT. Sys2Proof/Laws/Canonical.lean: the primitive updates keep the canonical form of the state; every other update is made of them.
-/
namespace Sys2Proof.Machine

/-- What a meaning answers is canonical where it is a state. -/
inductive OutCanonical : Out → Prop
  | next {t : State} (h : t.Canonical) : OutCanonical (.next t)
  | fault {r : Fault} : OutCanonical (.fault r)
  | refused {r : Refusal} : OutCanonical (.refused r)

theorem OutCanonical.of_next {o : Out} {t : State} (h : OutCanonical o) (e : o = .next t) : t.Canonical := by
  subst e
  cases h
  assumption

theorem canonical_ite {c : Prop} {_ : Decidable c} {s t : State} (h : s.Canonical) (k : t.Canonical) :
    (if c then s else t).Canonical := by split <;> assumption

theorem canonical_ite_fst {α : Type} {c : Prop} {_ : Decidable c} {s t : State × α} (h : s.1.Canonical) (k : t.1.Canonical) :
    (if c then s else t).1.Canonical := by split <;> assumption

theorem outCanonical_ite {c : Prop} {_ : Decidable c} {s t : Out} (h : OutCanonical s) (k : OutCanonical t) :
    OutCanonical (if c then s else t) := by split <;> assumption

/-- A fold of steps that each keep the canonical form keeps it. -/
theorem canonical_foldl {α : Type} (f : State → α → State) (l : List α) (s : State)
    (hf : ∀ s x, s.Canonical → (f s x).Canonical) (h : s.Canonical) : (l.foldl f s).Canonical := by
  induction l generalizing s with
  | nil => exact h
  | cons x l ih => exact ih _ (hf _ _ h)

/-- The canonical form of a state given by its fields. -/
theorem canonical_mk {x0 : Table Thread} {x1 : Table CoreSt} {x2 : Table ClusterSt} {x3 : Table DieSt} {x4 : List Host.Cell} {x5 : Table Bool} {x6 : Table Bool} {x7 : Table Bool} {x8 : List Waiter} {x9 : Table (Option Seal)} {x10 : Table (List ChanItem)} {x11 : List Msg} {x12 : List Join} {x13 : List TlbiReq} {x14 : List IcinvReq} {x15 : List KillReq} {x16 : Table (Option Ctx)} {x17 : Table Saved} {x18 : Table Region} {x19 : Word} {x20 : List MeterEvent} {x21 : Table (Option CodeEntry)} {x22 : List RamovReq} {x23 : List Word} {x24 : Table Word} {x25 : Table HostQueue} {x26 : List HostOut} {x27 : Nat} {x28 : List HostRead} {x29 : List Notify} {x30 : List Incoming} {x31 : BitVec 15} {x32 : Word} {x33 : Table Peer} {x34 : Table Stream} {x35 : List Frame} {x36 : BitVec 8} {x37 : BitVec 8} {x38 : List Turn} {x39 : Nat} {x40 : Nat} {x41 : List IWord} {x42 : Nat} :
    State.Canonical (State.mk x0 x1 x2 x3 x4 x5 x6 x7 x8 x9 x10 x11 x12 x13 x14 x15 x16 x17 x18 x19 x20 x21 x22 x23 x24 x25 x26 x27 x28 x29 x30 x31 x32 x33 x34 x35 x36 x37 x38 x39 x40 x41 x42) =
      (Memory.wf x4 = true ∧ Table.wf false x5 = true ∧ Table.wf false x7 = true ∧
        Table.wf false x6 = true ∧ Table.wf Thread.free x0 = true ∧ Table.wf CoreSt.init x1 = true ∧
        Table.wf ClusterSt.init x2 = true ∧ Table.wf DieSt.init x3 = true) := rfl

/-- The canonical form by its parts. -/
theorem canonical_fold (s : State) (h : s.Canonical) :
    Memory.wf s.mem = true ∧ Table.wf false s.empties = true ∧ Table.wf false s.holds = true ∧ Table.wf false s.bad = true ∧
      Table.wf Thread.free s.threads = true ∧ Table.wf CoreSt.init s.cores = true ∧ Table.wf ClusterSt.init s.clusters = true ∧
      Table.wf DieSt.init s.dies = true := h

theorem State.setThread_canonical (s : State) (tid : Nat) (t : Thread) (h : s.Canonical) : (s.setThread tid t).Canonical :=
  ⟨h.1, h.2.1, h.2.2.1, h.2.2.2.1, Table.wf_set h.2.2.2.2.1 _ _, h.2.2.2.2.2⟩

theorem State.updCore_canonical (s : State) (k : Nat) (f : CoreSt → CoreSt) (h : s.Canonical) : (s.updCore k f).Canonical :=
  ⟨h.1, h.2.1, h.2.2.1, h.2.2.2.1, h.2.2.2.2.1, Table.wf_set h.2.2.2.2.2.1 _ _, h.2.2.2.2.2.2⟩

theorem State.updCluster_canonical (s : State) (k : Nat) (f : ClusterSt → ClusterSt) (h : s.Canonical) :
    (s.updCluster k f).Canonical :=
  ⟨h.1, h.2.1, h.2.2.1, h.2.2.2.1, h.2.2.2.2.1, h.2.2.2.2.2.1, Table.wf_set h.2.2.2.2.2.2.1 _ _, h.2.2.2.2.2.2.2⟩

theorem State.updDie_canonical (s : State) (d : Nat) (f : DieSt → DieSt) (h : s.Canonical) : (s.updDie d f).Canonical :=
  ⟨h.1, h.2.1, h.2.2.1, h.2.2.2.1, h.2.2.2.2.1, h.2.2.2.2.2.1, h.2.2.2.2.2.2.1, Table.wf_set h.2.2.2.2.2.2.2 _ _⟩

theorem State.setByte_canonical (s : State) (a : Nat) (b : Byte) (h : s.Canonical) : (s.setByte a b).Canonical :=
  ⟨Table.wf_set h.1 _ _, h.2⟩

theorem State.setFull_canonical (s : State) (a : Nat) (f : Bool) (h : s.Canonical) : (s.setFull a f).Canonical :=
  ⟨h.1, Table.wf_set h.2.1 _ _, h.2.2⟩

theorem State.setHeld_canonical (s : State) (a : Nat) (b : Bool) (h : s.Canonical) : (s.setHeld a b).Canonical :=
  ⟨h.1, h.2.1, Table.wf_set h.2.2.1 _ _, h.2.2.2⟩

/-- A change of the error marks through the table's write. -/
theorem State.setBad_canonical (s : State) (w : Nat) (b : Bool) (h : s.Canonical) :
    State.Canonical { s with bad := Table.set false w b s.bad } :=
  ⟨h.1, h.2.1, h.2.2.1, Table.wf_set h.2.2.2.1 _ _, h.2.2.2.2⟩

/-- Dropping entries from memory and the marks. -/
theorem State.drop_canonical (s : State) (p q : Nat × Byte → Bool) (r₁ r₂ r₃ u₁ u₂ u₃ : Nat × Bool → Bool) (h : s.Canonical) :
    State.Canonical { s with
      mem := (s.mem.filter p).filter q
      empties := (s.empties.filter r₁).filter u₁
      bad := (s.bad.filter r₂).filter u₂
      holds := (s.holds.filter r₃).filter u₃ } :=
  ⟨Table.wf_filter _ (Table.wf_filter _ h.1), Table.wf_filter _ (Table.wf_filter _ h.2.1),
    Table.wf_filter _ (Table.wf_filter _ h.2.2.1), Table.wf_filter _ (Table.wf_filter _ h.2.2.2.1), h.2.2.2.2⟩

/-! ### Answers that carry a state -/

/-- The state, where there is one, is canonical. -/
inductive OptOk : Option State → Prop
  | none : OptOk none
  | some {s : State} (h : s.Canonical) : OptOk (some s)

theorem OptOk.of_some {x : Option State} {s : State} (h : OptOk x) (e : x = Option.some s) : s.Canonical := by
  subst e
  cases h
  assumption

theorem OptOk.getD {x : Option State} {s : State} (h : OptOk x) (k : s.Canonical) : (x.getD s).Canonical := by
  cases h <;> assumption

theorem OptOk.ok_ite {c : Prop} {_ : Decidable c} {x y : Option State} (h : OptOk x) (k : OptOk y) : OptOk (if c then x else y) := by
  split <;> assumption

/-- The state of the pair, where there is one, is canonical. -/
inductive OptPairOk {α : Type} : Option (State × α) → Prop
  | none : OptPairOk none
  | some {s : State} {y : α} (h : s.Canonical) : OptPairOk (some (s, y))

theorem OptPairOk.of_some {α : Type} {x : Option (State × α)} {s : State} {y : α} (h : OptPairOk x) (e : x = Option.some (s, y)) :
    s.Canonical := by
  subst e
  cases h
  assumption

theorem OptPairOk.ok_ite {α : Type} {c : Prop} {_ : Decidable c} {x y : Option (State × α)} (h : OptPairOk x) (k : OptPairOk y) :
    OptPairOk (if c then x else y) := by
  split <;> assumption


/-- The state that the answer carries is canonical. -/
inductive Acted.Ok : Acted → Prop
  | done {n} {s : State} (h : s.Canonical) : Acted.Ok (.done s n)
  | help {n} {w} {s : State} (h : s.Canonical) : Acted.Ok (.help n w s)
  | phase {p} {n} {s : State} (h : s.Canonical) : Acted.Ok (.phase p s n)
  | wait {n} {w}  : Acted.Ok (.wait n w)
  | park {n} {w}  : Acted.Ok (.park n w)
  | sweep {n}  : Acted.Ok (.sweep n)
  | trap {c} {a}  : Acted.Ok (.trap c a)

theorem Acted.of_done {x : Acted} {s : State} {n} (h : x.Ok) (e : x = .done s n) : s.Canonical := by subst e; cases h; assumption

theorem Acted.of_help {x : Acted} {s : State} {n} {w} (h : x.Ok) (e : x = .help n w s) : s.Canonical := by subst e; cases h; assumption

theorem Acted.of_phase {x : Acted} {s : State} {p} {n} (h : x.Ok) (e : x = .phase p s n) : s.Canonical := by subst e; cases h; assumption

/-- The state that the answer carries is canonical. -/
inductive GotRec.Ok : GotRec → Prop
  | ok {ws} {r} {s : State} (h : s.Canonical) : GotRec.Ok (.ok ws r s)
  | trap {c} {a} {i} {s : State} (h : s.Canonical) : GotRec.Ok (.trap c a i s)
  | wait {s : State} (h : s.Canonical) : GotRec.Ok (.wait s)

theorem GotRec.of_ok {x : GotRec} {s : State} {ws} {r} (h : x.Ok) (e : x = .ok ws r s) : s.Canonical := by subst e; cases h; assumption

theorem GotRec.of_trap {x : GotRec} {s : State} {c} {a} {i} (h : x.Ok) (e : x = .trap c a i s) : s.Canonical := by subst e; cases h; assumption

theorem GotRec.of_wait {x : GotRec} {s : State}  (h : x.Ok) (e : x = .wait s) : s.Canonical := by subst e; cases h; assumption

/-- The state that the answer carries is canonical. -/
inductive Suspended.Ok : Suspended → Prop
  | ok {s : State} (h : s.Canonical) : Suspended.Ok (.ok s)
  | failed {a} {s : State} (h : s.Canonical) : Suspended.Ok (.failed s a)

theorem Suspended.of_ok {x : Suspended} {s : State} (h : x.Ok) (e : x = .ok s) : s.Canonical := by subst e; cases h; assumption

theorem Suspended.of_failed {x : Suspended} {s : State} {a} (h : x.Ok) (e : x = .failed s a) : s.Canonical := by subst e; cases h; assumption

/-- The state that the answer carries is canonical. -/
inductive FetchOne.Ok : FetchOne → Prop
  | word {w} {s : State} (h : s.Canonical) : FetchOne.Ok (.word w s)
  | trap {c} {a}  : FetchOne.Ok (.trap c a)

theorem FetchOne.of_word {x : FetchOne} {s : State} {w} (h : x.Ok) (e : x = .word w s) : s.Canonical := by subst e; cases h; assumption

/-- The state that the answer carries is canonical. -/
inductive Fetched.Ok : Fetched → Prop
  | ok {i} {ws} {s : State} (h : s.Canonical) : Fetched.Ok (.ok i ws s)
  | bad {e}  : Fetched.Ok (.bad e)
  | trap {c} {a}  : Fetched.Ok (.trap c a)

theorem Fetched.of_ok {x : Fetched} {s : State} {i} {ws} (h : x.Ok) (e : x = .ok i ws s) : s.Canonical := by subst e; cases h; assumption

/-- The state that the answer carries is canonical. -/
inductive Prepared.Ok : Prepared → Prop
  | done {s : State} (h : s.Canonical) : Prepared.Ok (.done s)
  | run {i} {s : State} (h : s.Canonical) : Prepared.Ok (.run i s)

theorem Prepared.of_done {x : Prepared} {s : State}  (h : x.Ok) (e : x = .done s) : s.Canonical := by subst e; cases h; assumption

theorem Prepared.of_run {x : Prepared} {s : State} {i} (h : x.Ok) (e : x = .run i s) : s.Canonical := by subst e; cases h; assumption

theorem Acted.ok_ite {c : Prop} {_ : Decidable c} {x y : Acted} (h : x.Ok) (k : y.Ok) : (if c then x else y).Ok := by split <;> assumption

theorem GotRec.ok_ite {c : Prop} {_ : Decidable c} {x y : GotRec} (h : x.Ok) (k : y.Ok) : (if c then x else y).Ok := by split <;> assumption

theorem Suspended.ok_ite {c : Prop} {_ : Decidable c} {x y : Suspended} (h : x.Ok) (k : y.Ok) : (if c then x else y).Ok := by split <;> assumption

theorem FetchOne.ok_ite {c : Prop} {_ : Decidable c} {x y : FetchOne} (h : x.Ok) (k : y.Ok) : (if c then x else y).Ok := by split <;> assumption

theorem Fetched.ok_ite {c : Prop} {_ : Decidable c} {x y : Fetched} (h : x.Ok) (k : y.Ok) : (if c then x else y).Ok := by split <;> assumption

theorem Prepared.ok_ite {c : Prop} {_ : Decidable c} {x y : Prepared} (h : x.Ok) (k : y.Ok) : (if c then x else y).Ok := by split <;> assumption

end Sys2Proof.Machine
end

