-- ==== Sys2Proof/Laws/CanonOps.lean ====
section
/-!
SUPPORT. Sys2Proof/Laws/CanonOps.lean: each operation of Machine/Ops.lean keeps the canonical form of the state.
-/
namespace Sys2Proof.Machine

theorem State.upd_canonical (s : State) (tid : Nat) (f : Thread → Thread) (hs : s.Canonical) : (State.upd s tid f).Canonical := by
  unfold State.upd
  try dsimp only
  with_reducible
    repeat' first
      | assumption | apply State.setThread_canonical

theorem State.updMe_canonical (s : State) (f : Thread → Thread) (hs : s.Canonical) : (State.updMe s f).Canonical := by
  unfold State.updMe
  try dsimp only
  with_reducible
    repeat' first
      | assumption | apply State.upd_canonical

theorem State.updHwq_canonical (s : State) (core : Nat) (q : Nat) (f : HwQueue → HwQueue) (hs : s.Canonical) : (State.updHwq s core q f).Canonical := by
  unfold State.updHwq
  try dsimp only
  with_reducible
    repeat' first
      | assumption | apply State.updCore_canonical

theorem State.wake_canonical (s : State) (tid : Nat) (hs : s.Canonical) : (State.wake s tid).Canonical := by
  unfold State.wake
  try dsimp only
  with_reducible
    repeat' first
      | assumption | apply State.upd_canonical | split

theorem wakeHw_canonical (q : Nat) (s : State) (words : Nat) (places : Nat) (z : List HwWait) (hs : s.Canonical) : (wakeHw q s words places z).Canonical := by
  induction z generalizing q s words places with
  | nil =>
    unfold wakeHw
    try dsimp only
    with_reducible
      repeat' first
        | apply canonical_ite | assumption
  | cons z0 zr ih =>
    unfold wakeHw
    try dsimp only
    with_reducible
      repeat' first
        | apply ih | apply canonical_ite | assumption | apply State.wake_canonical

theorem State.relieveHw_canonical (s : State) (core : Nat) (q : Nat) (hs : s.Canonical) : (State.relieveHw s core q).Canonical := by
  unfold State.relieveHw
  try dsimp only
  with_reducible
    repeat' first
      | assumption | apply wakeHw_canonical

theorem State.leaveHw_canonical (s : State) (tid : Nat) (hs : s.Canonical) : (State.leaveHw s tid).Canonical := by
  unfold State.leaveHw
  try dsimp only
  with_reducible
    repeat' first
      | apply canonical_ite | assumption | apply State.relieveHw_canonical | apply State.updCore_canonical
      | apply canonical_foldl | (intro _ _ _)

theorem State.wr_canonical (s : State) (tid : Nat) (r : Reg) (v : Word) (hs : s.Canonical) : (State.wr s tid r v).Canonical := by
  unfold State.wr
  try dsimp only
  with_reducible
    repeat' first
      | apply canonical_ite | assumption | apply State.relieveHw_canonical | apply State.updHwq_canonical
      | apply State.upd_canonical

theorem State.wrV_canonical (s : State) (tid : Nat) (r : Reg) (v : VWord) (hs : s.Canonical) : (State.wrV s tid r v).Canonical := by
  unfold State.wrV
  try dsimp only
  with_reducible
    repeat' first
      | assumption | apply State.upd_canonical

theorem State.unclaim_canonical (s : State) (tid : Nat) (hs : s.Canonical) : (State.unclaim s tid).Canonical := by
  unfold State.unclaim
  try dsimp only
  with_reducible
    repeat' first
      | assumption | apply State.relieveHw_canonical | apply State.updHwq_canonical | apply State.upd_canonical | split

theorem State.goto_canonical (s : State) (pc : Word) (hs : s.Canonical) : (State.goto s pc).Canonical := by
  unfold State.goto
  try dsimp only
  with_reducible
    repeat' first
      | assumption | apply State.updMe_canonical

theorem State.post_canonical (s : State) (m : Msg) (hs : s.Canonical) : (State.post s m).Canonical := by
  unfold State.post
  try dsimp only
  with_reducible
    repeat' first
      | assumption | (simp only [canonical_mk]; apply canonical_fold)

theorem State.tellSup_canonical (s : State) (die : Nat) (status : Nat) (a : Word) (b : Word) (c : Word) (d : Word) (hs : s.Canonical) : (State.tellSup s die status a b c d).Canonical := by
  unfold State.tellSup
  try dsimp only
  with_reducible
    repeat' first
      | apply canonical_ite | assumption | apply State.post_canonical | apply State.updDie_canonical

theorem State.stopSlot_canonical (s : State) (tid : Nat) (cause : Nat) (hs : s.Canonical) : (State.stopSlot s tid cause).Canonical := by
  unfold State.stopSlot
  try dsimp only
  with_reducible
    repeat' first
      | assumption | apply State.upd_canonical | apply State.tellSup_canonical

theorem State.deliverSup_canonical (s : State) (tid : Nat) (tr : Trap) (hs : s.Canonical) : (State.deliverSup s tid tr).Canonical := by
  unfold State.deliverSup
  try dsimp only
  with_reducible
    repeat' first
      | apply canonical_ite | assumption | apply State.stopSlot_canonical | apply State.upd_canonical

theorem State.deliverUser_canonical (s : State) (tid : Nat) (tr : Trap) (hs : s.Canonical) : (State.deliverUser s tid tr).Canonical := by
  unfold State.deliverUser
  try dsimp only
  with_reducible
    repeat' first
      | assumption | apply State.deliverSup_canonical | apply State.upd_canonical | split

theorem State.deliver_canonical (s : State) (tid : Nat) (tr : Trap) (hs : s.Canonical) : (State.deliver s tid tr).Canonical := by
  unfold State.deliver
  try dsimp only
  with_reducible
    repeat' first
      | apply canonical_ite | assumption | apply State.leaveHw_canonical | apply State.unclaim_canonical
      | apply State.deliverUser_canonical | apply State.deliverSup_canonical

theorem State.trap_canonical (s : State) (cause : Nat) (addr : Word) (info : Nat) (hs : s.Canonical) : (State.trap s cause addr info).Canonical := by
  unfold State.trap
  try dsimp only
  with_reducible
    repeat' first
      | assumption | apply State.deliver_canonical

theorem State.trapOf_canonical (s : State) (tid : Nat) (cause : Nat) (addr : Word) (info : Nat) (hs : s.Canonical) : (State.trapOf s tid cause addr info).Canonical := by
  unfold State.trapOf
  try dsimp only
  with_reducible
    repeat' first
      | assumption | apply State.deliver_canonical

theorem State.illegal_canonical (s : State) (cause : Nat) (hs : s.Canonical) : (State.illegal s cause).Canonical := by
  unfold State.illegal
  try dsimp only
  with_reducible
    repeat' first
      | assumption | apply State.trap_canonical

theorem State.leapTrap_canonical (s : State) (tid : Nat) (cause : Nat) (units : Nat) (hs : s.Canonical) : (State.leapTrap s tid cause units).Canonical := by
  unfold State.leapTrap
  try dsimp only
  with_reducible
    repeat' first
      | apply canonical_ite | assumption | apply State.upd_canonical | apply State.deliver_canonical

theorem State.debit_canonical (s : State) (tid : Nat) (drops : Nat) (leapt : Bool) (hs : s.Canonical) : (State.debit s tid drops leapt).Canonical := by
  unfold State.debit
  try dsimp only
  with_reducible
    repeat' first
      | apply canonical_ite | assumption | apply State.upd_canonical | apply State.updDie_canonical

theorem State.retire_canonical (s : State) (drops : Nat) (hs : s.Canonical) : (State.retire s drops).Canonical := by
  unfold State.retire
  try dsimp only
  with_reducible
    repeat' first
      | assumption | apply State.goto_canonical | apply State.debit_canonical

theorem State.complete_canonical (s : State) (tid : Nat) (hs : s.Canonical) : (State.complete s tid).Canonical := by
  unfold State.complete
  try dsimp only
  with_reducible
    repeat' first
      | assumption | apply State.debit_canonical | apply State.upd_canonical | split

theorem State.parkMe_canonical (s : State) (why : Park) (drops : Nat) (hs : s.Canonical) : (State.parkMe s why drops).Canonical := by
  unfold State.parkMe
  try dsimp only
  with_reducible
    repeat' first
      | assumption | apply State.updMe_canonical

theorem State.parkAgain_canonical (s : State) (why : Park) (hs : s.Canonical) : (State.parkAgain s why).Canonical := by
  unfold State.parkAgain
  try dsimp only
  with_reducible
    repeat' first
      | assumption | apply State.parkMe_canonical | apply State.unclaim_canonical

theorem State.finishRet_canonical (s : State) (tid : Nat) (target : Word) (how : RetKind) (hs : s.Canonical) : (State.finishRet s tid target how).Canonical := by
  unfold State.finishRet
  try dsimp only
  with_reducible
    repeat' first
      | assumption | apply State.upd_canonical

theorem State.ret_canonical (s : State) (target : Word) (how : RetKind) (hs : s.Canonical) : (State.ret s target how).Canonical := by
  unfold State.ret
  try dsimp only
  with_reducible
    repeat' first
      | assumption | apply State.trap_canonical | apply State.parkMe_canonical | apply State.finishRet_canonical | split

theorem State.finishCall_canonical (s : State) (tid : Nat) (next : Word) (target : Word) (hs : s.Canonical) : (State.finishCall s tid next target).Canonical := by
  unfold State.finishCall
  try dsimp only
  with_reducible
    repeat' first
      | assumption | apply State.upd_canonical

theorem State.call_canonical (s : State) (target : Word) (hs : s.Canonical) : (State.call s target).Canonical := by
  unfold State.call
  try dsimp only
  with_reducible
    repeat' first
      | assumption | apply State.trap_canonical | apply State.parkMe_canonical | apply State.finishCall_canonical | split

end Sys2Proof.Machine
end

