-- ==== Sys2Proof/Laws/CanonMemory.lean ====
section
/-!
SUPPORT. Sys2Proof/Laws/CanonMemory.lean: each operation of Machine/Memory.lean keeps the canonical form of the state.
-/
namespace Sys2Proof.Machine

theorem State.putBytes_canonical (s : State) (a : Nat) (z : List (Option Byte)) (hs : s.Canonical) : (State.putBytes s a z).Canonical := by
  induction z generalizing s a with
  | nil => exact hs
  | cons b z ih =>
    cases b with
    | none => exact ih _ _ hs
    | some b => exact ih _ _ (State.setByte_canonical _ _ _ hs)

theorem State.setWord_canonical (s : State) (a : Nat) (v : Word) (hs : s.Canonical) : (State.setWord s a v).Canonical := by
  unfold State.setWord
  try dsimp only
  with_reducible
    repeat' first
      | assumption | apply State.putBytes_canonical

theorem State.noteBad_canonical (s : State) (a : Nat) (n : Nat) (hs : s.Canonical) : (State.noteBad s a n).Canonical := by
  unfold State.noteBad
  try dsimp only
  with_reducible
    repeat' first
      | assumption | apply State.updDie_canonical | split

theorem State.addLoss_canonical (s : State) (pa : Nat) (ctx : BitVec 12) (va : Word) (hs : s.Canonical) : (State.addLoss s pa ctx va).Canonical := by
  unfold State.addLoss
  try dsimp only
  with_reducible
    repeat' first
      | assumption | (simp only [canonical_mk]; apply canonical_fold)

theorem State.settleBits_canonical (s : State) (engine : Bool) (a : Nat) (bs : List (Option Byte)) (z : List Nat) (hs : s.Canonical) : (State.settleBits s engine a bs z).Canonical := by
  induction z generalizing s engine a bs with
  | nil =>
    unfold State.settleBits
    try dsimp only
    with_reducible
      repeat' first
        | apply canonical_ite | assumption | apply canonical_foldl
  | cons z0 zr ih =>
    unfold State.settleBits
    try dsimp only
    with_reducible
      repeat' first
        | apply ih | apply canonical_ite | assumption | apply State.setFull_canonical | apply State.setBad_canonical

theorem State.writeHome_canonical (s : State) (engine : Bool) (ctx : BitVec 12) (va : Word) (pa : Nat) (bs : List (Option Byte)) (hs : s.Canonical) : (State.writeHome s engine ctx va pa bs).1.Canonical := by
  unfold State.writeHome
  try dsimp only
  with_reducible
    repeat' first
      | apply canonical_ite_fst | assumption | apply State.addLoss_canonical | apply State.settleBits_canonical
      | apply State.putBytes_canonical | apply State.noteBad_canonical

theorem State.writeHome_canonical_eq {s : State} {engine : Bool} {ctx : BitVec 12} {va : Word} {pa : Nat} {bs : List (Option Byte)} (hs : s.Canonical) {s1 : State} {y : _} (heqn : State.writeHome s engine ctx va pa bs = (s1, y)) : s1.Canonical := by
  have := State.writeHome_canonical s engine ctx va pa bs hs
  rw [heqn] at this
  exact this

theorem State.devWord_canonical (s : State) (ctx : BitVec 12) (va : Word) (a : Nat) (v : Word) (hs : s.Canonical) : (State.devWord s ctx va a v).Canonical := by
  unfold State.devWord
  try dsimp only
  with_reducible
    repeat' first
      | apply canonical_ite | assumption | apply State.addLoss_canonical | apply State.setWord_canonical
      | apply State.settleBits_canonical

end Sys2Proof.Machine
end

