-- ==== Sys2Proof/Laws/CanonOperands.lean ====
section
/-!
SUPPORT. Sys2Proof/Laws/CanonOperands.lean: each operation of Machine/Operands.lean keeps the canonical form of the state.
-/
namespace Sys2Proof.Machine

theorem State.result_canonical (s : State) (rd : Reg) (v : Word) (drops : Nat) (hs : s.Canonical) : (State.result s rd v drops).Canonical := by
  unfold State.result
  try dsimp only
  with_reducible
    repeat' first
      | assumption | apply State.retire_canonical | apply State.wr_canonical

theorem State.resultV_canonical (s : State) (vd : Reg) (v : VWord) (drops : Nat) (hs : s.Canonical) : (State.resultV s vd v drops).Canonical := by
  unfold State.resultV
  try dsimp only
  with_reducible
    repeat' first
      | assumption | apply State.retire_canonical | apply State.wrV_canonical

theorem State.alu_canonical (s : State) (f : Word → Word → Word) (a : Reg) (b : Reg) (r : Option RPfx) (hs : s.Canonical) : (State.alu s f a b r).Canonical := by
  unfold State.alu
  try dsimp only
  with_reducible
    repeat' first
      | assumption | apply State.result_canonical

theorem State.aluImm_canonical (s : State) (f : Word → Word) (a : Reg) (r : Option RPfx) (hs : s.Canonical) : (State.aluImm s f a r).Canonical := by
  unfold State.aluImm
  try dsimp only
  with_reducible
    repeat' first
      | assumption | apply State.result_canonical

theorem State.unary_canonical (s : State) (f : Word → Word) (a : Reg) (b : Reg) (hs : s.Canonical) : (State.unary s f a b).Canonical := by
  unfold State.unary
  try dsimp only
  with_reducible
    repeat' first
      | assumption | apply State.result_canonical

theorem State.wrQuad_canonical (s : State) (tid : Nat) (a : Reg) (v : Vector Word 4) (hs : s.Canonical) : (State.wrQuad s tid a v).Canonical := by
  unfold State.wrQuad
  try dsimp only
  with_reducible
    repeat' first
      | assumption | apply State.wr_canonical

theorem State.illegalType_canonical (s : State) (r : Option RPfx) (hs : s.Canonical) : (State.illegalType s r).Canonical := by
  unfold State.illegalType
  try dsimp only
  with_reducible
    repeat' first
      | assumption | apply State.trap_canonical

theorem State.privileged_canonical (s : State) (k : Out) (hs : s.Canonical) (hk : OutCanonical k) : OutCanonical (State.privileged s k) := by
  unfold State.privileged
  try dsimp only
  with_reducible
    repeat' first
      | apply outCanonical_ite | assumption | apply State.illegal_canonical | apply OutCanonical.next

end Sys2Proof.Machine
end

