-- ==== Sys2Proof/Laws/CanonSpecial.lean ====
section
/-!
SUPPORT. Sys2Proof/Laws/CanonSpecial.lean: each operation of Machine/Special.lean keeps the canonical form of the state.
-/
namespace Sys2Proof.Machine

theorem State.clearCyc_canonical (s : State) (core : Nat) (hs : s.Canonical) : (State.clearCyc s core).Canonical := by
  unfold State.clearCyc
  try dsimp only
  with_reducible
    repeat' first
      | assumption | apply State.updCore_canonical

theorem execRds_canonical (a : Reg) (b : Reg) (s : State) (hs : s.Canonical) : OutCanonical (execRds a b s) := by
  unfold execRds
  try dsimp only
  with_reducible
    repeat' first
      | assumption | apply State.result_canonical | apply OutCanonical.next

theorem execWrs_canonical (a : Reg) (b : Reg) (s : State) (hs : s.Canonical) : OutCanonical (execWrs a b s) := by
  unfold execWrs
  try dsimp only
  with_reducible
    repeat' first
      | apply canonical_ite | assumption | apply State.illegal_canonical | apply State.trap_canonical
      | apply State.retire_canonical | apply State.updMe_canonical | apply OutCanonical.next

theorem State.request_canonical (s : State) (cause : Nat) (code : Nat) (hs : s.Canonical) : (State.request s cause code).Canonical := by
  unfold State.request
  try dsimp only
  with_reducible
    repeat' first
      | assumption | apply State.deliver_canonical

theorem execBrk_canonical (a : Reg) (b : Reg) (is : IPfx) (s : State) (hs : s.Canonical) : OutCanonical (execBrk a b is s) := by
  unfold execBrk
  try dsimp only
  with_reducible
    repeat' first
      | assumption | apply State.request_canonical | apply OutCanonical.next

theorem execSvc_canonical (a : Reg) (b : Reg) (is : IPfx) (s : State) (hs : s.Canonical) : OutCanonical (execSvc a b is s) := by
  unfold execSvc
  try dsimp only
  with_reducible
    repeat' first
      | assumption | apply State.request_canonical | apply OutCanonical.next

end Sys2Proof.Machine
end

