-- ==== Sys2Proof/Laws/CanonTranslate.lean ====
section
/-!
SUPPORT. Sys2Proof/Laws/CanonTranslate.lean: each operation of Machine/Translate.lean keeps the canonical form of the state.
-/
namespace Sys2Proof.Machine

theorem State.note14_canonical (s : State) (tid : Nat) (c : Ctx) (cause : Nat) (va : Word) (n : Nat) (hs : s.Canonical) : (State.note14 s tid c cause va n).Canonical := by
  unfold State.note14
  try dsimp only
  with_reducible
    repeat' first
      | assumption | apply State.noteBad_canonical | split

end Sys2Proof.Machine
end

