-- ==== Sys2Proof/Laws/CanonMeter.lean ====
section
/-!
SUPPORT. Sys2Proof/Laws/CanonMeter.lean: each operation of Machine/Meter.lean keeps the canonical form of the state.
-/
namespace Sys2Proof.Machine

theorem State.updRegion_canonical (s : State) (id : Nat) (f : Region → Region) (hs : s.Canonical) : (State.updRegion s id f).Canonical := by
  unfold State.updRegion
  try dsimp only
  with_reducible
    repeat' first
      | assumption | (simp only [canonical_mk]; apply canonical_fold)

theorem State.freeWords_canonical (s : State) (n : Nat) (hs : s.Canonical) : (State.freeWords s n).1.Canonical := by
  unfold State.freeWords
  try dsimp only
  with_reducible
    repeat' first
      | assumption | (simp only [canonical_mk]; apply canonical_fold)

theorem State.freeWords_canonical_eq {s : State} {n : Nat} (hs : s.Canonical) {s1 : State} {y : _} (heqn : State.freeWords s n = (s1, y)) : s1.Canonical := by
  have := State.freeWords_canonical s n hs
  rw [heqn] at this
  exact this

theorem State.sign_canonical (s : State) (id : Nat) (kind : Nat) (who : Option Ctx) (nonce : List Word) (hs : s.Canonical) : (State.sign s id kind who nonce).Canonical := by
  unfold State.sign
  try dsimp only
  with_reducible
    repeat' first
      | assumption | apply State.updRegion_canonical | (simp only [canonical_mk]; apply canonical_fold)

theorem State.checkpoint_canonical (s : State) (id : Nat) (hs : s.Canonical) : (State.checkpoint s id).Canonical := by
  unfold State.checkpoint
  try dsimp only
  with_reducible
    repeat' first
      | assumption | apply State.updRegion_canonical | apply State.sign_canonical

theorem State.count_canonical (s : State) (region : Option Nat) (macs : Bool) (amount : Nat) (owner : Nat) (hs : s.Canonical) : (State.count s region macs amount owner).Canonical := by
  unfold State.count
  try dsimp only
  with_reducible
    repeat' first
      | assumption | split | (simp only [canonical_mk]; apply canonical_fold)

theorem State.applyEvent_canonical (s : State) (e : MeterEvent) (hs : s.Canonical) : (State.applyEvent s e).Canonical := by
  unfold State.applyEvent
  try dsimp only
  with_reducible
    repeat' first
      | apply canonical_ite | assumption | apply State.updRegion_canonical | apply State.checkpoint_canonical

theorem State.applyWhere_canonical (s : State) (p : MeterEvent → Bool) (hs : s.Canonical) : (State.applyWhere s p).Canonical := by
  unfold State.applyWhere
  try dsimp only
  with_reducible
    repeat' first
      | assumption | apply State.applyEvent_canonical | apply canonical_foldl
      | (simp only [canonical_mk]; apply canonical_fold)

theorem State.applyOf_canonical (s : State) (owner : Nat) (hs : s.Canonical) : (State.applyOf s owner).Canonical := by
  unfold State.applyOf
  try dsimp only
  with_reducible
    repeat' first
      | assumption | apply State.applyWhere_canonical

end Sys2Proof.Machine
end

