-- ==== Sys2Proof/Laws/CanonHomes.lean ====
section
/-!
SUPPORT. Sys2Proof/Laws/CanonHomes.lean: each operation of Machine/Homes.lean keeps the canonical form of the state.
-/
namespace Sys2Proof.Machine

theorem State.setFulls_canonical (s : State) (f : Bool) (z : List Nat) (hs : s.Canonical) : (State.setFulls s f z).Canonical := by
  induction z generalizing s f with
  | nil =>
    unfold State.setFulls
    try dsimp only
    with_reducible
      repeat' first
        | apply canonical_ite | assumption
  | cons z0 zr ih =>
    unfold State.setFulls
    try dsimp only
    with_reducible
      repeat' first
        | apply ih | assumption | apply State.setFull_canonical

theorem State.setHelds_canonical (s : State) (h : Bool) (z : List Nat) (hs : s.Canonical) : (State.setHelds s h z).Canonical := by
  induction z generalizing s h with
  | nil =>
    unfold State.setHelds
    try dsimp only
    with_reducible
      repeat' first
        | apply canonical_ite | assumption
  | cons z0 zr ih =>
    unfold State.setHelds
    try dsimp only
    with_reducible
      repeat' first
        | apply ih | assumption | apply State.setHeld_canonical

theorem State.dropLines_canonical (s : State) (cluster : Nat) (hs : s.Canonical) : (State.dropLines s cluster).Canonical := by
  unfold State.dropLines
  try dsimp only
  with_reducible
    repeat' first
      | apply canonical_ite | assumption | apply State.updCluster_canonical

theorem State.dropAt_canonical (s : State) (cluster : Nat) (ws : List Nat) (hs : s.Canonical) : (State.dropAt s cluster ws).Canonical := by
  unfold State.dropAt
  try dsimp only
  with_reducible
    repeat' first
      | apply canonical_ite | assumption | apply State.updCluster_canonical

theorem State.acquire_canonical (s : State) (tid : Nat) (scope : Nat) (hs : s.Canonical) : (State.acquire s tid scope).Canonical := by
  unfold State.acquire
  try dsimp only
  with_reducible
    repeat' first
      | apply canonical_ite | assumption | apply State.dropLines_canonical

theorem State.acquireOf_canonical (s : State) (a : Access) (hs : s.Canonical) : (State.acquireOf s a).Canonical := by
  unfold State.acquireOf
  try dsimp only
  with_reducible
    repeat' first
      | assumption | apply State.acquire_canonical | split

theorem State.drained_canonical (s : State) (z : List Nat) (hs : s.Canonical) : (State.drained s z).Canonical := by
  induction z generalizing s with
  | nil =>
    unfold State.drained
    try dsimp only
    with_reducible
      repeat' first
        | apply canonical_ite | assumption
  | cons z0 zr ih =>
    unfold State.drained
    try dsimp only
    with_reducible
      repeat' first
        | apply ih | apply canonical_ite | assumption | apply State.devWord_canonical

theorem State.answer_canonical (s : State) (a : Access) (rd : Reg) (v : Word) (hs : s.Canonical) : (State.answer s a rd v).Canonical := by
  unfold State.answer
  try dsimp only
  with_reducible
    repeat' first
      | assumption | apply State.complete_canonical | apply State.acquireOf_canonical | apply State.count_canonical
      | apply State.wr_canonical

theorem State.finish_canonical (s : State) (a : Access) (hs : s.Canonical) : (State.finish s a).Canonical := by
  unfold State.finish
  try dsimp only
  with_reducible
    repeat' first
      | assumption | apply State.complete_canonical | apply State.acquireOf_canonical

theorem State.setWordFull_canonical (s : State) (a : Nat) (v : Word) (hs : s.Canonical) : (State.setWordFull s a v).Canonical := by
  unfold State.setWordFull
  try dsimp only
  with_reducible
    repeat' first
      | assumption | apply State.setFull_canonical | apply State.setWord_canonical

theorem State.barrierAdvance_canonical (s : State) (c : Nat) (hs : s.Canonical) : (State.barrierAdvance s c).Canonical := by
  unfold State.barrierAdvance
  try dsimp only
  with_reducible
    repeat' first
      | assumption | apply State.setWord_canonical

theorem State.barWake_canonical (s : State) (z : List (Nat × Access × Word)) (hs : s.Canonical) : (State.barWake s z).Canonical := by
  induction z generalizing s with
  | nil =>
    unfold State.barWake
    try dsimp only
    with_reducible
      repeat' first
        | apply canonical_ite | assumption | apply State.upd_canonical | apply State.complete_canonical
        | apply State.acquireOf_canonical | (intro _)
  | cons z0 zr ih =>
    unfold State.barWake
    try dsimp only
    with_reducible
      repeat' first
        | apply ih | assumption | apply State.upd_canonical | apply State.complete_canonical
        | apply State.acquireOf_canonical | apply State.wr_canonical | split

theorem State.barrierCredit_canonical (s : State) (c : Nat) (n : Nat) (hs : s.Canonical) : (State.barrierCredit s c n).Canonical := by
  unfold State.barrierCredit
  try dsimp only
  with_reducible
    repeat' first
      | apply canonical_ite | assumption | apply State.setWord_canonical | apply State.barrierAdvance_canonical
      | apply State.barWake_canonical

theorem State.contribute_canonical (s : State) (c : Nat) (x : FVal) (hs : s.Canonical) : (State.contribute s c x).Canonical := by
  unfold State.contribute
  try dsimp only
  with_reducible
    repeat' first
      | apply canonical_ite | assumption | apply State.setWord_canonical

theorem State.actOn_canonical (s : State) (a : Access) (hs : s.Canonical) : Sys2Proof.Machine.Acted.Ok (State.actOn s a) := by
  unfold State.actOn
  try dsimp only
  with_reducible
    repeat' first
      | apply Acted.Ok.done | apply Acted.Ok.help | apply Acted.Ok.phase | apply Acted.Ok.wait | apply Acted.Ok.park
      | apply Acted.Ok.sweep | apply Acted.Ok.trap | assumption | apply State.setFulls_canonical
      | apply State.answer_canonical | apply State.complete_canonical | apply State.acquireOf_canonical
      | apply State.count_canonical | apply State.wrV_canonical | apply State.writeHome_canonical
      | apply State.finish_canonical | apply State.setHelds_canonical | apply State.upd_canonical
      | apply State.addLoss_canonical | apply State.setFull_canonical | apply State.setWord_canonical
      | apply State.settleBits_canonical | apply State.setWordFull_canonical | apply State.wr_canonical
      | apply State.barWake_canonical | apply State.barrierAdvance_canonical | split

theorem State.act_canonical (s : State) (a : Access) (hs : s.Canonical) : Sys2Proof.Machine.Acted.Ok (State.act s a) := by
  unfold State.act
  try dsimp only
  with_reducible
    repeat' first
      | apply Acted.ok_ite | apply Acted.Ok.trap | assumption | apply State.actOn_canonical

theorem State.grantJoin_canonical (s : State) (n : Nat) (w : Nat) (hs : s.Canonical) : (State.grantJoin s n w).Canonical := by
  unfold State.grantJoin
  try dsimp only
  with_reducible
    repeat' first
      | assumption | apply State.tellSup_canonical | apply State.noteBad_canonical | apply State.setHeld_canonical
      | apply State.setFull_canonical | split | (simp only [canonical_mk]; apply canonical_fold)

theorem State.accessTrap_canonical (s : State) (a : Access) (cause : Nat) (addr : Word) (hs : s.Canonical) : (State.accessTrap s a cause addr).Canonical := by
  unfold State.accessTrap
  try dsimp only
  with_reducible
    repeat' first
      | apply canonical_ite | assumption | apply State.addLoss_canonical | apply State.trapOf_canonical
      | apply State.noteBad_canonical

theorem State.serve_canonical (s : State) (z : Nat) (z2 : List Nat) (hs : s.Canonical) : (State.serve s z z2).Canonical := by
  induction z generalizing s z2 with
  | zero =>
    unfold State.serve
    try dsimp only
    with_reducible
      repeat' first
        | apply canonical_ite | assumption | apply State.wake_canonical | apply State.grantJoin_canonical
        | apply State.dropAt_canonical | apply State.accessTrap_canonical | apply Acted.of_phase (e := by assumption)
        | (intro _) | split
  | succ z0 ih =>
    unfold State.serve
    try dsimp only
    with_reducible
      repeat' first
        | apply ih | assumption | apply State.wake_canonical | apply State.grantJoin_canonical
        | apply State.dropAt_canonical | apply State.accessTrap_canonical | apply Acted.of_done (e := by assumption)
        | apply State.act_canonical | split | (simp only [canonical_mk]; apply canonical_fold)

theorem State.serveAll_canonical (s : State) (ws : List Nat) (hs : s.Canonical) : (State.serveAll s ws).Canonical := by
  unfold State.serveAll
  try dsimp only
  with_reducible
    repeat' first
      | apply canonical_ite | assumption | apply State.serve_canonical

theorem State.emptyWords_canonical (s : State) (a : Access) (z : List Nat) (hs : s.Canonical) : (State.emptyWords s a z).Canonical := by
  induction z generalizing s a with
  | nil =>
    unfold State.emptyWords
    try dsimp only
    with_reducible
      repeat' first
        | apply canonical_ite | assumption | apply State.addLoss_canonical | apply State.serveAll_canonical
  | cons z0 zr ih =>
    unfold State.emptyWords
    try dsimp only
    with_reducible
      repeat' first
        | apply ih | apply canonical_ite | assumption | apply State.addLoss_canonical | apply State.serveAll_canonical
        | apply State.setFull_canonical

theorem State.enlist_canonical (s : State) (w : Waiter) (hs : s.Canonical) : (State.enlist s w).Canonical := by
  unfold State.enlist
  try dsimp only
  with_reducible
    repeat' first
      | assumption | (simp only [canonical_mk]; apply canonical_fold)

theorem State.withdraw_canonical (s : State) (tid : Nat) (hs : s.Canonical) : (State.withdraw s tid).Canonical := by
  unfold State.withdraw
  try dsimp only
  with_reducible
    repeat' first
      | assumption | (simp only [canonical_mk]; apply canonical_fold)

theorem State.performPut_canonical (s : State) (p : Put) (hs : s.Canonical) : (State.performPut s p).Canonical := by
  unfold State.performPut
  try dsimp only
  with_reducible
    repeat' first
      | apply canonical_ite | assumption | apply State.writeHome_canonical | apply State.setFulls_canonical
      | apply State.serveAll_canonical | apply State.drained_canonical | apply State.setHelds_canonical

theorem State.performStore_canonical (s : State) (e : Store) (hs : s.Canonical) : (State.performStore s e).Canonical := by
  unfold State.performStore
  try dsimp only
  with_reducible
    repeat' first
      | apply canonical_ite | assumption | apply State.writeHome_canonical | apply State.drained_canonical
      | apply State.serveAll_canonical

theorem State.engineWrite_canonical (s : State) (ctx : BitVec 12) (va : Word) (pa : Nat) (bs : List (Option Byte)) (hs : s.Canonical) : (State.engineWrite s ctx va pa bs).1.Canonical := by
  unfold State.engineWrite
  try dsimp only
  with_reducible
    repeat' first
      | apply canonical_ite | assumption | apply State.writeHome_canonical | apply State.serveAll_canonical

theorem State.engineWrite_canonical_eq {s : State} {ctx : BitVec 12} {va : Word} {pa : Nat} {bs : List (Option Byte)} (hs : s.Canonical) {s1 : State} {y : _} (heqn : State.engineWrite s ctx va pa bs = (s1, y)) : s1.Canonical := by
  have := State.engineWrite_canonical s ctx va pa bs hs
  rw [heqn] at this
  exact this

theorem State.performUpdate_canonical (s : State) (u : Update) (hs : s.Canonical) : (State.performUpdate s u).Canonical := by
  unfold State.performUpdate
  try dsimp only
  with_reducible
    repeat' first
      | apply canonical_ite | assumption | apply State.drained_canonical | apply State.addLoss_canonical
      | apply State.contribute_canonical | apply canonical_foldl | (intro _ _ _)

end Sys2Proof.Machine
end

