-- ==== Sys2Proof/Laws/CanonReservoir.lean ====
section
/-!
SUPPORT. Sys2Proof/Laws/CanonReservoir.lean: each operation of Machine/Reservoir.lean keeps the canonical form of the state.
-/
namespace Sys2Proof.Machine

theorem State.updPond_canonical (s : State) (d : Nat) (p : Nat) (f : Pond → Pond) (hs : s.Canonical) : (State.updPond s d p f).Canonical := by
  unfold State.updPond
  try dsimp only
  with_reducible
    repeat' first
      | assumption | apply State.updDie_canonical

theorem State.updLeap_canonical (s : State) (tid : Nat) (level : Nat) (f : LeapH → LeapH) (hs : s.Canonical) : (State.updLeap s tid level f).Canonical := by
  unfold State.updLeap
  try dsimp only
  with_reducible
    repeat' first
      | assumption | apply State.upd_canonical

theorem State.setRsv_canonical (s : State) (v : Resv) (st : RsvState) (hs : s.Canonical) : (State.setRsv s v st).Canonical := by
  unfold State.setRsv
  try dsimp only
  with_reducible
    repeat' first
      | assumption | apply State.updLeap_canonical | split | (simp only [canonical_mk]; apply canonical_fold)

theorem State.cutAhead_canonical (s : State) (tid : Nat) (seq : Nat) (hs : s.Canonical) : (State.cutAhead s tid seq).Canonical := by
  unfold State.cutAhead
  try dsimp only
  with_reducible
    repeat' first
      | assumption | apply State.updCluster_canonical | apply canonical_foldl | (intro _ _ _)

theorem State.owe_canonical (s : State) (v : Resv) (cause : Nat) (hs : s.Canonical) : (State.owe s v cause).Canonical := by
  unfold State.owe
  try dsimp only
  with_reducible
    repeat' first
      | apply canonical_ite | assumption | apply State.upd_canonical | apply State.cutAhead_canonical

theorem State.removeResv_canonical (s : State) (d : Nat) (p : Nat) (v : Resv) (hs : s.Canonical) : (State.removeResv s d p v).Canonical := by
  unfold State.removeResv
  try dsimp only
  with_reducible
    repeat' first
      | assumption | apply State.updPond_canonical

theorem State.endResv_canonical (s : State) (d : Nat) (p : Nat) (v : Resv) (hs : s.Canonical) : (State.endResv s d p v).Canonical := by
  unfold State.endResv
  try dsimp only
  with_reducible
    repeat' first
      | apply canonical_ite | assumption | apply State.setRsv_canonical | apply State.removeResv_canonical
      | apply State.upd_canonical

theorem State.displace_canonical (s : State) (d : Nat) (p : Nat) (v : Resv) (hs : s.Canonical) : (State.displace s d p v).Canonical := by
  unfold State.displace
  try dsimp only
  with_reducible
    repeat' first
      | apply canonical_ite | assumption | apply State.setRsv_canonical | apply State.removeResv_canonical
      | apply State.owe_canonical

theorem State.pondAnswer_canonical (s : State) (tid : Nat) (hs : s.Canonical) : (State.pondAnswer s tid).Canonical := by
  unfold State.pondAnswer
  try dsimp only
  with_reducible
    repeat' first
      | assumption | apply State.complete_canonical | apply State.wr_canonical | apply State.updLeap_canonical | split

theorem State.pondReply_canonical (s : State) (tid : Nat) (hs : s.Canonical) : (State.pondReply s tid).Canonical := by
  unfold State.pondReply
  try dsimp only
  with_reducible
    repeat' first
      | apply canonical_ite | assumption | apply State.pondAnswer_canonical

theorem State.fixAnswer_canonical (s : State) (tid : Nat) (v : Word) (hs : s.Canonical) : (State.fixAnswer s tid v).Canonical := by
  unfold State.fixAnswer
  try dsimp only
  with_reducible
    repeat' first
      | assumption | apply State.upd_canonical

theorem State.withdrawReq_canonical (s : State) (d : Nat) (p : Nat) (v : Resv) (st : RsvStatus) (hs : s.Canonical) : (State.withdrawReq s d p v st).Canonical := by
  unfold State.withdrawReq
  try dsimp only
  with_reducible
    repeat' first
      | apply canonical_ite | assumption | apply State.updPond_canonical | apply State.setRsv_canonical
      | apply State.pondReply_canonical | apply State.fixAnswer_canonical

theorem State.displaceAll_canonical (s : State) (d : Nat) (p : Nat) (z : List Resv) (hs : s.Canonical) : (State.displaceAll s d p z).Canonical := by
  induction z generalizing s d p with
  | nil =>
    unfold State.displaceAll
    try dsimp only
    with_reducible
      repeat' first
        | apply canonical_ite | assumption
  | cons z0 zr ih =>
    unfold State.displaceAll
    try dsimp only
    with_reducible
      repeat' first
        | apply ih | assumption | apply State.displace_canonical

theorem State.admitReq_canonical (s : State) (d : Nat) (p : Nat) (w : Resv) (victims : List Resv) (hs : s.Canonical) : (State.admitReq s d p w victims).Canonical := by
  unfold State.admitReq
  try dsimp only
  with_reducible
    repeat' first
      | apply canonical_ite | assumption | apply State.displaceAll_canonical | apply State.updPond_canonical
      | apply State.setRsv_canonical | apply State.pondReply_canonical

theorem State.passFrom_canonical (s : State) (d : Nat) (p : Nat) (z : Nat) (hs : s.Canonical) : (State.passFrom s d p z).Canonical := by
  induction z generalizing s d p with
  | zero =>
    unfold State.passFrom
    try dsimp only
    with_reducible
      repeat' first
        | apply canonical_ite | assumption | (intro _)
  | succ z0 ih =>
    unfold State.passFrom
    try dsimp only
    with_reducible
      repeat' first
        | apply ih | assumption | apply State.admitReq_canonical | split

theorem State.pass_canonical (s : State) (d : Nat) (p : Nat) (hs : s.Canonical) : (State.pass s d p).Canonical := by
  unfold State.pass
  try dsimp only
  with_reducible
    repeat' first
      | assumption | apply State.passFrom_canonical

theorem State.passAll_canonical (s : State) (d : Nat) (z : List Nat) (hs : s.Canonical) : (State.passAll s d z).Canonical := by
  induction z generalizing s d with
  | nil =>
    unfold State.passAll
    try dsimp only
    with_reducible
      repeat' first
        | apply canonical_ite | assumption
  | cons z0 zr ih =>
    unfold State.passAll
    try dsimp only
    with_reducible
      repeat' first
        | apply ih | assumption | apply State.pass_canonical

theorem State.cutDone_canonical (s : State) (victim : Nat) (hs : s.Canonical) : (State.cutDone s victim).Canonical := by
  unfold State.cutDone
  try dsimp only
  with_reducible
    repeat' first
      | apply canonical_ite | assumption | apply State.updPond_canonical | apply State.pondReply_canonical
      | apply canonical_foldl | (intro _ _ _)

theorem State.lend_canonical (s : State) (tid : Nat) (hs : s.Canonical) : (State.lend s tid).1.Canonical := by
  unfold State.lend
  try dsimp only
  with_reducible
    repeat' first
      | assumption | apply State.updLeap_canonical | apply State.pass_canonical | apply State.updPond_canonical
      | apply State.endResv_canonical | split

theorem State.lend_canonical_eq {s : State} {tid : Nat} (hs : s.Canonical) {s1 : State} {y : _} (heqn : State.lend s tid = (s1, y)) : s1.Canonical := by
  have := State.lend_canonical s tid hs
  rw [heqn] at this
  exact this

theorem State.loseLeap_canonical (s : State) (tid : Nat) (hs : s.Canonical) : (State.loseLeap s tid).Canonical := by
  unfold State.loseLeap
  try dsimp only
  with_reducible
    repeat' first
      | apply canonical_ite | assumption | apply State.upd_canonical | apply State.lend_canonical

theorem State.dropResvs_canonical (s : State) (tid : Nat) (hs : s.Canonical) : (State.dropResvs s tid).Canonical := by
  unfold State.dropResvs
  try dsimp only
  with_reducible
    repeat' first
      | assumption | apply State.passAll_canonical | apply State.updPond_canonical | apply canonical_foldl | (intro _ _ _)

theorem State.tripEnds_canonical (s : State) (d : Nat) (p : Nat) (z : List Resv) (hs : s.Canonical) : (State.tripEnds s d p z).Canonical := by
  induction z generalizing s d p with
  | nil =>
    unfold State.tripEnds
    try dsimp only
    with_reducible
      repeat' first
        | apply canonical_ite | assumption | apply State.owe_canonical | apply State.setRsv_canonical
  | cons z0 zr ih =>
    unfold State.tripEnds
    try dsimp only
    with_reducible
      repeat' first
        | apply ih | assumption | apply State.owe_canonical | apply State.setRsv_canonical
        | apply State.removeResv_canonical

theorem State.tripPonds_canonical (s : State) (d : Nat) (z : List Nat) (hs : s.Canonical) : (State.tripPonds s d z).Canonical := by
  induction z generalizing s d with
  | nil =>
    unfold State.tripPonds
    try dsimp only
    with_reducible
      repeat' first
        | apply canonical_ite | assumption
  | cons z0 zr ih =>
    unfold State.tripPonds
    try dsimp only
    with_reducible
      repeat' first
        | apply ih | assumption | apply State.tripEnds_canonical

theorem State.tripCheck_canonical (s : State) (d : Nat) (hs : s.Canonical) : (State.tripCheck s d).Canonical := by
  unfold State.tripCheck
  try dsimp only
  with_reducible
    repeat' first
      | apply canonical_ite | assumption | apply State.passAll_canonical | apply State.updDie_canonical
      | apply State.tripPonds_canonical

theorem State.writePcap_canonical (s : State) (d : Nat) (p : Nat) (v : Word) (hs : s.Canonical) : (State.writePcap s d p v).Canonical := by
  unfold State.writePcap
  try dsimp only
  with_reducible
    repeat' first
      | apply canonical_ite | assumption | apply State.updPond_canonical | apply State.displaceAll_canonical
      | apply State.withdrawReq_canonical | apply State.pass_canonical | apply canonical_foldl | (intro _ _ _)

theorem State.writePdrain_canonical (s : State) (d : Nat) (p : Nat) (v : Word) (hs : s.Canonical) : (State.writePdrain s d p v).Canonical := by
  unfold State.writePdrain
  try dsimp only
  with_reducible
    repeat' first
      | apply canonical_ite | assumption | apply State.pass_canonical | apply State.updPond_canonical

theorem State.writeRtrip_canonical (s : State) (d : Nat) (v : Word) (hs : s.Canonical) : (State.writeRtrip s d v).Canonical := by
  unfold State.writeRtrip
  try dsimp only
  with_reducible
    repeat' first
      | assumption | apply State.tripCheck_canonical | apply State.updDie_canonical

theorem State.writeRsense_canonical (s : State) (d : Nat) (v : Word) (hs : s.Canonical) : (State.writeRsense s d v).Canonical := by
  unfold State.writeRsense
  try dsimp only
  with_reducible
    repeat' first
      | assumption | apply State.tripCheck_canonical | apply State.updDie_canonical

theorem State.writeRhyst_canonical (s : State) (d : Nat) (v : Word) (hs : s.Canonical) : (State.writeRhyst s d v).Canonical := by
  unfold State.writeRhyst
  try dsimp only
  with_reducible
    repeat' first
      | assumption | apply State.tripCheck_canonical | apply State.updDie_canonical

theorem execPcapWrite_canonical (die : Nat) (pond : Nat) (value : BitVec 64) (s : State) (hs : s.Canonical) : OutCanonical (execPcapWrite die pond value s) := by
  unfold execPcapWrite
  try dsimp only
  with_reducible
    repeat' first
      | apply canonical_ite | assumption | apply State.writePcap_canonical | apply OutCanonical.next

theorem execPdrainWrite_canonical (die : Nat) (pond : Nat) (value : BitVec 64) (s : State) (hs : s.Canonical) : OutCanonical (execPdrainWrite die pond value s) := by
  unfold execPdrainWrite
  try dsimp only
  with_reducible
    repeat' first
      | apply canonical_ite | assumption | apply State.writePdrain_canonical | apply OutCanonical.next

theorem execRtripWrite_canonical (die : Nat) (value : BitVec 64) (s : State) (hs : s.Canonical) : OutCanonical (execRtripWrite die value s) := by
  unfold execRtripWrite
  try dsimp only
  with_reducible
    repeat' first
      | apply canonical_ite | assumption | apply State.writeRtrip_canonical | apply OutCanonical.next

theorem execRsenseWrite_canonical (die : Nat) (value : BitVec 64) (s : State) (hs : s.Canonical) : OutCanonical (execRsenseWrite die value s) := by
  unfold execRsenseWrite
  try dsimp only
  with_reducible
    repeat' first
      | apply canonical_ite | assumption | apply State.writeRsense_canonical | apply OutCanonical.next

theorem State.newReq_canonical (s : State) (p : Nat) (units : Nat) (hs : s.Canonical) : (State.newReq s p units).1.Canonical := by
  unfold State.newReq
  try dsimp only
  with_reducible
    repeat' first
      | assumption | apply State.updPond_canonical | apply State.updLeap_canonical

theorem State.newReq_canonical_eq {s : State} {p : Nat} {units : Nat} (hs : s.Canonical) {s1 : State} {y : _} (heqn : State.newReq s p units = (s1, y)) : s1.Canonical := by
  have := State.newReq_canonical s p units hs
  rw [heqn] at this
  exact this

theorem execRsv_canonical (a : Reg) (b : Reg) (s : State) (hs : s.Canonical) : OutCanonical (execRsv a b s) := by
  unfold execRsv
  try dsimp only
  with_reducible
    repeat' first
      | assumption | apply State.result_canonical | apply State.newReq_canonical | apply State.updPond_canonical
      | apply State.updLeap_canonical | apply OutCanonical.next | split

theorem State.queueReq_canonical (s : State) (k : PondWait) (rd : Reg) (n : Word) (hs : s.Canonical) : (State.queueReq s k rd n).Canonical := by
  unfold State.queueReq
  try dsimp only
  with_reducible
    repeat' first
      | assumption | apply State.result_canonical | apply State.newReq_canonical | apply State.parkMe_canonical
      | apply State.pass_canonical | apply State.updPond_canonical | apply State.pondReply_canonical
      | apply State.fixAnswer_canonical | split

theorem execRsvw_canonical (a : Reg) (b : Reg) (s : State) (hs : s.Canonical) : OutCanonical (execRsvw a b s) := by
  unfold execRsvw
  try dsimp only
  with_reducible
    repeat' first
      | assumption | apply State.queueReq_canonical | apply OutCanonical.next

theorem execRsvq_canonical (a : Reg) (b : Reg) (s : State) (hs : s.Canonical) : OutCanonical (execRsvq a b s) := by
  unfold execRsvq
  try dsimp only
  with_reducible
    repeat' first
      | assumption | apply State.queueReq_canonical | apply OutCanonical.next

theorem execRwait_canonical (a : Reg) (b : Reg) (s : State) (hs : s.Canonical) : OutCanonical (execRwait a b s) := by
  unfold execRwait
  try dsimp only
  with_reducible
    repeat' first
      | assumption | apply State.result_canonical | apply State.parkMe_canonical | apply State.updLeap_canonical
      | apply OutCanonical.next | split

theorem State.startLeap_canonical (s : State) (hs : s.Canonical) : (State.startLeap s).Canonical := by
  unfold State.startLeap
  try dsimp only
  with_reducible
    repeat' first
      | assumption | apply State.updPond_canonical | apply State.updMe_canonical

theorem execLeap_canonical (a : Reg) (_b : Reg) (s : State) (hs : s.Canonical) : OutCanonical (execLeap a _b s) := by
  unfold execLeap
  try dsimp only
  with_reducible
    repeat' first
      | assumption | apply State.result_canonical | apply State.updLeap_canonical | apply State.startLeap_canonical
      | apply OutCanonical.next | split

theorem execLend_canonical (a : Reg) (_b : Reg) (s : State) (hs : s.Canonical) : OutCanonical (execLend a _b s) := by
  unfold execLend
  try dsimp only
  with_reducible
    repeat' first
      | assumption | apply State.lend_canonical | apply State.result_canonical | apply OutCanonical.next

theorem execRqry_canonical (a : Reg) (b : Reg) (s : State) (hs : s.Canonical) : OutCanonical (execRqry a b s) := by
  unfold execRqry
  try dsimp only
  with_reducible
    repeat' first
      | assumption | apply State.result_canonical | apply OutCanonical.next

end Sys2Proof.Machine
end

