-- ==== Sys2Proof/Laws/CanonParks.lean ====
section
/-!
SUPPORT. Sys2Proof/Laws/CanonParks.lean: each operation of Machine/Parks.lean keeps the canonical form of the state.
-/
namespace Sys2Proof.Machine

theorem State.enqueue_canonical (s : State) (d : Nat) (e : Nat) (x : ChanItem) (hs : s.Canonical) : (State.enqueue s d e x).Canonical := by
  unfold State.enqueue
  try dsimp only
  with_reducible
    repeat' first
      | assumption | (simp only [canonical_mk]; apply canonical_fold)

theorem State.sendPut_canonical (s : State) (die : Nat) (p : Put) (hs : s.Canonical) : (State.sendPut s die p).Canonical := by
  unfold State.sendPut
  try dsimp only
  with_reducible
    repeat' first
      | apply canonical_ite | assumption | apply State.dropAt_canonical | apply State.performPut_canonical
      | apply State.enqueue_canonical

theorem State.takeResult_canonical (s : State) (a : Access) (old : Nat) (hs : s.Canonical) : (State.takeResult s a old).1.Canonical := by
  unfold State.takeResult
  try dsimp only
  with_reducible
    repeat' first
      | assumption | apply State.wr_canonical | apply State.wrV_canonical | split

theorem State.takeResult_canonical_eq {s : State} {a : Access} {old : Nat} (hs : s.Canonical) {s1 : State} {y : _} (heqn : State.takeResult s a old = (s1, y)) : s1.Canonical := by
  have := State.takeResult_canonical s a old hs
  rw [heqn] at this
  exact this

theorem State.replyTake_canonical (s : State) (tid : Nat) (hs : s.Canonical) : (State.replyTake s tid).Canonical := by
  unfold State.replyTake
  try dsimp only
  with_reducible
    repeat' first
      | assumption | apply State.takeResult_canonical | apply State.sendPut_canonical | apply State.complete_canonical
      | apply State.acquireOf_canonical | split

theorem execPt_canonical (tid : Nat) (s : State) (hs : s.Canonical) : OutCanonical (execPt tid s) := by
  unfold execPt
  try dsimp only
  with_reducible
    repeat' first
      | assumption | apply State.replyTake_canonical | apply OutCanonical.next

theorem State.recall_canonical (s : State) (tid : Nat) (hs : s.Canonical) : (State.recall s tid).Canonical := by
  unfold State.recall
  try dsimp only
  with_reducible
    repeat' first
      | assumption | (simp only [canonical_mk]; apply canonical_fold)

theorem State.abandon_canonical (s : State) (tid : Nat) (hs : s.Canonical) : (State.abandon s tid).Canonical := by
  unfold State.abandon
  try dsimp only
  with_reducible
    repeat' first
      | assumption | apply State.leaveHw_canonical | apply State.unclaim_canonical | apply State.upd_canonical

theorem State.releaseRecs_canonical (s : State) (z : List (Nat × Nat)) (hs : s.Canonical) : (State.releaseRecs s z).Canonical := by
  induction z generalizing s with
  | nil =>
    unfold State.releaseRecs
    try dsimp only
    with_reducible
      repeat' first
        | apply canonical_ite | assumption
  | cons z0 zr ih =>
    unfold State.releaseRecs
    try dsimp only
    with_reducible
      repeat' first
        | apply ih | assumption | apply State.updDie_canonical

theorem State.resolvePark_canonical (s : State) (tid : Nat) (hs : s.Canonical) : (State.resolvePark s tid).Canonical := by
  unfold State.resolvePark
  try dsimp only
  with_reducible
    repeat' first
      | assumption | apply State.replyTake_canonical | apply State.upd_canonical | apply State.abandon_canonical
      | apply State.updPond_canonical | apply State.pass_canonical | apply State.updLeap_canonical
      | apply State.pondAnswer_canonical | apply State.releaseRecs_canonical | apply State.recall_canonical
      | apply State.withdraw_canonical | split | (simp only [canonical_mk]; apply canonical_fold)

theorem State.boundaryTrap_canonical (s : State) (tid : Nat) (hs : s.Canonical) : (State.boundaryTrap s tid).Canonical := by
  unfold State.boundaryTrap
  try dsimp only
  with_reducible
    repeat' first
      | assumption | apply State.leapTrap_canonical | apply State.resolvePark_canonical | apply State.cutDone_canonical
      | split

theorem execLeapcut_canonical (tid : Nat) (s : State) (hs : s.Canonical) : OutCanonical (execLeapcut tid s) := by
  unfold execLeapcut
  try dsimp only
  with_reducible
    repeat' first
      | apply canonical_ite | assumption | apply State.boundaryTrap_canonical | apply OutCanonical.next

theorem execLeaptrip_canonical (tid : Nat) (s : State) (hs : s.Canonical) : OutCanonical (execLeaptrip tid s) := by
  unfold execLeaptrip
  try dsimp only
  with_reducible
    repeat' first
      | apply canonical_ite | assumption | apply State.boundaryTrap_canonical | apply OutCanonical.next

end Sys2Proof.Machine
end

