-- ==== Sys2Proof/Laws/CanonBuffers.lean ====
section
/-!
SUPPORT. Sys2Proof/Laws/CanonBuffers.lean: each operation of Machine/Buffers.lean keeps the canonical form of the state.
-/
namespace Sys2Proof.Machine

theorem State.pushStore_canonical (s : State) (tid : Nat) (va : Word) (pa : Nat) (bs : List (Option Byte)) (hs : s.Canonical) : (State.pushStore s tid va pa bs).Canonical := by
  unfold State.pushStore
  try dsimp only
  with_reducible
    repeat' first
      | assumption | apply State.updCore_canonical

theorem State.qd_canonical (s : State) (core : Nat) (hs : s.Canonical) : (State.qd s core).Canonical := by
  unfold State.qd
  try dsimp only
  with_reducible
    repeat' first
      | assumption | apply State.updCluster_canonical | apply State.updCore_canonical | split

theorem State.qdTimes_canonical (s : State) (core : Nat) (z : Nat) (hs : s.Canonical) : (State.qdTimes s core z).Canonical := by
  induction z generalizing s core with
  | zero =>
    unfold State.qdTimes
    try dsimp only
    with_reducible
      repeat' first
        | apply canonical_ite | assumption
  | succ z0 ih =>
    unfold State.qdTimes
    try dsimp only
    with_reducible
      repeat' first
        | apply ih | assumption | apply State.qd_canonical

theorem State.qdAll_canonical (s : State) (core : Nat) (hs : s.Canonical) : (State.qdAll s core).Canonical := by
  unfold State.qdAll
  try dsimp only
  with_reducible
    repeat' first
      | assumption | apply State.qdTimes_canonical

theorem State.sendStore_canonical (s : State) (cluster : Nat) (e : Store) (hs : s.Canonical) : (State.sendStore s cluster e).Canonical := by
  unfold State.sendStore
  try dsimp only
  with_reducible
    repeat' first
      | apply canonical_ite | assumption | apply State.updCluster_canonical | apply State.performStore_canonical
      | apply State.enqueue_canonical

theorem State.sendStores_canonical (s : State) (cluster : Nat) (z : List Store) (hs : s.Canonical) : (State.sendStores s cluster z).Canonical := by
  induction z generalizing s cluster with
  | nil =>
    unfold State.sendStores
    try dsimp only
    with_reducible
      repeat' first
        | apply canonical_ite | assumption
  | cons z0 zr ih =>
    unfold State.sendStores
    try dsimp only
    with_reducible
      repeat' first
        | apply ih | assumption | apply State.sendStore_canonical

theorem State.bdAll_canonical (s : State) (cluster : Nat) (hs : s.Canonical) : (State.bdAll s cluster).Canonical := by
  unfold State.bdAll
  try dsimp only
  with_reducible
    repeat' first
      | assumption | apply State.sendStores_canonical

theorem State.drainWords_canonical (s : State) (tid : Nat) (ws : List Nat) (hs : s.Canonical) : (State.drainWords s tid ws).Canonical := by
  unfold State.drainWords
  try dsimp only
  with_reducible
    repeat' first
      | apply canonical_ite | assumption | apply State.qdTimes_canonical | apply State.sendStores_canonical

theorem State.fillLine_canonical (s : State) (cluster : Nat) (pa : Nat) (hs : s.Canonical) : (State.fillLine s cluster pa).Canonical := by
  unfold State.fillLine
  try dsimp only
  with_reducible
    repeat' first
      | assumption | apply State.updCluster_canonical | split

theorem execQd_canonical (core : Nat) (s : State) (hs : s.Canonical) : OutCanonical (execQd core s) := by
  unfold execQd
  try dsimp only
  with_reducible
    repeat' first
      | assumption | apply State.qd_canonical | apply OutCanonical.next

theorem execBd_canonical (cluster : Nat) (index : Nat) (s : State) (hs : s.Canonical) : OutCanonical (execBd cluster index s) := by
  unfold execBd
  try dsimp only
  with_reducible
    repeat' first
      | assumption | apply State.sendStore_canonical | apply OutCanonical.next | split

theorem execCf_canonical (cluster : Nat) (line : Nat) (s : State) (hs : s.Canonical) : OutCanonical (execCf cluster line s) := by
  unfold execCf
  try dsimp only
  with_reducible
    repeat' first
      | assumption | apply State.fillLine_canonical | apply OutCanonical.next

theorem execCe_canonical (cluster : Nat) (line : Nat) (s : State) (hs : s.Canonical) : OutCanonical (execCe cluster line s) := by
  unfold execCe
  try dsimp only
  with_reducible
    repeat' first
      | assumption | apply State.updCluster_canonical | apply OutCanonical.next

end Sys2Proof.Machine
end

