-- ==== Sys2Proof/Laws/CanonTasks.lean ====
section
/-!
SUPPORT. Sys2Proof/Laws/CanonTasks.lean: each operation of Machine/Tasks.lean keeps the canonical form of the state.
-/
namespace Sys2Proof.Machine

theorem State.arrive_canonical (s : State) (m : Msg) (hs : s.Canonical) : (State.arrive s m).Canonical := by
  unfold State.arrive
  try dsimp only
  with_reducible
    repeat' first
      | assumption | apply State.updCore_canonical | apply State.wake_canonical | apply State.complete_canonical | split

theorem State.accept_canonical (s : State) (m : Msg) (hs : s.Canonical) : OptOk (State.accept s m) := by
  unfold State.accept
  try dsimp only
  with_reducible
    repeat' first
      | apply OptOk.none | apply OptOk.some | assumption | apply State.arrive_canonical | apply State.updCore_canonical
      | split

theorem State.refill_canonical (s : State) (core : Nat) (z : Nat) (hs : s.Canonical) : (State.refill s core z).Canonical := by
  induction z generalizing s core with
  | zero =>
    unfold State.refill
    try dsimp only
    with_reducible
      repeat' first
        | apply canonical_ite | assumption | apply State.arrive_canonical | (intro _)
  | succ z0 ih =>
    unfold State.refill
    try dsimp only
    with_reducible
      repeat' first
        | apply ih | assumption | apply State.arrive_canonical | apply State.updCore_canonical | split

theorem State.acceptFor_canonical (s : State) (tid : Nat) (z : List Msg) (hs : s.Canonical) : (State.acceptFor s tid z).Canonical := by
  induction z generalizing s tid with
  | nil =>
    unfold State.acceptFor
    try dsimp only
    with_reducible
      repeat' first
        | apply canonical_ite | assumption | apply OptOk.of_some (e := by assumption) | (intro _) | split
  | cons z0 zr ih =>
    unfold State.acceptFor
    try dsimp only
    with_reducible
      repeat' first
        | apply ih | assumption | apply OptOk.of_some (e := by assumption) | apply State.accept_canonical | split
        | (simp only [canonical_mk]; apply canonical_fold)

theorem State.discardMsgs_canonical (s : State) (tid : Nat) (hs : s.Canonical) : (State.discardMsgs s tid).Canonical := by
  unfold State.discardMsgs
  try dsimp only
  with_reducible
    repeat' first
      | assumption | apply State.updCore_canonical | apply State.refill_canonical
      | (simp only [canonical_mk]; apply canonical_fold)

theorem State.noteWalk_canonical (s : State) (ptbase : Word) (va : Nat) (hs : s.Canonical) : (State.noteWalk s ptbase va).Canonical := by
  unfold State.noteWalk
  try dsimp only
  with_reducible
    repeat' first
      | assumption | apply State.noteBad_canonical | split

theorem State.noteTask_canonical (s : State) (c : Ctx) (i : Nat) (hs : s.Canonical) : (State.noteTask s c i).Canonical := by
  unfold State.noteTask
  try dsimp only
  with_reducible
    repeat' first
      | assumption | apply State.noteWalk_canonical

theorem State.setEntry_canonical (s : State) (c : Ctx) (i : Nat) (pa : Nat) (adopted : Bool) (st : TaskState) (w1 : Word) (hs : s.Canonical) : (State.setEntry s c i pa adopted st w1).Canonical := by
  unfold State.setEntry
  try dsimp only
  with_reducible
    repeat' first
      | assumption | apply State.devWord_canonical

theorem State.noteEntry_canonical (s : State) (c : Ctx) (h : Word) (hs : s.Canonical) : (State.noteEntry s c h).Canonical := by
  unfold State.noteEntry
  try dsimp only
  with_reducible
    repeat' first
      | assumption | apply State.noteBad_canonical | apply State.noteTask_canonical | split

theorem State.markTask_canonical (s : State) (c : Ctx) (h : Word) (st : TaskState) (hs : s.Canonical) : (State.markTask s c h st).Canonical := by
  unfold State.markTask
  try dsimp only
  with_reducible
    repeat' first
      | assumption | apply State.setEntry_canonical | apply State.noteEntry_canonical | split

theorem State.noteTasks_canonical (s : State) (c : Ctx) (z : Nat) (hs : s.Canonical) : (State.noteTasks s c z).Canonical := by
  induction z generalizing s c with
  | zero =>
    unfold State.noteTasks
    try dsimp only
    with_reducible
      repeat' first
        | apply canonical_ite | assumption | apply State.noteBad_canonical | (intro _)
  | succ z0 ih =>
    unfold State.noteTasks
    try dsimp only
    with_reducible
      repeat' first
        | apply ih | assumption | apply State.noteBad_canonical | apply State.noteTask_canonical | split

theorem State.allocTask_canonical (s : State) (c : Ctx) (rank : Nat) (w1 : Word) (entry : Word) (hs : s.Canonical) : OptPairOk (State.allocTask s c rank w1 entry) := by
  unfold State.allocTask
  try dsimp only
  with_reducible
    repeat' first
      | apply OptPairOk.none | apply OptPairOk.some | assumption | apply State.noteTasks_canonical
      | apply State.devWord_canonical | split

theorem State.claim_canonical (s : State) (c : Ctx) (h : Word) (expected : TaskState) (adopted : Bool) (tid : Nat) (hs : s.Canonical) : OptOk (State.claim s c h expected adopted tid) := by
  unfold State.claim
  try dsimp only
  with_reducible
    repeat' first
      | apply OptOk.none | apply OptOk.some | assumption | apply State.setEntry_canonical | split

theorem State.startThread_canonical (s : State) (tid : Nat) (c : Ctx) (x : Start) (hs : s.Canonical) : (State.startThread s tid c x).Canonical := by
  unfold State.startThread
  try dsimp only
  with_reducible
    repeat' first
      | assumption | apply State.setThread_canonical | (simp only [canonical_mk]; apply canonical_fold)

theorem State.toFifo_canonical (s : State) (d : Nat) (rank : BitVec 3) (x : SchedItem) (hs : s.Canonical) : (State.toFifo s d rank x).Canonical := by
  unfold State.toFifo
  try dsimp only
  with_reducible
    repeat' first
      | assumption | apply State.updDie_canonical

theorem State.toScheduler_canonical (s : State) (d : Nat) (p : Packet) (hs : s.Canonical) : (State.toScheduler s d p).Canonical := by
  unfold State.toScheduler
  try dsimp only
  with_reducible
    repeat' first
      | assumption | apply State.toFifo_canonical

theorem State.toCoreQueue_canonical (s : State) (core : Nat) (x : TaskItem) (hs : s.Canonical) : (State.toCoreQueue s core x).Canonical := by
  unfold State.toCoreQueue
  try dsimp only
  with_reducible
    repeat' first
      | assumption | apply State.updCore_canonical

theorem State.decrement_canonical (s : State) (ctr : Bound) (die : Nat) (hs : s.Canonical) : (State.decrement s ctr die).Canonical := by
  unfold State.decrement
  try dsimp only
  with_reducible
    repeat' first
      | assumption | (simp only [canonical_mk]; apply canonical_fold)

theorem State.noteReach_canonical (s : State) (b : Bound) (cause : Nat) (hs : s.Canonical) : (State.noteReach s b cause).Canonical := by
  unfold State.noteReach
  try dsimp only
  with_reducible
    repeat' first
      | assumption | apply State.note14_canonical

theorem State.setJoin_canonical (s : State) (id : Nat) (st : JoinStage) (hs : s.Canonical) : (State.setJoin s id st).Canonical := by
  unfold State.setJoin
  try dsimp only
  with_reducible
    repeat' first
      | assumption | (simp only [canonical_mk]; apply canonical_fold)

theorem State.endJoin_canonical (s : State) (id : Nat) (hs : s.Canonical) : (State.endJoin s id).Canonical := by
  unfold State.endJoin
  try dsimp only
  with_reducible
    repeat' first
      | assumption | (simp only [canonical_mk]; apply canonical_fold)

theorem State.continuation_canonical (s : State) (j : Join) (packet : Word) (hs : s.Canonical) : (State.continuation s j packet).Canonical := by
  unfold State.continuation
  try dsimp only
  with_reducible
    repeat' first
      | assumption | apply State.tellSup_canonical | apply State.endJoin_canonical | apply State.noteReach_canonical
      | apply State.noteBad_canonical | apply State.setJoin_canonical | apply State.count_canonical
      | apply OptPairOk.of_some (e := by assumption) | apply State.allocTask_canonical | apply State.toScheduler_canonical
      | split

theorem State.joinPut_canonical (s : State) (j : Join) (pa : Nat) (count : Word) (hs : s.Canonical) : (State.joinPut s j pa count).Canonical := by
  unfold State.joinPut
  try dsimp only
  with_reducible
    repeat' first
      | apply canonical_ite | assumption | apply State.performPut_canonical | apply State.tellSup_canonical
      | apply State.endJoin_canonical | apply State.continuation_canonical

theorem State.joinFails_canonical (s : State) (j : Join) (cause : Nat) (hs : s.Canonical) : (State.joinFails s j cause).Canonical := by
  unfold State.joinFails
  try dsimp only
  with_reducible
    repeat' first
      | assumption | apply State.tellSup_canonical | apply State.endJoin_canonical

theorem State.joinStep_canonical (s : State) (j : Join) (hs : s.Canonical) : (State.joinStep s j).Canonical := by
  unfold State.joinStep
  try dsimp only
  with_reducible
    repeat' first
      | assumption | apply State.continuation_canonical | apply State.joinPut_canonical | apply State.joinFails_canonical
      | apply State.noteReach_canonical | apply State.noteBad_canonical | apply State.setHeld_canonical
      | apply State.setFull_canonical | apply State.enlist_canonical | apply State.setJoin_canonical | split

theorem execJoinDecrement_canonical (n : Nat) (s : State) (hs : s.Canonical) : OutCanonical (execJoinDecrement n s) := by
  unfold execJoinDecrement
  try dsimp only
  with_reducible
    repeat' first
      | assumption | apply State.joinStep_canonical | apply OutCanonical.next | split

end Sys2Proof.Machine
end

