-- ==== Sys2Proof/Laws/CanonHalt.lean ====
section
/-!
SUPPORT. Sys2Proof/Laws/CanonHalt.lean: each operation of Machine/Halt.lean keeps the canonical form of the state.
-/
namespace Sys2Proof.Machine

theorem State.putStore_canonical (s : State) (tid : Nat) (va : Word) (pa : Nat) (bs : List (Option Byte)) (hs : s.Canonical) : (State.putStore s tid va pa bs).Canonical := by
  unfold State.putStore
  try dsimp only
  with_reducible
    repeat' first
      | apply canonical_ite | assumption | apply State.performStore_canonical | apply State.enqueue_canonical
      | apply State.pushStore_canonical

theorem State.putWords_canonical (s : State) (tid : Nat) (va : Word) (pa : Nat) (z : List Word) (hs : s.Canonical) : (State.putWords s tid va pa z).Canonical := by
  induction z generalizing s tid va pa with
  | nil =>
    unfold State.putWords
    try dsimp only
    with_reducible
      repeat' first
        | apply canonical_ite | assumption
  | cons z0 zr ih =>
    unfold State.putWords
    try dsimp only
    with_reducible
      repeat' first
        | apply ih | assumption | apply State.putStore_canonical

theorem State.noteFrame_canonical (s : State) (tid : Nat) (va : Word) (n : Nat) (hs : s.Canonical) : (State.noteFrame s tid va n).Canonical := by
  unfold State.noteFrame
  try dsimp only
  with_reducible
    repeat' first
      | assumption | apply State.noteBad_canonical | split

theorem State.spillOne_canonical (s : State) (tid : Nat) (hs : s.Canonical) : OptOk (State.spillOne s tid) := by
  unfold State.spillOne
  try dsimp only
  with_reducible
    repeat' first
      | apply OptOk.none | apply OptOk.some | assumption | apply State.putWords_canonical | apply State.upd_canonical
      | split

theorem State.spillN_canonical (s : State) (tid : Nat) (z : Nat) (hs : s.Canonical) : (State.spillN s tid z).1.Canonical := by
  induction z generalizing s tid with
  | zero =>
    unfold State.spillN
    try dsimp only
    with_reducible
      repeat' first
        | apply canonical_ite | assumption | apply OptOk.of_some (e := by assumption) | (intro _)
  | succ z0 ih =>
    unfold State.spillN
    try dsimp only
    with_reducible
      repeat' first
        | apply ih | assumption | apply OptOk.of_some (e := by assumption) | apply State.spillOne_canonical | split

theorem State.spillN_canonical_eq {s : State} {tid : Nat} {z : Nat} (hs : s.Canonical) {s1 : State} {y : _} (heqn : State.spillN s tid z = (s1, y)) : s1.Canonical := by
  have := State.spillN_canonical s tid z hs
  rw [heqn] at this
  exact this

theorem State.spillAll_canonical (s : State) (tid : Nat) (hs : s.Canonical) : (State.spillAll s tid).1.Canonical := by
  unfold State.spillAll
  try dsimp only
  with_reducible
    repeat' first
      | assumption | apply State.spillN_canonical

theorem State.spillAll_canonical_eq {s : State} {tid : Nat} (hs : s.Canonical) {s1 : State} {y : _} (heqn : State.spillAll s tid = (s1, y)) : s1.Canonical := by
  have := State.spillAll_canonical s tid hs
  rw [heqn] at this
  exact this

theorem State.placeFreed_canonical (s : State) (tid : Nat) (hs : s.Canonical) : (State.placeFreed s tid).Canonical := by
  unfold State.placeFreed
  try dsimp only
  with_reducible
    repeat' first
      | assumption | apply State.deliverUser_canonical | apply State.upd_canonical | apply State.finishCall_canonical
      | split

theorem State.spillFault_canonical (s : State) (tid : Nat) (hs : s.Canonical) : (State.spillFault s tid).Canonical := by
  unfold State.spillFault
  try dsimp only
  with_reducible
    repeat' first
      | assumption | apply State.deliver_canonical | apply State.upd_canonical

theorem execWindowSpill_canonical (tid : Nat) (s : State) (hs : s.Canonical) : OutCanonical (execWindowSpill tid s) := by
  unfold execWindowSpill
  try dsimp only
  with_reducible
    repeat' first
      | assumption | apply OptOk.of_some (e := by assumption) | apply State.spillOne_canonical
      | apply State.placeFreed_canonical | apply State.noteFrame_canonical | apply State.spillFault_canonical
      | apply State.upd_canonical | apply OutCanonical.next | split

theorem State.releaseQueue_canonical (s : State) (core : Nat) (q : Nat) (hs : s.Canonical) : (State.releaseQueue s core q).Canonical := by
  unfold State.releaseQueue
  try dsimp only
  with_reducible
    repeat' first
      | apply canonical_ite | assumption | apply State.updHwq_canonical

theorem State.releaseQueues_canonical (s : State) (core : Nat) (z : List Nat) (hs : s.Canonical) : (State.releaseQueues s core z).Canonical := by
  induction z generalizing s core with
  | nil =>
    unfold State.releaseQueues
    try dsimp only
    with_reducible
      repeat' first
        | apply canonical_ite | assumption
  | cons z0 zr ih =>
    unfold State.releaseQueues
    try dsimp only
    with_reducible
      repeat' first
        | apply ih | assumption | apply State.releaseQueue_canonical

theorem State.ownQueues_canonical (s : State) (core : Nat) (ctx : BitVec 12) (z : List Nat) (hs : s.Canonical) : (State.ownQueues s core ctx z).Canonical := by
  induction z generalizing s core ctx with
  | nil =>
    unfold State.ownQueues
    try dsimp only
    with_reducible
      repeat' first
        | apply canonical_ite | assumption
  | cons z0 zr ih =>
    unfold State.ownQueues
    try dsimp only
    with_reducible
      repeat' first
        | apply ih | assumption | apply State.updHwq_canonical

theorem State.bind_canonical (s : State) (tid : Nat) (b : BitVec 8) (hs : s.Canonical) : (State.bind s tid b).Canonical := by
  unfold State.bind
  try dsimp only
  with_reducible
    repeat' first
      | assumption | apply State.upd_canonical | apply State.releaseQueues_canonical | apply State.ownQueues_canonical

theorem State.unbind_canonical (s : State) (tid : Nat) (hs : s.Canonical) : (State.unbind s tid).Canonical := by
  unfold State.unbind
  try dsimp only
  with_reducible
    repeat' first
      | apply canonical_ite | assumption | apply State.bind_canonical

theorem State.endSuspended_canonical (s : State) (tid : Nat) (level : Nat) (v : Resv) (l : Machine.Level) (hs : s.Canonical) : (State.endSuspended s tid level v l).Canonical := by
  unfold State.endSuspended
  try dsimp only
  with_reducible
    repeat' first
      | assumption | apply State.upd_canonical | apply State.endResv_canonical | apply State.pass_canonical

theorem State.loseSuspended_canonical (s : State) (tid : Nat) (moves : Bool) (z : Nat) (hs : s.Canonical) : (State.loseSuspended s tid moves z).Canonical := by
  induction z generalizing s tid moves with
  | zero =>
    unfold State.loseSuspended
    try dsimp only
    with_reducible
      repeat' first
        | apply canonical_ite | assumption | (intro _)
  | succ z0 ih =>
    unfold State.loseSuspended
    try dsimp only
    with_reducible
      repeat' first
        | apply ih | assumption | apply State.endSuspended_canonical | split

theorem State.lapse_canonical (s : State) (tid : Nat) (hs : s.Canonical) : (State.lapse s tid).Canonical := by
  unfold State.lapse
  try dsimp only
  with_reducible
    repeat' first
      | assumption | apply State.post_canonical | apply State.upd_canonical | split

theorem State.answerPreempts_canonical (s : State) (first : Word) (z : List Nat) (hs : s.Canonical) : (State.answerPreempts s first z).Canonical := by
  induction z generalizing s first with
  | nil =>
    unfold State.answerPreempts
    try dsimp only
    with_reducible
      repeat' first
        | apply canonical_ite | assumption | apply State.complete_canonical | (intro _)
  | cons z0 zr ih =>
    unfold State.answerPreempts
    try dsimp only
    with_reducible
      repeat' first
        | apply ih | assumption | apply State.complete_canonical | apply State.wr_canonical | split

theorem State.halt_canonical (s : State) (tid : Nat) (hs : s.Canonical) : (State.halt s tid).Canonical := by
  unfold State.halt
  try dsimp only
  with_reducible
    repeat' first
      | assumption | apply State.resolvePark_canonical | apply State.loseSuspended_canonical
      | apply State.loseLeap_canonical | apply State.lapse_canonical | apply State.unbind_canonical
      | apply State.upd_canonical | apply State.cutDone_canonical | apply State.answerPreempts_canonical

theorem execPreemptHalt_canonical (tid : Nat) (s : State) (hs : s.Canonical) : OutCanonical (execPreemptHalt tid s) := by
  unfold execPreemptHalt
  try dsimp only
  with_reducible
    repeat' first
      | apply canonical_ite | assumption | apply State.halt_canonical | apply State.answerPreempts_canonical
      | apply State.upd_canonical | apply OutCanonical.next

theorem State.addInflight_canonical (s : State) (c : Ctx) (h : Word) (up : Bool) (hs : s.Canonical) : (State.addInflight s c h up).Canonical := by
  unfold State.addInflight
  try dsimp only
  with_reducible
    repeat' first
      | assumption | apply State.noteBad_canonical | apply State.devWord_canonical | apply State.noteWalk_canonical | split

theorem State.dropHandles_canonical (s : State) (ctx : BitVec 12) (z : List CopyJob) (hs : s.Canonical) : (State.dropHandles s ctx z).Canonical := by
  induction z generalizing s ctx with
  | nil =>
    unfold State.dropHandles
    try dsimp only
    with_reducible
      repeat' first
        | apply canonical_ite | assumption | (intro _)
  | cons z0 zr ih =>
    unfold State.dropHandles
    try dsimp only
    with_reducible
      repeat' first
        | apply ih | assumption | apply State.addInflight_canonical | split

theorem State.hostDone_canonical (s : State) (q : Nat) (n : Nat) (die : Nat) (hs : s.Canonical) : (State.hostDone s q n die).Canonical := by
  unfold State.hostDone
  try dsimp only
  with_reducible
    repeat' first
      | assumption | (simp only [canonical_mk]; apply canonical_fold)

theorem State.dropLaunches_canonical (s : State) (ctx : BitVec 12) (d : Nat) (z : List (Nat × Option LaunchRec)) (hs : s.Canonical) : (State.dropLaunches s ctx d z).Canonical := by
  induction z generalizing s ctx d with
  | nil =>
    unfold State.dropLaunches
    try dsimp only
    with_reducible
      repeat' first
        | apply canonical_ite | assumption | apply State.updDie_canonical | (intro _) | dsimp +zetaDelta only
  | cons z0 zr ih =>
    unfold State.dropLaunches
    try dsimp only
    with_reducible
      repeat' first
        | assumption | apply State.updDie_canonical | apply State.hostDone_canonical | split
        | (injections; subst_vars; apply ih)

theorem State.killDie_canonical (s : State) (ctx : BitVec 12) (d : Nat) (hs : s.Canonical) : (State.killDie s ctx d).Canonical := by
  unfold State.killDie
  try dsimp only
  with_reducible
    repeat' first
      | assumption | apply State.updDie_canonical | apply State.updPond_canonical | apply State.passAll_canonical
      | apply State.dropLaunches_canonical | apply canonical_foldl | (intro _ _ _)

theorem State.killCore_canonical (s : State) (ctx : BitVec 12) (core : Nat) (hs : s.Canonical) : (State.killCore s ctx core).Canonical := by
  unfold State.killCore
  try dsimp only
  with_reducible
    repeat' first
      | assumption | apply State.updCore_canonical

theorem State.killCluster_canonical (s : State) (ctx : BitVec 12) (range : List Nat) (k : Nat) (hs : s.Canonical) : (State.killCluster s ctx range k).Canonical := by
  unfold State.killCluster
  try dsimp only
  with_reducible
    repeat' first
      | assumption | apply State.updCluster_canonical

theorem State.killSlot_canonical (s : State) (tid : Nat) (hs : s.Canonical) : (State.killSlot s tid).Canonical := by
  unfold State.killSlot
  try dsimp only
  with_reducible
    repeat' first
      | assumption | apply State.replyTake_canonical | apply State.upd_canonical | apply State.releaseRecs_canonical
      | apply State.dropResvs_canonical | apply State.recall_canonical | apply State.withdraw_canonical
      | apply State.lapse_canonical | apply State.leaveHw_canonical | apply State.unbind_canonical
      | apply State.discardMsgs_canonical | apply State.cutDone_canonical | apply State.answerPreempts_canonical
      | apply State.setThread_canonical | split | (simp only [canonical_mk]; apply canonical_fold)

theorem State.killSlots_canonical (s : State) (z : List Nat) (hs : s.Canonical) : (State.killSlots s z).Canonical := by
  induction z generalizing s with
  | nil =>
    unfold State.killSlots
    try dsimp only
    with_reducible
      repeat' first
        | apply canonical_ite | assumption
  | cons z0 zr ih =>
    unfold State.killSlots
    try dsimp only
    with_reducible
      repeat' first
        | apply ih | assumption | apply State.killSlot_canonical

theorem State.failTasks_canonical (s : State) (c : Ctx) (i : Nat) (z : Nat) (hs : s.Canonical) : (State.failTasks s c i z).Canonical := by
  induction z generalizing s c i with
  | zero =>
    unfold State.failTasks
    try dsimp only
    with_reducible
      repeat' first
        | apply canonical_ite | assumption | apply State.noteBad_canonical | apply State.setEntry_canonical | (intro _)
  | succ z0 ih =>
    unfold State.failTasks
    try dsimp only
    with_reducible
      repeat' first
        | apply ih | assumption | apply State.noteBad_canonical | apply State.setEntry_canonical
        | apply State.noteTask_canonical | split

theorem State.dropSaves_canonical (s : State) (ctx : BitVec 12) (hs : s.Canonical) : (State.dropSaves s ctx).Canonical := by
  unfold State.dropSaves
  try dsimp only
  with_reducible
    repeat' first
      | assumption | (simp only [canonical_mk]; apply canonical_fold)

theorem State.dropItems_canonical (s : State) (p : ChanItem → Bool) (hs : s.Canonical) : (State.dropItems s p).Canonical := by
  unfold State.dropItems
  try dsimp only
  with_reducible
    repeat' first
      | assumption | (simp only [canonical_mk]; apply canonical_fold)

theorem State.dropOffers_canonical (s : State) (ctx : BitVec 12) (hs : s.Canonical) : (State.dropOffers s ctx).Canonical := by
  unfold State.dropOffers
  try dsimp only
  with_reducible
    repeat' first
      | assumption | (simp only [canonical_mk]; apply canonical_fold)

theorem State.teardown_canonical (s : State) (ctx : BitVec 12) (hs : s.Canonical) : (State.teardown s ctx).Canonical := by
  unfold State.teardown
  try dsimp only
  with_reducible
    repeat' first
      | assumption | apply State.killSlots_canonical | apply State.failTasks_canonical | apply State.killCore_canonical
      | apply State.killDie_canonical | apply State.dropHandles_canonical | apply State.dropItems_canonical
      | apply State.dropSaves_canonical | apply State.killCluster_canonical | apply State.dropOffers_canonical
      | apply canonical_foldl | (intro _ _ _) | (simp only [canonical_mk]; apply canonical_fold)

theorem State.startKill_canonical (s : State) (ctx : BitVec 12) (issuer : Option Nat) (die : Nat) (hs : s.Canonical) : (State.startKill s ctx issuer die).Canonical := by
  unfold State.startKill
  try dsimp only
  with_reducible
    repeat' first
      | assumption | apply State.teardown_canonical | (simp only [canonical_mk]; apply canonical_fold)

theorem State.discardStores_canonical (s : State) (ctx : BitVec 12) (hs : s.Canonical) : (State.discardStores s ctx).Canonical := by
  unfold State.discardStores
  try dsimp only
  with_reducible
    repeat' first
      | assumption | apply State.updCore_canonical | apply State.updCluster_canonical | apply State.dropItems_canonical
      | apply canonical_foldl | (intro _ _ _)

theorem execKillComplete_canonical (context : Nat) (s : State) (hs : s.Canonical) : OutCanonical (execKillComplete context s) := by
  unfold execKillComplete
  try dsimp only
  with_reducible
    repeat' first
      | assumption | apply State.discardStores_canonical | apply State.post_canonical | apply State.tellSup_canonical
      | apply OutCanonical.next | split | (simp only [canonical_mk]; apply canonical_fold)

end Sys2Proof.Machine
end

