-- ==== Sys2Proof/Laws/CanonPower.lean ====
section
/-!
SUPPORT. Sys2Proof/Laws/CanonPower.lean: each operation of Machine/Power.lean keeps the canonical form of the state.
-/
namespace Sys2Proof.Machine

theorem State.wakeCtl_canonical (s : State) (die : Nat) (hs : s.Canonical) : (State.wakeCtl s die).Canonical := by
  unfold State.wakeCtl
  try dsimp only
  with_reducible
    repeat' first
      | apply canonical_ite | assumption | apply State.complete_canonical

theorem State.setEvt_canonical (s : State) (k : Nat) (e : Evt) (hs : s.Canonical) : (State.setEvt s k e).Canonical := by
  unfold State.setEvt
  try dsimp only
  with_reducible
    repeat' first
      | assumption | apply State.wakeCtl_canonical | apply State.updCluster_canonical

theorem State.setWake_canonical (s : State) (k : Nat) (w : Wake) (hs : s.Canonical) : (State.setWake s k w).Canonical := by
  unfold State.setWake
  try dsimp only
  with_reducible
    repeat' first
      | assumption | apply State.wakeCtl_canonical | apply State.updCluster_canonical

theorem State.writeQreq_canonical (s : State) (k : Nat) (v : Word) (hs : s.Canonical) : (State.writeQreq s k v).Canonical := by
  unfold State.writeQreq
  try dsimp only
  with_reducible
    repeat' first
      | apply canonical_ite | assumption | apply State.updCluster_canonical | apply State.setEvt_canonical

theorem State.qdCluster_canonical (s : State) (k : Nat) (hs : s.Canonical) : (State.qdCluster s k).Canonical := by
  unfold State.qdCluster
  try dsimp only
  with_reducible
    repeat' first
      | assumption | apply State.qdAll_canonical | apply canonical_foldl

theorem State.becomeQuiet_canonical (s : State) (k : Nat) (hs : s.Canonical) : (State.becomeQuiet s k).Canonical := by
  unfold State.becomeQuiet
  try dsimp only
  with_reducible
    repeat' first
      | apply canonical_ite | assumption | apply State.bdAll_canonical | apply State.qdCluster_canonical
      | apply State.setEvt_canonical | apply State.updCluster_canonical

theorem State.writeRsave_canonical (s : State) (k : Nat) (v : Word) (hs : s.Canonical) : (State.writeRsave s k v).Canonical := by
  unfold State.writeRsave
  try dsimp only
  with_reducible
    repeat' first
      | apply canonical_ite | assumption | apply State.updCluster_canonical | apply State.setEvt_canonical

theorem State.saveDone_canonical (s : State) (k : Nat) (hs : s.Canonical) : (State.saveDone s k).Canonical := by
  unfold State.saveDone
  try dsimp only
  with_reducible
    repeat' first
      | apply canonical_ite | assumption | apply State.setEvt_canonical | apply State.updCluster_canonical

theorem State.putCycs_canonical (s : State) (z : List (Nat × Nat)) (hs : s.Canonical) : (State.putCycs s z).Canonical := by
  induction z generalizing s with
  | nil =>
    unfold State.putCycs
    try dsimp only
    with_reducible
      repeat' first
        | apply canonical_ite | assumption
  | cons z0 zr ih =>
    unfold State.putCycs
    try dsimp only
    with_reducible
      repeat' first
        | apply ih | assumption | apply State.updCore_canonical

theorem State.dropCached_canonical (s : State) (z : List Nat) (hs : s.Canonical) : (State.dropCached s z).Canonical := by
  induction z generalizing s with
  | nil =>
    unfold State.dropCached
    try dsimp only
    with_reducible
      repeat' first
        | apply canonical_ite | assumption
  | cons z0 zr ih =>
    unfold State.dropCached
    try dsimp only
    with_reducible
      repeat' first
        | apply ih | assumption | apply State.updCore_canonical

theorem State.restoreDone_canonical (s : State) (k : Nat) (hs : s.Canonical) : (State.restoreDone s k).Canonical := by
  unfold State.restoreDone
  try dsimp only
  with_reducible
    repeat' first
      | assumption | apply State.updCluster_canonical | apply State.setEvt_canonical | apply State.putCycs_canonical
      | apply State.dropCached_canonical | split

theorem State.writeCgate_canonical (s : State) (k : Nat) (v : Word) (hs : s.Canonical) : (State.writeCgate s k v).Canonical := by
  unfold State.writeCgate
  try dsimp only
  with_reducible
    repeat' first
      | apply canonical_ite | assumption | apply State.updCluster_canonical | apply State.setEvt_canonical

theorem State.writeRail_canonical (s : State) (k : Nat) (v : Word) (hs : s.Canonical) : (State.writeRail s k v).Canonical := by
  unfold State.writeRail
  try dsimp only
  with_reducible
    repeat' first
      | apply canonical_ite | assumption | apply State.setEvt_canonical | apply State.updCluster_canonical

theorem State.loseArrays_canonical (s : State) (k : Nat) (hs : s.Canonical) : (State.loseArrays s k).Canonical := by
  unfold State.loseArrays
  try dsimp only
  with_reducible
    repeat' first
      | assumption | apply State.updCore_canonical | apply State.updCluster_canonical
      | (unfold cutRange; apply State.drop_canonical) | apply canonical_foldl | (intro _ _ _)

theorem State.clearCycs_canonical (s : State) (z : List Nat) (hs : s.Canonical) : (State.clearCycs s z).Canonical := by
  induction z generalizing s with
  | nil =>
    unfold State.clearCycs
    try dsimp only
    with_reducible
      repeat' first
        | apply canonical_ite | assumption
  | cons z0 zr ih =>
    unfold State.clearCycs
    try dsimp only
    with_reducible
      repeat' first
        | apply ih | assumption | apply State.clearCyc_canonical

theorem State.restartCycs_canonical (s : State) (k : Nat) (r : Nat) (hs : s.Canonical) : (State.restartCycs s k r).Canonical := by
  unfold State.restartCycs
  try dsimp only
  with_reducible
    repeat' first
      | assumption | apply State.clearCycs_canonical | apply State.dropCached_canonical

theorem State.reachRail_canonical (s : State) (k : Nat) (f : RailField) (goal : Nat) (hs : s.Canonical) : (State.reachRail s k f goal).Canonical := by
  unfold State.reachRail
  try dsimp only
  with_reducible
    repeat' first
      | assumption | apply State.updCluster_canonical | apply State.restartCycs_canonical | apply State.loseArrays_canonical
      | split

theorem State.railEnd_canonical (s : State) (k : Nat) (hs : s.Canonical) : (State.railEnd s k).Canonical := by
  unfold State.railEnd
  try dsimp only
  with_reducible
    repeat' first
      | assumption | apply State.setEvt_canonical | apply State.updCluster_canonical

theorem State.railMove_canonical (s : State) (k : Nat) (hs : s.Canonical) : (State.railMove s k).Canonical := by
  unfold State.railMove
  try dsimp only
  with_reducible
    repeat' first
      | assumption | apply State.updCluster_canonical | apply State.reachRail_canonical | apply State.railEnd_canonical
      | split

theorem State.coresOn_canonical (s : State) (k : Nat) (ns : List Nat) (hs : s.Canonical) : (State.coresOn s k ns).Canonical := by
  unfold State.coresOn
  try dsimp only
  with_reducible
    repeat' first
      | apply canonical_ite | assumption | apply State.clearCycs_canonical | apply State.updCluster_canonical

theorem State.coreSteps_canonical (s : State) (k : Nat) (z : List (Nat × Option Nat)) (hs : s.Canonical) : (State.coreSteps s k z).Canonical := by
  induction z generalizing s k with
  | nil =>
    unfold State.coreSteps
    try dsimp only
    with_reducible
      repeat' first
        | apply canonical_ite | assumption | apply State.updCluster_canonical | apply State.setEvt_canonical
  | cons z0 zr ih =>
    unfold State.coreSteps
    try dsimp only
    with_reducible
      repeat' first
        | apply ih | apply canonical_ite | assumption | apply State.updCluster_canonical | apply State.setEvt_canonical
        | apply State.coresOn_canonical

theorem State.railStep_canonical (s : State) (k : Nat) (hs : s.Canonical) : (State.railStep s k).Canonical := by
  unfold State.railStep
  try dsimp only
  with_reducible
    repeat' first
      | assumption | apply State.coreSteps_canonical | apply State.setEvt_canonical | apply State.updCluster_canonical
      | apply State.railMove_canonical | split

theorem State.stepWaitExpiry_canonical (s : State) (k : Nat) (hs : s.Canonical) : (State.stepWaitExpiry s k).Canonical := by
  unfold State.stepWaitExpiry
  try dsimp only
  with_reducible
    repeat' first
      | assumption | apply State.coresOn_canonical | apply State.railMove_canonical | split

theorem State.writeCore_canonical (s : State) (k : Nat) (v : Word) (hs : s.Canonical) : (State.writeCore s k v).Canonical := by
  unfold State.writeCore
  try dsimp only
  with_reducible
    repeat' first
      | apply canonical_ite | assumption | apply State.updCluster_canonical | apply State.clearCycs_canonical
      | apply State.coreSteps_canonical | apply State.setEvt_canonical

theorem State.writeDiv_canonical (s : State) (k : Nat) (row : Nat) (v : Word) (hs : s.Canonical) : (State.writeDiv s k row v).Canonical := by
  unfold State.writeDiv
  try dsimp only
  with_reducible
    repeat' first
      | assumption | apply State.updCluster_canonical

theorem State.powerWrite_canonical (s : State) (k : Nat) (off : Nat) (v : Word) (hs : s.Canonical) : (State.powerWrite s k off v).Canonical := by
  unfold State.powerWrite
  try dsimp only
  with_reducible
    repeat' first
      | assumption | apply State.writeQreq_canonical | apply State.writeRsave_canonical | apply State.updCluster_canonical
      | apply State.writeCgate_canonical | apply State.writeRail_canonical | apply State.writeCore_canonical
      | apply State.writeDiv_canonical | split

theorem State.returnItems_canonical (s : State) (die : Nat) (z : List TaskItem) (hs : s.Canonical) : (State.returnItems s die z).Canonical := by
  induction z generalizing s die with
  | nil =>
    unfold State.returnItems
    try dsimp only
    with_reducible
      repeat' first
        | apply canonical_ite | assumption | apply State.toScheduler_canonical | apply State.setEntry_canonical
        | apply State.noteEntry_canonical | apply State.updDie_canonical | (intro _) | dsimp +zetaDelta only
  | cons z0 zr ih =>
    unfold State.returnItems
    try dsimp only
    with_reducible
      repeat' first
        | assumption | apply State.toScheduler_canonical | apply State.setEntry_canonical | apply State.noteEntry_canonical
        | apply State.updDie_canonical | apply State.toFifo_canonical | split | (injections; subst_vars; apply ih)

theorem State.goDark_canonical (s : State) (k : Nat) (r : Nat) (hs : s.Canonical) : (State.goDark s k r).Canonical := by
  unfold State.goDark
  try dsimp only
  with_reducible
    repeat' first
      | apply canonical_ite | assumption | apply State.updCluster_canonical | apply State.setEvt_canonical
      | apply State.railEnd_canonical | apply State.halt_canonical | apply State.returnItems_canonical
      | apply State.updCore_canonical | apply State.tellSup_canonical | apply canonical_foldl | (intro _ _ _)

theorem State.phaseFails_canonical (s : State) (k : Nat) (r : Nat) (hs : s.Canonical) : (State.phaseFails s k r).Canonical := by
  unfold State.phaseFails
  try dsimp only
  with_reducible
    repeat' first
      | apply canonical_ite | assumption | apply State.setEvt_canonical | apply State.updCluster_canonical
      | apply State.goDark_canonical

theorem State.darkExpires_canonical (s : State) (k : Nat) (r : Nat) (hs : s.Canonical) : (State.darkExpires s k r).Canonical := by
  unfold State.darkExpires
  try dsimp only
  with_reducible
    repeat' first
      | apply canonical_ite | assumption | apply State.updCluster_canonical | apply State.startKill_canonical
      | apply canonical_foldl | (intro _ _ _)

theorem State.vexcl_canonical (s : State) (k : Nat) (hs : s.Canonical) : (State.vexcl s k).Canonical := by
  unfold State.vexcl
  try dsimp only
  with_reducible
    repeat' first
      | apply canonical_ite | assumption | apply State.updCluster_canonical | apply State.setEvt_canonical

theorem onCluster_canonical (k : Nat) (f : State → State) (s : State) (hf : ∀ (y0 : State), y0.Canonical → (f y0).Canonical) (hs : s.Canonical) : OutCanonical (onCluster k f s) := by
  unfold onCluster
  try dsimp only
  with_reducible
    repeat' first
      | apply canonical_ite | assumption | apply hf | apply OutCanonical.next

theorem execCpqreqWrite_canonical (cluster : Nat) (value : BitVec 64) (s : State) (hs : s.Canonical) : OutCanonical (execCpqreqWrite cluster value s) := by
  unfold execCpqreqWrite
  try dsimp only
  with_reducible
    repeat' first
      | assumption | apply onCluster_canonical | apply State.writeQreq_canonical | (intro _ _)

theorem execClusterQuiet_canonical (cluster : Nat) (s : State) (hs : s.Canonical) : OutCanonical (execClusterQuiet cluster s) := by
  unfold execClusterQuiet
  try dsimp only
  with_reducible
    repeat' first
      | assumption | apply onCluster_canonical | apply State.becomeQuiet_canonical | (intro _ _)

theorem execSave_canonical (cluster : Nat) (s : State) (hs : s.Canonical) : OutCanonical (execSave cluster s) := by
  unfold execSave
  try dsimp only
  with_reducible
    repeat' first
      | assumption | apply onCluster_canonical | apply State.writeRsave_canonical | (intro _ _)

theorem execRestore_canonical (cluster : Nat) (s : State) (hs : s.Canonical) : OutCanonical (execRestore cluster s) := by
  unfold execRestore
  try dsimp only
  with_reducible
    repeat' first
      | assumption | apply onCluster_canonical | apply State.writeRsave_canonical | (intro _ _)

theorem execSaveComplete_canonical (cluster : Nat) (s : State) (hs : s.Canonical) : OutCanonical (execSaveComplete cluster s) := by
  unfold execSaveComplete
  try dsimp only
  with_reducible
    repeat' first
      | assumption | apply onCluster_canonical | apply State.saveDone_canonical | (intro _ _)

theorem execRestoreComplete_canonical (cluster : Nat) (s : State) (hs : s.Canonical) : OutCanonical (execRestoreComplete cluster s) := by
  unfold execRestoreComplete
  try dsimp only
  with_reducible
    repeat' first
      | assumption | apply onCluster_canonical | apply State.restoreDone_canonical | (intro _ _)

theorem execCpcgateWrite_canonical (cluster : Nat) (value : BitVec 64) (s : State) (hs : s.Canonical) : OutCanonical (execCpcgateWrite cluster value s) := by
  unfold execCpcgateWrite
  try dsimp only
  with_reducible
    repeat' first
      | assumption | apply onCluster_canonical | apply State.writeCgate_canonical | (intro _ _)

theorem execCprailWrite_canonical (cluster : Nat) (value : BitVec 64) (s : State) (hs : s.Canonical) : OutCanonical (execCprailWrite cluster value s) := by
  unfold execCprailWrite
  try dsimp only
  with_reducible
    repeat' first
      | assumption | apply onCluster_canonical | apply State.writeRail_canonical | (intro _ _)

theorem execRailStep_canonical (cluster : Nat) (s : State) (hs : s.Canonical) : OutCanonical (execRailStep cluster s) := by
  unfold execRailStep
  try dsimp only
  with_reducible
    repeat' first
      | assumption | apply onCluster_canonical | apply State.railStep_canonical | (intro _ _)

theorem execStepWaitExpiry_canonical (cluster : Nat) (s : State) (hs : s.Canonical) : OutCanonical (execStepWaitExpiry cluster s) := by
  unfold execStepWaitExpiry
  try dsimp only
  with_reducible
    repeat' first
      | assumption | apply onCluster_canonical | apply State.stepWaitExpiry_canonical | (intro _ _)

theorem execCpcoreWrite_canonical (cluster : Nat) (value : BitVec 64) (s : State) (hs : s.Canonical) : OutCanonical (execCpcoreWrite cluster value s) := by
  unfold execCpcoreWrite
  try dsimp only
  with_reducible
    repeat' first
      | assumption | apply onCluster_canonical | apply State.writeCore_canonical | (intro _ _)

theorem execCpdivWrite_canonical (cluster : Nat) (row : Nat) (value : BitVec 64) (s : State) (hs : s.Canonical) : OutCanonical (execCpdivWrite cluster row value s) := by
  unfold execCpdivWrite
  try dsimp only
  with_reducible
    repeat' first
      | assumption | apply onCluster_canonical | apply State.writeDiv_canonical | (intro _ _)

theorem execWakereq_canonical (die : Nat) (cluster : Nat) (value : BitVec 64) (s : State) (hs : s.Canonical) : OutCanonical (execWakereq die cluster value s) := by
  unfold execWakereq
  try dsimp only
  with_reducible
    repeat' first
      | apply canonical_ite | assumption | apply onCluster_canonical | apply State.setWake_canonical | (intro _ _)

theorem execVexclWindow_canonical (cluster : Nat) (s : State) (hs : s.Canonical) : OutCanonical (execVexclWindow cluster s) := by
  unfold execVexclWindow
  try dsimp only
  with_reducible
    repeat' first
      | assumption | apply onCluster_canonical | apply State.vexcl_canonical | (intro _ _)

theorem execPhaseFailure_canonical (cluster : Nat) (row : Nat) (s : State) (hs : s.Canonical) : OutCanonical (execPhaseFailure cluster row s) := by
  unfold execPhaseFailure
  try dsimp only
  with_reducible
    repeat' first
      | apply canonical_ite | assumption | apply onCluster_canonical | apply State.phaseFails_canonical | (intro _ _)

theorem execDarkRowExpiry_canonical (cluster : Nat) (row : Nat) (s : State) (hs : s.Canonical) : OutCanonical (execDarkRowExpiry cluster row s) := by
  unfold execDarkRowExpiry
  try dsimp only
  with_reducible
    repeat' first
      | apply canonical_ite | assumption | apply onCluster_canonical | apply State.darkExpires_canonical | (intro _ _)

theorem execPwrinUpdate_canonical (value : BitVec 64) (s : State) (hs : s.Canonical) : OutCanonical (execPwrinUpdate value s) := by
  unfold execPwrinUpdate
  try dsimp only
  with_reducible
    repeat' first
      | assumption | apply State.updDie_canonical | apply OutCanonical.next

theorem execShuntUseChange_canonical (cluster : Nat) (sensor : Nat) (value : BitVec 64) (s : State) (hs : s.Canonical) : OutCanonical (execShuntUseChange cluster sensor value s) := by
  unfold execShuntUseChange
  try dsimp only
  with_reducible
    repeat' first
      | assumption | apply onCluster_canonical | apply State.updCluster_canonical | (intro _ _)

end Sys2Proof.Machine
end

