-- ==== Sys2Proof/Laws/CanonLinks.lean ====
section
/-!
SUPPORT. Sys2Proof/Laws/CanonLinks.lean: each operation of Machine/Links.lean keeps the canonical form of the state.
-/
namespace Sys2Proof.Machine

theorem State.updEnd_canonical (s : State) (d : Nat) (l : Nat) (f : Link → Link) (hs : s.Canonical) : (State.updEnd s d l f).Canonical := by
  unfold State.updEnd
  try dsimp only
  with_reducible
    repeat' first
      | assumption | apply State.updDie_canonical

theorem State.updLink_canonical (s : State) (d : Nat) (l : Nat) (f : Link → Link) (hs : s.Canonical) : (State.updLink s d l f).Canonical := by
  unfold State.updLink
  try dsimp only
  with_reducible
    repeat' first
      | assumption | apply State.updEnd_canonical

theorem State.writeLinkctl_canonical (s : State) (d : Nat) (l : Nat) (v : Word) (hs : s.Canonical) : (State.writeLinkctl s d l v).Canonical := by
  unfold State.writeLinkctl
  try dsimp only
  with_reducible
    repeat' first
      | apply canonical_ite | assumption | apply State.updEnd_canonical | apply State.updLink_canonical

theorem State.widthChange_canonical (s : State) (d : Nat) (l : Nat) (hs : s.Canonical) : (State.widthChange s d l).Canonical := by
  unfold State.widthChange
  try dsimp only
  with_reducible
    repeat' first
      | apply canonical_ite | assumption | apply State.updLink_canonical

theorem State.rateChange_canonical (s : State) (d : Nat) (l : Nat) (hs : s.Canonical) : (State.rateChange s d l).Canonical := by
  unfold State.rateChange
  try dsimp only
  with_reducible
    repeat' first
      | apply canonical_ite | assumption | apply State.updLink_canonical

theorem State.laneFails_canonical (s : State) (d : Nat) (l : Nat) (hs : s.Canonical) : (State.laneFails s d l).Canonical := by
  unfold State.laneFails
  try dsimp only
  with_reducible
    repeat' first
      | assumption | apply State.updLink_canonical

theorem State.trainLink_canonical (s : State) (d : Nat) (l : Nat) (hs : s.Canonical) : (State.trainLink s d l).Canonical := by
  unfold State.trainLink
  try dsimp only
  with_reducible
    repeat' first
      | apply canonical_ite | assumption | apply State.updLink_canonical

theorem State.trainLinks_canonical (s : State) (hs : s.Canonical) : (State.trainLinks s).Canonical := by
  unfold State.trainLinks
  try dsimp only
  with_reducible
    repeat' first
      | assumption | apply State.trainLink_canonical | apply canonical_foldl | (intro _ _ _)

theorem onLink_canonical (d : Nat) (l : Nat) (f : State → State) (s : State) (hf : ∀ (y0 : State), y0.Canonical → (f y0).Canonical) (hs : s.Canonical) : OutCanonical (onLink d l f s) := by
  unfold onLink
  try dsimp only
  with_reducible
    repeat' first
      | apply canonical_ite | assumption | apply hf | apply OutCanonical.next

theorem execLinkctlWrite_canonical (die : Nat) (link : Nat) (value : BitVec 64) (s : State) (hs : s.Canonical) : OutCanonical (execLinkctlWrite die link value s) := by
  unfold execLinkctlWrite
  try dsimp only
  with_reducible
    repeat' first
      | assumption | apply onLink_canonical | apply State.writeLinkctl_canonical | (intro _ _)

theorem execLinkWidthChange_canonical (die : Nat) (link : Nat) (s : State) (hs : s.Canonical) : OutCanonical (execLinkWidthChange die link s) := by
  unfold execLinkWidthChange
  try dsimp only
  with_reducible
    repeat' first
      | assumption | apply onLink_canonical | apply State.widthChange_canonical | (intro _ _)

theorem execLinkRateChange_canonical (die : Nat) (link : Nat) (s : State) (hs : s.Canonical) : OutCanonical (execLinkRateChange die link s) := by
  unfold execLinkRateChange
  try dsimp only
  with_reducible
    repeat' first
      | assumption | apply onLink_canonical | apply State.rateChange_canonical | (intro _ _)

theorem execLaneFailure_canonical (die : Nat) (link : Nat) (s : State) (hs : s.Canonical) : OutCanonical (execLaneFailure die link s) := by
  unfold execLaneFailure
  try dsimp only
  with_reducible
    repeat' first
      | assumption | apply onLink_canonical | apply State.laneFails_canonical | (intro _ _)

end Sys2Proof.Machine
end

