-- ==== Sys2Proof/Laws/CanonRegisters.lean ====
section
/-!
SUPPORT. Sys2Proof/Laws/CanonRegisters.lean: each operation of Machine/Registers.lean keeps the canonical form of the state.
-/
namespace Sys2Proof.Machine

theorem State.updQueue_canonical (s : State) (q : Nat) (f : HostQueue → HostQueue) (hs : s.Canonical) : (State.updQueue s q f).Canonical := by
  unfold State.updQueue
  try dsimp only
  with_reducible
    repeat' first
      | assumption | (simp only [canonical_mk]; apply canonical_fold)

theorem State.qtail_canonical (s : State) (k : Nat) (v : Word) (hs : s.Canonical) : (State.qtail s k v).Canonical := by
  unfold State.qtail
  try dsimp only
  with_reducible
    repeat' first
      | apply canonical_ite | assumption | apply State.updQueue_canonical | (simp only [canonical_mk]; apply canonical_fold)

theorem State.actNotifies_canonical (s : State) (z : List Notify) (hs : s.Canonical) : (State.actNotifies s z).Canonical := by
  induction z generalizing s with
  | nil =>
    unfold State.actNotifies
    try dsimp only
    with_reducible
      repeat' first
        | apply canonical_ite | assumption
  | cons z0 zr ih =>
    unfold State.actNotifies
    try dsimp only
    with_reducible
      repeat' first
        | apply ih | apply canonical_ite | assumption | apply State.updQueue_canonical

theorem State.hostWrote_canonical (s : State) (id : Nat) (hs : s.Canonical) : (State.hostWrote s id).Canonical := by
  unfold State.hostWrote
  try dsimp only
  with_reducible
    repeat' first
      | assumption | apply State.actNotifies_canonical | (simp only [canonical_mk]; apply canonical_fold)

theorem State.writeQueue_canonical (s : State) (sup : Bool) (k : Nat) (off : Nat) (v : Word) (hs : s.Canonical) : (State.writeQueue s sup k off v).Canonical := by
  unfold State.writeQueue
  try dsimp only
  with_reducible
    repeat' first
      | apply canonical_ite | assumption | apply State.qtail_canonical | apply State.updQueue_canonical

theorem State.setPeer_canonical (s : State) (p : Nat) (x : Peer) (hs : s.Canonical) : (State.setPeer s p x).Canonical := by
  unfold State.setPeer
  try dsimp only
  with_reducible
    repeat' first
      | assumption | (simp only [canonical_mk]; apply canonical_fold)

theorem State.supWrite_canonical (s : State) (d : Nat) (off : Nat) (v : Word) (hs : s.Canonical) : (State.supWrite s d off v).Canonical := by
  unfold State.supWrite
  try dsimp only
  with_reducible
    repeat' first
      | apply canonical_ite | assumption | apply State.updDie_canonical | apply State.writePcap_canonical
      | apply State.writePdrain_canonical | apply State.writeRtrip_canonical | apply State.writeRsense_canonical
      | apply State.writeRhyst_canonical | apply State.setWake_canonical | apply State.writeLinkctl_canonical
      | apply State.updEnd_canonical | apply State.setPeer_canonical | apply State.writeQueue_canonical | split
      | (simp only [canonical_mk]; apply canonical_fold)

theorem State.regWrite_canonical (s : State) (pa : Nat) (v : Word) (hs : s.Canonical) : (State.regWrite s pa v).Canonical := by
  unfold State.regWrite
  try dsimp only
  with_reducible
    repeat' first
      | assumption | apply State.supWrite_canonical | apply State.powerWrite_canonical | split

theorem State.actDevice_canonical (s : State) (a : Access) (write : Bool) (value : Word) (rd : Reg) (hs : s.Canonical) : (State.actDevice s a write value rd).Canonical := by
  unfold State.actDevice
  try dsimp only
  with_reducible
    repeat' first
      | apply canonical_ite | assumption | apply State.finish_canonical | apply State.regWrite_canonical
      | apply State.complete_canonical | apply State.acquireOf_canonical | apply State.wr_canonical

theorem State.bar0Write_canonical (s : State) (fn : Nat) (off : Nat) (v : Word) (hs : s.Canonical) : (State.bar0Write s fn off v).Canonical := by
  unfold State.bar0Write
  try dsimp only
  with_reducible
    repeat' first
      | apply canonical_ite | assumption | apply State.writeQueue_canonical
      | (simp only [canonical_mk]; apply canonical_fold)

theorem execRegisterWrite_canonical (pa : Nat) (value : BitVec 64) (s : State) (hs : s.Canonical) : OutCanonical (execRegisterWrite pa value s) := by
  unfold execRegisterWrite
  try dsimp only
  with_reducible
    repeat' first
      | assumption | apply State.bar0Write_canonical | apply State.regWrite_canonical | apply OutCanonical.next | split

end Sys2Proof.Machine
end

