-- ==== Sys2Proof/Laws/CanonRecords.lean ====
section
/-!
SUPPORT. Sys2Proof/Laws/CanonRecords.lean: each operation of Machine/Records.lean keeps the canonical form of the state.
-/
namespace Sys2Proof.Machine

theorem State.putRecord_canonical (s : State) (l : RecLoc) (ctx : BitVec 12) (va : Word) (i : Nat) (z : List Word) (hs : s.Canonical) : (State.putRecord s l ctx va i z).Canonical := by
  induction z generalizing s l ctx va i with
  | nil =>
    unfold State.putRecord
    try dsimp only
    with_reducible
      repeat' first
        | apply canonical_ite | assumption
  | cons z0 zr ih =>
    unfold State.putRecord
    try dsimp only
    with_reducible
      repeat' first
        | apply ih | assumption | apply State.devWord_canonical

theorem State.markStores_canonical (s : State) (tid : Nat) (r : Nat) (hs : s.Canonical) : (State.markStores s tid r).Canonical := by
  unfold State.markStores
  try dsimp only
  with_reducible
    repeat' first
      | assumption | apply State.updCore_canonical | apply State.updCluster_canonical
      | (simp only [canonical_mk]; apply canonical_fold)

theorem State.mapOwners_canonical (s : State) (f : JobOwner → JobOwner) (hs : s.Canonical) : (State.mapOwners s f).Canonical := by
  unfold State.mapOwners
  try dsimp only
  with_reducible
    repeat' first
      | assumption | apply State.updCluster_canonical | apply State.updDie_canonical | apply canonical_foldl | (intro _ _ _)

theorem State.saveJobs_canonical (s : State) (tid : Nat) (r : Nat) (hs : s.Canonical) : (State.saveJobs s tid r).Canonical := by
  unfold State.saveJobs
  try dsimp only
  with_reducible
    repeat' first
      | assumption | apply State.mapOwners_canonical

theorem State.loadJobs_canonical (s : State) (r : Nat) (tid : Nat) (level : Nat) (hs : s.Canonical) : (State.loadJobs s r tid level).Canonical := by
  unfold State.loadJobs
  try dsimp only
  with_reducible
    repeat' first
      | assumption | apply State.mapOwners_canonical

theorem State.mapHolders_canonical (s : State) (d : Nat) (f : Resv → Resv) (hs : s.Canonical) : (State.mapHolders s d f).Canonical := by
  unfold State.mapHolders
  try dsimp only
  with_reducible
    repeat' first
      | assumption | apply State.updDie_canonical

theorem State.saveResvs_canonical (s : State) (tid : Nat) (r : Nat) (hs : s.Canonical) : (State.saveResvs s tid r).Canonical := by
  unfold State.saveResvs
  try dsimp only
  with_reducible
    repeat' first
      | assumption | apply State.mapHolders_canonical

theorem State.loadResvs_canonical (s : State) (d : Nat) (r : Nat) (tid : Nat) (level : Nat) (hs : s.Canonical) : (State.loadResvs s d r tid level).Canonical := by
  unfold State.loadResvs
  try dsimp only
  with_reducible
    repeat' first
      | assumption | apply State.mapHolders_canonical

theorem State.dropSaved_canonical (s : State) (d : Nat) (r : Nat) (hs : s.Canonical) : (State.dropSaved s d r).Canonical := by
  unfold State.dropSaved
  try dsimp only
  with_reducible
    repeat' first
      | assumption | apply State.passAll_canonical | apply State.updPond_canonical | apply canonical_foldl | (intro _ _ _)

theorem State.holdMsg_canonical (s : State) (r : Nat) (m : Msg) (hs : s.Canonical) : OptOk (State.holdMsg s r m) := by
  unfold State.holdMsg
  try dsimp only
  with_reducible
    repeat' first
      | apply OptOk.ok_ite | apply OptOk.none | apply OptOk.some | assumption | apply State.devWord_canonical
      | apply State.putRecord_canonical

theorem State.takeMsg_canonical (s : State) (m : Msg) (hs : s.Canonical) : OptOk (State.takeMsg s m) := by
  unfold State.takeMsg
  try dsimp only
  with_reducible
    repeat' first
      | apply OptOk.ok_ite | assumption | apply State.holdMsg_canonical | apply State.accept_canonical

theorem execMs_canonical (n : Nat) (s : State) (hs : s.Canonical) : OutCanonical (execMs n s) := by
  unfold execMs
  try dsimp only
  with_reducible
    repeat' first
      | assumption | apply OptOk.of_some (e := by assumption) | apply State.takeMsg_canonical | apply OutCanonical.next
      | split | (simp only [canonical_mk]; apply canonical_fold)

theorem State.sendDone_canonical (s : State) (o : JobOwner) (kind : Nat) (tag : Nat) (status : Nat) (p : Vector Word 4) (hs : s.Canonical) : (State.sendDone s o kind tag status p).Canonical := by
  unfold State.sendDone
  try dsimp only
  with_reducible
    repeat' first
      | assumption | apply State.post_canonical

theorem State.arriveAll_canonical (s : State) (tid : Nat) (z : List Msg) (hs : s.Canonical) : (State.arriveAll s tid z).Canonical := by
  induction z generalizing s tid with
  | nil =>
    unfold State.arriveAll
    try dsimp only
    with_reducible
      repeat' first
        | apply canonical_ite | assumption
  | cons z0 zr ih =>
    unfold State.arriveAll
    try dsimp only
    with_reducible
      repeat' first
        | apply ih | assumption | apply State.arrive_canonical

theorem State.clearValid_canonical (s : State) (l : RecLoc) (by' : BitVec 12) (va : Word) (hs : s.Canonical) : (State.clearValid s l by' va).Canonical := by
  unfold State.clearValid
  try dsimp only
  with_reducible
    repeat' first
      | assumption | apply State.devWord_canonical

theorem State.takeRecord_canonical (s : State) (l : RecLoc) (by' : BitVec 12) (va : Word) (tid : Nat) (level : Nat) (t : Thread) (hs : s.Canonical) : (State.takeRecord s l by' va tid level t).Canonical := by
  unfold State.takeRecord
  try dsimp only
  with_reducible
    repeat' first
      | apply canonical_ite | assumption | apply State.clearValid_canonical | apply State.setThread_canonical
      | apply State.arriveAll_canonical | apply State.acceptFor_canonical | apply State.loadJobs_canonical
      | apply State.loadResvs_canonical | apply State.upd_canonical | apply State.dropSaved_canonical
      | (simp only [canonical_mk]; apply canonical_fold)

end Sys2Proof.Machine
end

