-- ==== Sys2Proof/Laws/CanonHelping.lean ====
section
/-!
SUPPORT. Sys2Proof/Laws/CanonHelping.lean: each operation of Machine/Helping.lean keeps the canonical form of the state.
-/
namespace Sys2Proof.Machine

theorem State.putFrame_canonical (s : State) (tid : Nat) (va : Word) (l : RecLoc) (ws : List Word) (hs : s.Canonical) : (State.putFrame s tid va l ws).Canonical := by
  unfold State.putFrame
  try dsimp only
  with_reducible
    repeat' first
      | assumption | apply State.putWords_canonical

theorem State.waitOn_canonical (s : State) (a : Access) (word : Nat) (hs : s.Canonical) : (State.waitOn s a word).Canonical := by
  unfold State.waitOn
  try dsimp only
  with_reducible
    repeat' first
      | assumption | apply State.enlist_canonical | apply State.upd_canonical | apply State.unclaim_canonical | split

theorem State.suspend_canonical (s : State) (tid : Nat) (hs : s.Canonical) : Sys2Proof.Machine.Suspended.Ok (State.suspend s tid) := by
  unfold State.suspend
  try dsimp only
  with_reducible
    repeat' first
      | apply Suspended.Ok.ok | apply Suspended.Ok.failed | assumption | apply State.abandon_canonical
      | apply State.spillAll_canonical_eq (heqn := by assumption) | apply State.noteFrame_canonical
      | apply State.unbind_canonical | apply State.putFrame_canonical | apply State.upd_canonical
      | apply State.cutDone_canonical | split

theorem State.adoptFault_canonical (s : State) (tid : Nat) (addr : Word) (hs : s.Canonical) : (State.adoptFault s tid addr).Canonical := by
  unfold State.adoptFault
  try dsimp only
  with_reducible
    repeat' first
      | assumption | apply State.deliver_canonical

theorem State.adoptPacket_canonical (s : State) (tid : Nat) (p : Packet) (hs : s.Canonical) : (State.adoptPacket s tid p).Canonical := by
  unfold State.adoptPacket
  try dsimp only
  with_reducible
    repeat' first
      | assumption | apply State.adoptFault_canonical | apply OptOk.of_some (e := by assumption)
      | apply State.claim_canonical | apply State.wake_canonical | apply State.upd_canonical | apply State.acquire_canonical
      | apply Suspended.of_ok (e := by assumption) | apply Suspended.of_failed (e := by assumption)
      | apply State.suspend_canonical | split

theorem State.adoptRecord_canonical (s : State) (tid : Nat) (h : Word) (w1 : Word) (epa : Nat) (hs : s.Canonical) : (State.adoptRecord s tid h w1 epa).Canonical := by
  unfold State.adoptRecord
  try dsimp only
  with_reducible
    repeat' first
      | assumption | apply State.upd_canonical | apply State.unclaim_canonical | apply State.adoptFault_canonical
      | apply OptOk.of_some (e := by assumption) | apply State.claim_canonical | apply State.wake_canonical
      | apply State.acquire_canonical | apply State.takeRecord_canonical | apply Suspended.of_ok (e := by assumption)
      | apply Suspended.of_failed (e := by assumption) | apply State.suspend_canonical | split

theorem State.help_canonical (s : State) (a : Access) (word : Nat) (h : Word) (hs : s.Canonical) : (State.help s a word h).Canonical := by
  unfold State.help
  try dsimp only
  with_reducible
    repeat' first
      | assumption | apply State.waitOn_canonical | apply State.trapOf_canonical | apply State.noteTask_canonical
      | apply State.noteBad_canonical | apply State.adoptPacket_canonical | apply State.adoptRecord_canonical | split

end Sys2Proof.Machine
end

