-- ==== Sys2Proof/Laws/CanonEngines.lean ====
section
/-!
SUPPORT. Sys2Proof/Laws/CanonEngines.lean: each operation of Machine/Engines.lean keeps the canonical form of the state.
-/
namespace Sys2Proof.Machine

theorem State.completeAll_canonical (s : State) (z : List Nat) (hs : s.Canonical) : (State.completeAll s z).Canonical := by
  induction z generalizing s with
  | nil =>
    unfold State.completeAll
    try dsimp only
    with_reducible
      repeat' first
        | apply canonical_ite | assumption
  | cons z0 zr ih =>
    unfold State.completeAll
    try dsimp only
    with_reducible
      repeat' first
        | apply ih | assumption | apply State.complete_canonical

theorem State.putTile_canonical (s : State) (k : Nat) (t : Nat) (x : Tile) (hs : s.Canonical) : (State.putTile s k t x).Canonical := by
  unfold State.putTile
  try dsimp only
  with_reducible
    repeat' first
      | apply canonical_ite | assumption | apply State.updCluster_canonical | apply State.completeAll_canonical

theorem State.settleTile_canonical (s : State) (k : Nat) (t : Nat) (hs : s.Canonical) : (State.settleTile s k t).Canonical := by
  unfold State.settleTile
  try dsimp only
  with_reducible
    repeat' first
      | apply canonical_ite | assumption | apply State.putTile_canonical

theorem State.pin_canonical (s : State) (k : Nat) (t : Nat) (hs : s.Canonical) : (State.pin s k t).Canonical := by
  unfold State.pin
  try dsimp only
  with_reducible
    repeat' first
      | assumption | apply State.putTile_canonical

theorem State.unpin_canonical (s : State) (k : Nat) (t : Nat) (hs : s.Canonical) : (State.unpin s k t).Canonical := by
  unfold State.unpin
  try dsimp only
  with_reducible
    repeat' first
      | assumption | apply State.settleTile_canonical | apply State.putTile_canonical

theorem State.setTileState_canonical (s : State) (k : Nat) (t : Nat) (st : BitVec 2) (latch : Bool) (hs : s.Canonical) : (State.setTileState s k t st latch).Canonical := by
  unfold State.setTileState
  try dsimp only
  with_reducible
    repeat' first
      | assumption | apply State.putTile_canonical

theorem State.updEngine_canonical (s : State) (k : Nat) (o : Nat) (f : Engine → Engine) (hs : s.Canonical) : (State.updEngine s k o f).Canonical := by
  unfold State.updEngine
  try dsimp only
  with_reducible
    repeat' first
      | assumption | apply State.updCluster_canonical

theorem State.updUnit_canonical (s : State) (u : Nat) (f : CopyUnit → CopyUnit) (hs : s.Canonical) : (State.updUnit s u f).Canonical := by
  unfold State.updUnit
  try dsimp only
  with_reducible
    repeat' first
      | apply canonical_ite | assumption | apply State.updCluster_canonical | apply State.updDie_canonical

theorem State.updJob_canonical (s : State) (u : Nat) (id : Nat) (f : CopyJob → CopyJob) (hs : s.Canonical) : (State.updJob s u id f).Canonical := by
  unfold State.updJob
  try dsimp only
  with_reducible
    repeat' first
      | assumption | apply State.updUnit_canonical

theorem State.noteFoot_canonical (s : State) (f : Foot) (hs : s.Canonical) : (State.noteFoot s f).Canonical := by
  unfold State.noteFoot
  try dsimp only
  with_reducible
    repeat' first
      | assumption | apply State.noteBad_canonical | split

theorem State.failJob_canonical (s : State) (u : Nat) (id : Nat) (st : Nat) (hs : s.Canonical) : (State.failJob s u id st).Canonical := by
  unfold State.failJob
  try dsimp only
  with_reducible
    repeat' first
      | assumption | apply State.updJob_canonical

theorem State.countRead_canonical (s : State) (u : Nat) (j : CopyJob) (pa : Nat) (n : Nat) (region : Option Nat) (hs : s.Canonical) : (State.countRead s u j pa n region).Canonical := by
  unfold State.countRead
  try dsimp only
  with_reducible
    repeat' first
      | assumption | apply State.count_canonical | apply State.updJob_canonical | split

theorem State.tagTile_canonical (s : State) (j : CopyJob) (tag : Option Nat) (hs : s.Canonical) : (State.tagTile s j tag).Canonical := by
  unfold State.tagTile
  try dsimp only
  with_reducible
    repeat' first
      | assumption | apply State.putTile_canonical | split

theorem State.rowKnown_canonical (s : State) (u : Nat) (id : Nat) (row : Nat) (hs : s.Canonical) : (State.rowKnown s u id row).Canonical := by
  unfold State.rowKnown
  try dsimp only
  with_reducible
    repeat' first
      | assumption | apply State.failJob_canonical | apply State.noteFoot_canonical | apply State.updJob_canonical | split

theorem State.readAt_canonical (s : State) (u : Nat) (j : CopyJob) (pa : Nat) (r : JobRead) (hs : s.Canonical) : (State.readAt s u j pa r).Canonical := by
  unfold State.readAt
  try dsimp only
  with_reducible
    repeat' first
      | apply canonical_ite | assumption | apply State.failJob_canonical | apply State.noteBad_canonical
      | apply State.countRead_canonical | apply State.updJob_canonical | apply State.tagTile_canonical
      | apply State.rowKnown_canonical

theorem State.engineRead_canonical (s : State) (u : Nat) (j : CopyJob) (n : Nat) (hs : s.Canonical) : (State.engineRead s u j n).Canonical := by
  unfold State.engineRead
  try dsimp only
  with_reducible
    repeat' first
      | assumption | apply State.failJob_canonical | apply State.setWake_canonical | apply State.readAt_canonical
      | apply State.updJob_canonical | apply State.enqueue_canonical | split

theorem State.readHere_canonical (s : State) (u : Nat) (id : Nat) (pa : Nat) (r : JobRead) (hs : s.Canonical) : (State.readHere s u id pa r).Canonical := by
  unfold State.readHere
  try dsimp only
  with_reducible
    repeat' first
      | assumption | apply State.readAt_canonical | apply State.updJob_canonical | split

theorem State.jobWrite_canonical (s : State) (ctx : BitVec 12) (w : JobWrite) (hs : s.Canonical) : (State.jobWrite s ctx w).1.Canonical := by
  unfold State.jobWrite
  try dsimp only
  with_reducible
    repeat' first
      | apply canonical_ite_fst | assumption | apply State.addLoss_canonical | apply State.noteBad_canonical
      | apply State.engineWrite_canonical

theorem State.jobWrite_canonical_eq {s : State} {ctx : BitVec 12} {w : JobWrite} (hs : s.Canonical) {s1 : State} {y : _} (heqn : State.jobWrite s ctx w = (s1, y)) : s1.Canonical := by
  have := State.jobWrite_canonical s ctx w hs
  rw [heqn] at this
  exact this

theorem State.updWork_canonical (s : State) (k : Nat) (o : Nat) (f : MatWork → MatWork) (hs : s.Canonical) : (State.updWork s k o f).Canonical := by
  unfold State.updWork
  try dsimp only
  with_reducible
    repeat' first
      | assumption | apply State.updEngine_canonical

theorem State.sendAck_canonical (s : State) (pkg : Nat) (cls : Nat) (hs : s.Canonical) : (State.sendAck s pkg cls).Canonical := by
  unfold State.sendAck
  try dsimp only
  with_reducible
    repeat' first
      | assumption | split | (simp only [canonical_mk]; apply canonical_fold)

theorem State.ackPort_canonical (s : State) (pkg : Nat) (hs : s.Canonical) : (State.ackPort s pkg).Canonical := by
  unfold State.ackPort
  try dsimp only
  with_reducible
    repeat' first
      | apply canonical_ite | assumption | apply State.sendAck_canonical | (simp only [canonical_mk]; apply canonical_fold)

theorem State.wrote_canonical (s : State) (u : Nat) (id : Nat) (sent : Bool) (ok : Bool) (hs : s.Canonical) : (State.wrote s u id sent ok).Canonical := by
  unfold State.wrote
  try dsimp only
  with_reducible
    repeat' first
      | apply canonical_ite | assumption | apply State.ackPort_canonical | apply State.updWork_canonical
      | apply State.updJob_canonical | apply State.failJob_canonical | (simp only [canonical_mk]; apply canonical_fold)

theorem State.writeHere_canonical (s : State) (u : Nat) (id : Nat) (ctx : BitVec 12) (w : JobWrite) (sent : Bool) (hs : s.Canonical) : (State.writeHere s u id ctx w sent).Canonical := by
  unfold State.writeHere
  try dsimp only
  with_reducible
    repeat' first
      | assumption | apply State.jobWrite_canonical | apply State.wrote_canonical

theorem State.creditHere_canonical (s : State) (u : Nat) (id : Nat) (pa : Nat) (ctx : BitVec 12) (va : Word) (n : Nat) (sent : Bool) (hs : s.Canonical) : (State.creditHere s u id pa ctx va n sent).Canonical := by
  unfold State.creditHere
  try dsimp only
  with_reducible
    repeat' first
      | apply canonical_ite | assumption | apply State.wrote_canonical | apply State.addLoss_canonical
      | apply State.noteBad_canonical | apply State.updJob_canonical | apply State.barrierCredit_canonical

theorem State.launched_canonical (s : State) (u : Nat) (id : Nat) (hs : s.Canonical) : (State.launched s u id).Canonical := by
  unfold State.launched
  try dsimp only
  with_reducible
    repeat' first
      | apply canonical_ite | assumption | apply State.updWork_canonical | apply State.updJob_canonical
      | (simp only [canonical_mk]; apply canonical_fold)

theorem State.issueWrite_canonical (s : State) (u : Nat) (id : Nat) (ctx : BitVec 12) (w : JobWrite) (take : State → State) (hs : s.Canonical) (htake : ∀ (y0 : State), y0.Canonical → (take y0).Canonical) : (State.issueWrite s u id ctx w take).Canonical := by
  unfold State.issueWrite
  try dsimp only
  with_reducible
    repeat' first
      | assumption | apply State.setWake_canonical | apply State.writeHere_canonical | apply State.enqueue_canonical
      | apply State.launched_canonical | apply htake | split

theorem State.toHost_canonical (s : State) (x : HostOut) (hs : s.Canonical) : (State.toHost s x).Canonical := by
  unfold State.toHost
  try dsimp only
  with_reducible
    repeat' first
      | assumption | (simp only [canonical_mk]; apply canonical_fold)

theorem State.hostBytes_canonical (s : State) (pa : Nat) (n : Nat) (hs : s.Canonical) : (State.hostBytes s pa n).1.Canonical := by
  unfold State.hostBytes
  try dsimp only
  with_reducible
    repeat' first
      | apply canonical_ite_fst | assumption | apply State.noteBad_canonical
      | (simp only [canonical_mk]; apply canonical_fold)

theorem State.hostBytes_canonical_eq {s : State} {pa : Nat} {n : Nat} (hs : s.Canonical) {s1 : State} {y : _} (heqn : State.hostBytes s pa n = (s1, y)) : s1.Canonical := by
  have := State.hostBytes_canonical s pa n hs
  rw [heqn] at this
  exact this

theorem State.hostReadHere_canonical (s : State) (id : Nat) (pa : Nat) (n : Nat) (hs : s.Canonical) : (State.hostReadHere s id pa n).Canonical := by
  unfold State.hostReadHere
  try dsimp only
  with_reducible
    repeat' first
      | assumption | apply State.toHost_canonical | apply State.hostBytes_canonical | split
      | (simp only [canonical_mk]; apply canonical_fold)

theorem State.hostWriteHere_canonical (s : State) (id : Nat) (pa : Nat) (bs : List Byte) (hs : s.Canonical) : (State.hostWriteHere s id pa bs).Canonical := by
  unfold State.hostWriteHere
  try dsimp only
  with_reducible
    repeat' first
      | apply canonical_ite | assumption | apply State.updDie_canonical | apply State.noteBad_canonical
      | apply State.serveAll_canonical | apply State.settleBits_canonical | apply State.putBytes_canonical
      | apply State.hostWrote_canonical

theorem State.matRead_canonical (s : State) (k : Nat) (o : Nat) (n : Nat) (hs : s.Canonical) : (State.matRead s k o n).Canonical := by
  unfold State.matRead
  try dsimp only
  with_reducible
    repeat' first
      | assumption | apply State.updWork_canonical | apply State.noteBad_canonical | split

theorem State.matWrite_canonical (s : State) (k : Nat) (o : Nat) (n : Nat) (ctx : BitVec 12) (hs : s.Canonical) : (State.matWrite s k o n ctx).Canonical := by
  unfold State.matWrite
  try dsimp only
  with_reducible
    repeat' first
      | assumption | apply State.issueWrite_canonical | apply State.updWork_canonical | (intro _ _) | split

end Sys2Proof.Machine
end

