-- ==== Sys2Proof/Laws/CanonAccess.lean ====
section
/-!
SUPPORT. Sys2Proof/Laws/CanonAccess.lean: each operation of Machine/Access.lean keeps the canonical form of the state.
-/
namespace Sys2Proof.Machine

theorem State.repark_canonical (s : State) (tid : Nat) (why : Park) (hs : s.Canonical) : (State.repark s tid why).Canonical := by
  unfold State.repark
  try dsimp only
  with_reducible
    repeat' first
      | assumption | apply State.upd_canonical

theorem State.actHere_canonical (s : State) (a : Access) (hs : s.Canonical) : (State.actHere s a).Canonical := by
  unfold State.actHere
  try dsimp only
  with_reducible
    repeat' first
      | assumption | apply State.actDevice_canonical | apply State.serveAll_canonical | apply State.dropAt_canonical
      | apply State.finish_canonical | apply State.emptyWords_canonical | apply State.repark_canonical
      | apply State.enlist_canonical | apply State.unclaim_canonical | apply State.help_canonical
      | apply State.accessTrap_canonical | apply Acted.of_done (e := by assumption)
      | apply Acted.of_help (e := by assumption) | apply Acted.of_phase (e := by assumption) | apply State.act_canonical
      | split

theorem State.performItem_canonical (s : State) (x : ChanItem) (hs : s.Canonical) : (State.performItem s x).Canonical := by
  unfold State.performItem
  try dsimp only
  with_reducible
    repeat' first
      | assumption | apply State.performStore_canonical | apply State.actHere_canonical | apply State.performPut_canonical
      | apply State.performUpdate_canonical | apply State.readHere_canonical | apply State.writeHere_canonical
      | apply State.creditHere_canonical | apply State.hostReadHere_canonical | apply State.hostWriteHere_canonical | split

theorem State.deliverHead_canonical (s : State) (d : Nat) (e : Nat) (hs : s.Canonical) : (State.deliverHead s d e).Canonical := by
  unfold State.deliverHead
  try dsimp only
  with_reducible
    repeat' first
      | assumption | apply State.setWake_canonical | apply State.performItem_canonical | split
      | (simp only [canonical_mk]; apply canonical_fold)

theorem State.deliverTimes_canonical (s : State) (d : Nat) (e : Nat) (z : Nat) (hs : s.Canonical) : (State.deliverTimes s d e z).Canonical := by
  induction z generalizing s d e with
  | zero =>
    unfold State.deliverTimes
    try dsimp only
    with_reducible
      repeat' first
        | apply canonical_ite | assumption
  | succ z0 ih =>
    unfold State.deliverTimes
    try dsimp only
    with_reducible
      repeat' first
        | apply ih | assumption | apply State.deliverHead_canonical

theorem State.drainChan_canonical (s : State) (d : Nat) (e : Nat) (hs : s.Canonical) : (State.drainChan s d e).Canonical := by
  unfold State.drainChan
  try dsimp only
  with_reducible
    repeat' first
      | assumption | apply State.deliverTimes_canonical

theorem execNd_canonical (src : Nat) (dst : Nat) (s : State) (hs : s.Canonical) : OutCanonical (execNd src dst s) := by
  unfold execNd
  try dsimp only
  with_reducible
    repeat' first
      | apply canonical_ite | assumption | apply State.deliverHead_canonical | apply OutCanonical.next

theorem State.flush_canonical (s : State) (tid : Nat) (z : List Nat) (hs : s.Canonical) : (State.flush s tid z).Canonical := by
  induction z generalizing s tid with
  | nil =>
    unfold State.flush
    try dsimp only
    with_reducible
      repeat' first
        | apply canonical_ite | assumption
  | cons z0 zr ih =>
    unfold State.flush
    try dsimp only
    with_reducible
      repeat' first
        | apply ih | assumption | apply State.deliverTimes_canonical

theorem State.release_canonical (s : State) (tid : Nat) (scope : Nat) (hs : s.Canonical) : (State.release s tid scope).1.Canonical := by
  unfold State.release
  try dsimp only
  with_reducible
    repeat' first
      | apply canonical_ite_fst | assumption | apply State.flush_canonical | apply State.qdAll_canonical
      | apply State.bdAll_canonical

theorem State.release_canonical_eq {s : State} {tid : Nat} {scope : Nat} (hs : s.Canonical) {s1 : State} {y : _} (heqn : State.release s tid scope = (s1, y)) : s1.Canonical := by
  have := State.release_canonical s tid scope hs
  rw [heqn] at this
  exact this

theorem State.sealTrap_canonical (s : State) (k : Nat) (x : Seal) (hs : s.Canonical) : (State.sealTrap s k x).Canonical := by
  unfold State.sealTrap
  try dsimp only
  with_reducible
    repeat' first
      | assumption | apply State.deliver_canonical

theorem State.releasing_canonical (s : State) (scope : Nat) (k : State → State) (hs : s.Canonical) (hk : ∀ (y0 : State), y0.Canonical → (k y0).Canonical) : (State.releasing s scope k).Canonical := by
  unfold State.releasing
  try dsimp only
  with_reducible
    repeat' first
      | assumption | apply State.release_canonical | apply State.sealTrap_canonical | apply State.parkAgain_canonical
      | apply hk | split

theorem State.releasingOpt_canonical (s : State) (scope : Option Nat) (k : State → State) (hs : s.Canonical) (hk : ∀ (y0 : State), y0.Canonical → (k y0).Canonical) : (State.releasingOpt s scope k).Canonical := by
  unfold State.releasingOpt
  try dsimp only
  with_reducible
    repeat' first
      | assumption | apply State.releasing_canonical | apply hk | split

theorem State.drainFor_canonical (s : State) (a : Access) (hs : s.Canonical) : (State.drainFor s a).Canonical := by
  unfold State.drainFor
  try dsimp only
  with_reducible
    repeat' first
      | assumption | apply State.drainWords_canonical | split

theorem State.direct_canonical (s : State) (q : Request) (t : Target) (drops : Nat) (op : HomeOp) (got : Table Byte) (hs : s.Canonical) : (State.direct s q t drops op got).Canonical := by
  unfold State.direct
  try dsimp only
  with_reducible
    repeat' first
      | apply canonical_ite | assumption | apply State.drainFor_canonical | apply State.parkMe_canonical
      | apply State.actHere_canonical | apply State.enqueue_canonical

theorem State.send_canonical (s : State) (q : Request) (t : Target) (drops : Nat) (hs : s.Canonical) : (State.send s q t drops).Canonical := by
  unfold State.send
  try dsimp only
  with_reducible
    repeat' first
      | assumption | apply State.retire_canonical | apply State.pushStore_canonical | apply State.direct_canonical | split

theorem State.sendChecked_canonical (s : State) (q : Request) (t : Target) (drops : Nat) (hs : s.Canonical) : (State.sendChecked s q t drops).Canonical := by
  unfold State.sendChecked
  try dsimp only
  with_reducible
    repeat' first
      | assumption | apply State.trap_canonical | apply State.parkAgain_canonical | apply State.releasingOpt_canonical
      | apply State.send_canonical | (intro _ _) | split

theorem State.access_canonical (s : State) (q : Request) (drops : Nat) (hs : s.Canonical) : (State.access s q drops).Canonical := by
  unfold State.access
  try dsimp only
  with_reducible
    repeat' first
      | assumption | apply State.trap_canonical | apply State.note14_canonical | apply State.sendChecked_canonical | split

theorem State.reachHome_canonical (s : State) (tid : Nat) (pa : Nat) (hs : s.Canonical) : (State.reachHome s tid pa).1.Canonical := by
  unfold State.reachHome
  try dsimp only
  with_reducible
    repeat' first
      | apply canonical_ite_fst | assumption | apply State.drainChan_canonical

theorem State.reachHome_canonical_eq {s : State} {tid : Nat} {pa : Nat} (hs : s.Canonical) {s1 : State} {y : _} (heqn : State.reachHome s tid pa = (s1, y)) : s1.Canonical := by
  have := State.reachHome_canonical s tid pa hs
  rw [heqn] at this
  exact this

theorem State.fillFault_canonical (s : State) (tid : Nat) (addr : Word) (hs : s.Canonical) : (State.fillFault s tid addr).Canonical := by
  unfold State.fillFault
  try dsimp only
  with_reducible
    repeat' first
      | assumption | apply State.abandon_canonical | apply State.deliver_canonical

theorem execWindowFill_canonical (tid : Nat) (s : State) (hs : s.Canonical) : OutCanonical (execWindowFill tid s) := by
  unfold execWindowFill
  try dsimp only
  with_reducible
    repeat' first
      | assumption | apply State.fillFault_canonical | apply State.noteFrame_canonical | apply State.reachHome_canonical
      | apply State.noteBad_canonical | apply State.upd_canonical | apply State.debit_canonical
      | apply State.finishRet_canonical | apply OutCanonical.next | split

theorem State.readRec_canonical (s : State) (va : Word) (n : Nat) (align : Nat) (hs : s.Canonical) : Sys2Proof.Machine.GotRec.Ok (State.readRec s va n align) := by
  unfold State.readRec
  try dsimp only
  with_reducible
    repeat' first
      | apply GotRec.Ok.ok | apply GotRec.Ok.trap | apply GotRec.Ok.wait | assumption | apply State.note14_canonical
      | apply State.reachHome_canonical | apply State.noteBad_canonical | split

theorem State.withRec_canonical (s : State) (va : Word) (n : Nat) (align : Nat) (k : List Word → Option Nat → State → State) (hs : s.Canonical) (hk : ∀ (y0 : List Word) (y1 : Option Nat) (y2 : State), y2.Canonical → (k y0 y1 y2).Canonical) : (State.withRec s va n align k).Canonical := by
  unfold State.withRec
  try dsimp only
  with_reducible
    repeat' first
      | assumption | apply State.trap_canonical | apply State.parkAgain_canonical | apply hk
      | apply GotRec.of_ok (e := by assumption) | apply GotRec.of_trap (e := by assumption)
      | apply GotRec.of_wait (e := by assumption) | apply State.readRec_canonical | split

theorem State.rebind_canonical (s : State) (tid : Nat) (b : BitVec 8) (hs : s.Canonical) : (State.rebind s tid b).Canonical := by
  unfold State.rebind
  try dsimp only
  with_reducible
    repeat' first
      | apply canonical_ite | assumption | apply State.bind_canonical

theorem State.popAdoption_canonical (s : State) (tid : Nat) (hs : s.Canonical) : (State.popAdoption s tid).Canonical := by
  unfold State.popAdoption
  try dsimp only
  with_reducible
    repeat' first
      | assumption | apply State.upd_canonical | apply State.deliver_canonical | apply State.noteFrame_canonical
      | apply State.reachHome_canonical | apply State.noteBad_canonical | apply State.rebind_canonical | split

end Sys2Proof.Machine
end

