-- ==== Sys2Proof/Laws/CanonAtomics.lean ====
section
/-!
SUPPORT. Sys2Proof/Laws/CanonAtomics.lean: each operation of Machine/Atomics.lean keeps the canonical form of the state.
-/
namespace Sys2Proof.Machine

theorem State.amo_canonical (s : State) (op : Nat) (a : Reg) (b : Reg) (r : Option RPfx) (is : IPfx) (m : Option MPfx) (hs : s.Canonical) : (State.amo s op a b r is m).Canonical := by
  unfold State.amo
  try dsimp only
  with_reducible
    repeat' first
      | assumption | apply State.access_canonical

theorem execAmoadd_canonical (a : Reg) (b : Reg) (r : Option RPfx) (is : IPfx) (m : Option MPfx) (s : State) (hs : s.Canonical) : OutCanonical (execAmoadd a b r is m s) := by
  unfold execAmoadd
  try dsimp only
  with_reducible
    repeat' first
      | assumption | apply State.amo_canonical | apply OutCanonical.next

theorem execAmoand_canonical (a : Reg) (b : Reg) (r : Option RPfx) (is : IPfx) (m : Option MPfx) (s : State) (hs : s.Canonical) : OutCanonical (execAmoand a b r is m s) := by
  unfold execAmoand
  try dsimp only
  with_reducible
    repeat' first
      | assumption | apply State.amo_canonical | apply OutCanonical.next

theorem execAmoor_canonical (a : Reg) (b : Reg) (r : Option RPfx) (is : IPfx) (m : Option MPfx) (s : State) (hs : s.Canonical) : OutCanonical (execAmoor a b r is m s) := by
  unfold execAmoor
  try dsimp only
  with_reducible
    repeat' first
      | assumption | apply State.amo_canonical | apply OutCanonical.next

theorem execAmoxor_canonical (a : Reg) (b : Reg) (r : Option RPfx) (is : IPfx) (m : Option MPfx) (s : State) (hs : s.Canonical) : OutCanonical (execAmoxor a b r is m s) := by
  unfold execAmoxor
  try dsimp only
  with_reducible
    repeat' first
      | assumption | apply State.amo_canonical | apply OutCanonical.next

theorem execAmomin_canonical (a : Reg) (b : Reg) (r : Option RPfx) (is : IPfx) (m : Option MPfx) (s : State) (hs : s.Canonical) : OutCanonical (execAmomin a b r is m s) := by
  unfold execAmomin
  try dsimp only
  with_reducible
    repeat' first
      | assumption | apply State.amo_canonical | apply OutCanonical.next

theorem execAmomax_canonical (a : Reg) (b : Reg) (r : Option RPfx) (is : IPfx) (m : Option MPfx) (s : State) (hs : s.Canonical) : OutCanonical (execAmomax a b r is m s) := by
  unfold execAmomax
  try dsimp only
  with_reducible
    repeat' first
      | assumption | apply State.amo_canonical | apply OutCanonical.next

theorem execAmominu_canonical (a : Reg) (b : Reg) (r : Option RPfx) (is : IPfx) (m : Option MPfx) (s : State) (hs : s.Canonical) : OutCanonical (execAmominu a b r is m s) := by
  unfold execAmominu
  try dsimp only
  with_reducible
    repeat' first
      | assumption | apply State.amo_canonical | apply OutCanonical.next

theorem execAmomaxu_canonical (a : Reg) (b : Reg) (r : Option RPfx) (is : IPfx) (m : Option MPfx) (s : State) (hs : s.Canonical) : OutCanonical (execAmomaxu a b r is m s) := by
  unfold execAmomaxu
  try dsimp only
  with_reducible
    repeat' first
      | assumption | apply State.amo_canonical | apply OutCanonical.next

theorem execAmoswp_canonical (a : Reg) (b : Reg) (r : Option RPfx) (is : IPfx) (m : Option MPfx) (s : State) (hs : s.Canonical) : OutCanonical (execAmoswp a b r is m s) := by
  unfold execAmoswp
  try dsimp only
  with_reducible
    repeat' first
      | assumption | apply State.amo_canonical | apply OutCanonical.next

theorem execCas_canonical (a : Reg) (b : Reg) (r : Option RPfx) (is : IPfx) (m : Option MPfx) (s : State) (hs : s.Canonical) : OutCanonical (execCas a b r is m s) := by
  unfold execCas
  try dsimp only
  with_reducible
    repeat' first
      | assumption | apply State.access_canonical | apply OutCanonical.next

theorem execVamo_canonical (a : Reg) (b : Reg) (r : Option RPfx) (is : IPfx) (m : Option MPfx) (s : State) (hs : s.Canonical) : OutCanonical (execVamo a b r is m s) := by
  unfold execVamo
  try dsimp only
  with_reducible
    repeat' first
      | apply canonical_ite | assumption | apply State.access_canonical | apply State.illegalType_canonical
      | apply OutCanonical.next

theorem execEmpty_canonical (a : Reg) (b : Reg) (is : IPfx) (m : Option MPfx) (s : State) (hs : s.Canonical) : OutCanonical (execEmpty a b is m s) := by
  unfold execEmpty
  try dsimp only
  with_reducible
    repeat' first
      | apply canonical_ite | assumption | apply State.retire_canonical | apply State.trap_canonical
      | apply State.access_canonical | apply OutCanonical.next

theorem execFinit_canonical (a : Reg) (b : Reg) (is : IPfx) (m : Option MPfx) (s : State) (hs : s.Canonical) : OutCanonical (execFinit a b is m s) := by
  unfold execFinit
  try dsimp only
  with_reducible
    repeat' first
      | assumption | apply State.access_canonical | apply OutCanonical.next

theorem execFwait_canonical (a : Reg) (b : Reg) (is : IPfx) (m : Option MPfx) (s : State) (hs : s.Canonical) : OutCanonical (execFwait a b is m s) := by
  unfold execFwait
  try dsimp only
  with_reducible
    repeat' first
      | assumption | apply State.access_canonical | apply OutCanonical.next

theorem execFput_canonical (a : Reg) (b : Reg) (is : IPfx) (m : Option MPfx) (s : State) (hs : s.Canonical) : OutCanonical (execFput a b is m s) := by
  unfold execFput
  try dsimp only
  with_reducible
    repeat' first
      | assumption | apply State.access_canonical | apply OutCanonical.next

theorem execLock_canonical (a : Reg) (b : Reg) (is : IPfx) (m : Option MPfx) (s : State) (hs : s.Canonical) : OutCanonical (execLock a b is m s) := by
  unfold execLock
  try dsimp only
  with_reducible
    repeat' first
      | assumption | apply State.access_canonical | apply OutCanonical.next

theorem execUnlock_canonical (a : Reg) (b : Reg) (is : IPfx) (m : Option MPfx) (s : State) (hs : s.Canonical) : OutCanonical (execUnlock a b is m s) := by
  unfold execUnlock
  try dsimp only
  with_reducible
    repeat' first
      | assumption | apply State.access_canonical | apply OutCanonical.next

theorem execQpush_canonical (a : Reg) (b : Reg) (is : IPfx) (m : Option MPfx) (s : State) (hs : s.Canonical) : OutCanonical (execQpush a b is m s) := by
  unfold execQpush
  try dsimp only
  with_reducible
    repeat' first
      | assumption | apply State.access_canonical | apply OutCanonical.next

theorem execQpop_canonical (a : Reg) (b : Reg) (is : IPfx) (m : Option MPfx) (s : State) (hs : s.Canonical) : OutCanonical (execQpop a b is m s) := by
  unfold execQpop
  try dsimp only
  with_reducible
    repeat' first
      | assumption | apply State.access_canonical | apply OutCanonical.next

theorem execQres_canonical (a : Reg) (b : Reg) (r : Option RPfx) (is : IPfx) (m : Option MPfx) (s : State) (hs : s.Canonical) : OutCanonical (execQres a b r is m s) := by
  unfold execQres
  try dsimp only
  with_reducible
    repeat' first
      | assumption | apply State.access_canonical | apply OutCanonical.next

theorem execJoini_canonical (a : Reg) (b : Reg) (r : Option RPfx) (is : IPfx) (m : Option MPfx) (s : State) (hs : s.Canonical) : OutCanonical (execJoini a b r is m s) := by
  unfold execJoini
  try dsimp only
  with_reducible
    repeat' first
      | assumption | apply State.access_canonical | apply OutCanonical.next

theorem execBari_canonical (a : Reg) (b : Reg) (r : Option RPfx) (is : IPfx) (m : Option MPfx) (s : State) (hs : s.Canonical) : OutCanonical (execBari a b r is m s) := by
  unfold execBari
  try dsimp only
  with_reducible
    repeat' first
      | assumption | apply State.access_canonical | apply OutCanonical.next

theorem execBar_canonical (a : Reg) (b : Reg) (is : IPfx) (m : Option MPfx) (s : State) (hs : s.Canonical) : OutCanonical (execBar a b is m s) := by
  unfold execBar
  try dsimp only
  with_reducible
    repeat' first
      | assumption | apply State.access_canonical | apply OutCanonical.next

end Sys2Proof.Machine
end

