-- ==== Sys2Proof/Laws/CanonBranch.lean ====
section
/-!
SUPPORT. Sys2Proof/Laws/CanonBranch.lean: each operation of Machine/Branch.lean keeps the canonical form of the state.
-/
namespace Sys2Proof.Machine

theorem State.jumpTo_canonical (s : State) (target : Word) (hs : s.Canonical) : (State.jumpTo s target).Canonical := by
  unfold State.jumpTo
  try dsimp only
  with_reducible
    repeat' first
      | apply canonical_ite | assumption | apply State.trap_canonical | apply State.goto_canonical
      | apply State.debit_canonical

theorem State.branch_canonical (s : State) (taken : Bool) (off : Word) (hs : s.Canonical) : (State.branch s taken off).Canonical := by
  unfold State.branch
  try dsimp only
  with_reducible
    repeat' first
      | apply canonical_ite | assumption | apply State.jumpTo_canonical | apply State.retire_canonical

theorem execBeqz_canonical (a : Reg) (b : Reg) (is : IPfx) (s : State) (hs : s.Canonical) : OutCanonical (execBeqz a b is s) := by
  unfold execBeqz
  try dsimp only
  with_reducible
    repeat' first
      | assumption | apply State.branch_canonical | apply OutCanonical.next

theorem execBnez_canonical (a : Reg) (b : Reg) (is : IPfx) (s : State) (hs : s.Canonical) : OutCanonical (execBnez a b is s) := by
  unfold execBnez
  try dsimp only
  with_reducible
    repeat' first
      | assumption | apply State.branch_canonical | apply OutCanonical.next

theorem execBltz_canonical (a : Reg) (b : Reg) (is : IPfx) (s : State) (hs : s.Canonical) : OutCanonical (execBltz a b is s) := by
  unfold execBltz
  try dsimp only
  with_reducible
    repeat' first
      | assumption | apply State.branch_canonical | apply OutCanonical.next

theorem execBgez_canonical (a : Reg) (b : Reg) (is : IPfx) (s : State) (hs : s.Canonical) : OutCanonical (execBgez a b is s) := by
  unfold execBgez
  try dsimp only
  with_reducible
    repeat' first
      | assumption | apply State.branch_canonical | apply OutCanonical.next

theorem execBeq_canonical (a : Reg) (b : Reg) (is : IPfx) (s : State) (hs : s.Canonical) : OutCanonical (execBeq a b is s) := by
  unfold execBeq
  try dsimp only
  with_reducible
    repeat' first
      | assumption | apply State.branch_canonical | apply OutCanonical.next

theorem execBne_canonical (a : Reg) (b : Reg) (is : IPfx) (s : State) (hs : s.Canonical) : OutCanonical (execBne a b is s) := by
  unfold execBne
  try dsimp only
  with_reducible
    repeat' first
      | assumption | apply State.branch_canonical | apply OutCanonical.next

theorem execBlt_canonical (a : Reg) (b : Reg) (is : IPfx) (s : State) (hs : s.Canonical) : OutCanonical (execBlt a b is s) := by
  unfold execBlt
  try dsimp only
  with_reducible
    repeat' first
      | assumption | apply State.branch_canonical | apply OutCanonical.next

theorem execBltu_canonical (a : Reg) (b : Reg) (is : IPfx) (s : State) (hs : s.Canonical) : OutCanonical (execBltu a b is s) := by
  unfold execBltu
  try dsimp only
  with_reducible
    repeat' first
      | assumption | apply State.branch_canonical | apply OutCanonical.next

theorem execJ_canonical (a : Reg) (b : Reg) (is : IPfx) (s : State) (hs : s.Canonical) : OutCanonical (execJ a b is s) := by
  unfold execJ
  try dsimp only
  with_reducible
    repeat' first
      | assumption | apply State.jumpTo_canonical | apply OutCanonical.next

theorem execCall_canonical (a : Reg) (b : Reg) (is : IPfx) (s : State) (hs : s.Canonical) : OutCanonical (execCall a b is s) := by
  unfold execCall
  try dsimp only
  with_reducible
    repeat' first
      | apply canonical_ite | assumption | apply State.trap_canonical | apply State.call_canonical | apply OutCanonical.next

theorem execCallr_canonical (_a : Reg) (b : Reg) (s : State) (hs : s.Canonical) : OutCanonical (execCallr _a b s) := by
  unfold execCallr
  try dsimp only
  with_reducible
    repeat' first
      | apply canonical_ite | assumption | apply State.trap_canonical | apply State.call_canonical | apply OutCanonical.next

theorem execJr_canonical (_a : Reg) (b : Reg) (s : State) (hs : s.Canonical) : OutCanonical (execJr _a b s) := by
  unfold execJr
  try dsimp only
  with_reducible
    repeat' first
      | assumption | apply State.jumpTo_canonical | apply OutCanonical.next

theorem execRet_canonical (_a : Reg) (_b : Reg) (s : State) (hs : s.Canonical) : OutCanonical (execRet _a _b s) := by
  unfold execRet
  try dsimp only
  with_reducible
    repeat' first
      | assumption | apply State.ret_canonical | apply OutCanonical.next

theorem execTret_canonical (_a : Reg) (_b : Reg) (s : State) (hs : s.Canonical) : OutCanonical (execTret _a _b s) := by
  unfold execTret
  try dsimp only
  with_reducible
    repeat' first
      | assumption | apply State.ret_canonical | apply OutCanonical.next

end Sys2Proof.Machine
end

