-- ==== Sys2Proof/Laws/CanonThreads.lean ====
section
/-!
SUPPORT. Sys2Proof/Laws/CanonThreads.lean: each operation of Machine/Threads.lean keeps the canonical form of the state.
-/
namespace Sys2Proof.Machine

theorem execFence_canonical (_a : Reg) (_b : Reg) (m : Option MPfx) (s : State) (hs : s.Canonical) : OutCanonical (execFence _a _b m s) := by
  unfold execFence
  try dsimp only
  with_reducible
    repeat' first
      | assumption | apply State.retire_canonical | apply State.acquire_canonical | apply State.sealTrap_canonical
      | apply State.releasing_canonical | apply OutCanonical.next | (intro _ _) | split

theorem State.sendFrame_canonical (s : State) (peer : Peer) (pkg : Nat) (cls : Nat) (dest : Word) (ctx : BitVec 12) (words : List Word) (bytes : Nat) (hs : s.Canonical) : (State.sendFrame s peer pkg cls dest ctx words bytes).Canonical := by
  unfold State.sendFrame
  try dsimp only
  with_reducible
    repeat' first
      | apply canonical_ite | assumption | (simp only [canonical_mk]; apply canonical_fold)

theorem execSend_canonical (a : Reg) (b : Reg) (s : State) (hs : s.Canonical) : OutCanonical (execSend a b s) := by
  unfold execSend
  try dsimp only
  with_reducible
    repeat' first
      | assumption | apply State.trap_canonical | apply State.releasing_canonical | apply State.parkAgain_canonical
      | apply State.retire_canonical | apply State.sendFrame_canonical | apply OptOk.of_some (e := by assumption)
      | apply State.accept_canonical | apply OptOk.none | apply OutCanonical.next | (intro _ _) | split

theorem execRecv_canonical (a : Reg) (_b : Reg) (s : State) (hs : s.Canonical) : OutCanonical (execRecv a _b s) := by
  unfold execRecv
  try dsimp only
  with_reducible
    repeat' first
      | assumption | apply State.parkAgain_canonical | apply State.updCore_canonical | apply State.refill_canonical
      | apply State.wrQuad_canonical | apply State.updMe_canonical | apply State.retire_canonical
      | apply State.acquire_canonical | apply OutCanonical.next | split

theorem execPeek_canonical (a : Reg) (_b : Reg) (r : Option RPfx) (s : State) (hs : s.Canonical) : OutCanonical (execPeek a _b r s) := by
  unfold execPeek
  try dsimp only
  with_reducible
    repeat' first
      | assumption | apply State.wr_canonical | apply State.retire_canonical | apply OutCanonical.next | split

theorem State.waitQuiet_canonical (s : State) (core : Nat) (w : Wake) (hs : s.Canonical) : (State.waitQuiet s core w).Canonical := by
  unfold State.waitQuiet
  try dsimp only
  with_reducible
    repeat' first
      | assumption | apply State.parkAgain_canonical | apply State.setWake_canonical

theorem execSpawn_canonical (a : Reg) (b : Reg) (is : IPfx) (s : State) (hs : s.Canonical) : OutCanonical (execSpawn a b is s) := by
  unfold execSpawn
  try dsimp only
  with_reducible
    repeat' first
      | apply canonical_ite | assumption | apply State.trap_canonical | apply State.releasing_canonical
      | apply State.waitQuiet_canonical | apply State.parkAgain_canonical | apply State.retire_canonical
      | apply State.updCore_canonical | apply OutCanonical.next | (intro _ _)

theorem execStartMessageAccept_canonical (tid : Nat) (s : State) (hs : s.Canonical) : OutCanonical (execStartMessageAccept tid s) := by
  unfold execStartMessageAccept
  try dsimp only
  with_reducible
    repeat' first
      | apply canonical_ite | assumption | apply State.wake_canonical | apply OutCanonical.next

theorem State.enqueueTask_canonical (s : State) (a : Reg) (core : Option Nat) (die : Nat) (sc : Nat) (ws : Vector Word 8) (hs : s.Canonical) : (State.enqueueTask s a core die sc ws).Canonical := by
  unfold State.enqueueTask
  try dsimp only
  with_reducible
    repeat' first
      | assumption | apply OptPairOk.of_some (e := by assumption) | apply State.allocTask_canonical
      | apply State.result_canonical | apply State.noteTasks_canonical | apply State.toCoreQueue_canonical
      | apply State.toScheduler_canonical | split

theorem execTask_canonical (a : Reg) (b : Reg) (r : Option RPfx) (is : IPfx) (s : State) (hs : s.Canonical) : OutCanonical (execTask a b r is s) := by
  unfold execTask
  try dsimp only
  with_reducible
    repeat' first
      | assumption | apply State.trap_canonical | apply State.releasing_canonical | apply State.withRec_canonical
      | apply State.waitQuiet_canonical | apply State.parkAgain_canonical | apply State.enqueueTask_canonical
      | apply State.count_canonical | apply OutCanonical.next | (intro _) | split

theorem State.holdRecord_canonical (s : State) (d : Nat) (r : LaunchRec) (hs : s.Canonical) : (State.holdRecord s d r).1.Canonical := by
  unfold State.holdRecord
  try dsimp only
  with_reducible
    repeat' first
      | assumption | apply State.updDie_canonical

theorem State.holdRecord_canonical_eq {s : State} {d : Nat} {r : LaunchRec} (hs : s.Canonical) {s1 : State} {y : _} (heqn : State.holdRecord s d r = (s1, y)) : s1.Canonical := by
  have := State.holdRecord_canonical s d r hs
  rw [heqn] at this
  exact this

theorem State.launchDone_canonical (s : State) (d : Nat) (n : Nat) (hs : s.Canonical) : (State.launchDone s d n).Canonical := by
  unfold State.launchDone
  try dsimp only
  with_reducible
    repeat' first
      | assumption | apply State.updDie_canonical | apply State.decrement_canonical | apply State.hostDone_canonical | split

theorem State.startRecords_canonical (s : State) (k : Nat) (z : List (Nat × Nat)) (hs : s.Canonical) : (State.startRecords s k z).Canonical := by
  induction z generalizing s k with
  | nil =>
    unfold State.startRecords
    try dsimp only
    with_reducible
      repeat' first
        | apply canonical_ite | assumption | apply State.updDie_canonical | apply State.launchDone_canonical | (intro _)
  | cons z0 zr ih =>
    unfold State.startRecords
    try dsimp only
    with_reducible
      repeat' first
        | apply ih | assumption | apply State.updDie_canonical | apply State.launchDone_canonical
        | apply State.toFifo_canonical | split

theorem State.countRec_canonical (s : State) (tid : Nat) (va : Word) (n : Nat) (hs : s.Canonical) : (State.countRec s tid va n).Canonical := by
  unfold State.countRec
  try dsimp only
  with_reducible
    repeat' first
      | assumption | apply State.count_canonical | split

theorem State.offer_canonical (s : State) (tid : Nat) (z : Nat) (hs : s.Canonical) : (State.offer s tid z).Canonical := by
  induction z generalizing s tid with
  | zero =>
    unfold State.offer
    try dsimp only
    with_reducible
      repeat' first
        | apply canonical_ite | assumption | apply State.complete_canonical | apply State.wr_canonical
        | apply State.startRecords_canonical | apply State.countRec_canonical
        | apply State.holdRecord_canonical_eq (heqn := by assumption) | (intro _)
  | succ z0 ih =>
    unfold State.offer
    try dsimp only
    with_reducible
      repeat' first
        | apply ih | assumption | apply State.complete_canonical | apply State.wr_canonical
        | apply State.startRecords_canonical | apply State.countRec_canonical | apply State.holdRecord_canonical
        | apply State.repark_canonical | split

theorem execLaunch_canonical (a : Reg) (b : Reg) (is : IPfx) (s : State) (hs : s.Canonical) : OutCanonical (execLaunch a b is s) := by
  unfold execLaunch
  try dsimp only
  with_reducible
    repeat' first
      | apply canonical_ite | assumption | apply State.trap_canonical | apply State.releasing_canonical
      | apply State.withRec_canonical | apply State.result_canonical | apply State.count_canonical
      | apply State.offer_canonical | apply State.parkMe_canonical | apply OutCanonical.next | (intro _)

theorem execLaunchAccept_canonical (tid : Nat) (s : State) (hs : s.Canonical) : OutCanonical (execLaunchAccept tid s) := by
  unfold execLaunchAccept
  try dsimp only
  with_reducible
    repeat' first
      | assumption | apply State.offer_canonical | apply OutCanonical.next

theorem State.unitDone_canonical (s : State) (u : Nat × Nat) (hs : s.Canonical) : (State.unitDone s u).Canonical := by
  unfold State.unitDone
  try dsimp only
  with_reducible
    repeat' first
      | assumption | apply State.updDie_canonical | apply State.launchDone_canonical | split

theorem State.quitTask_canonical (s : State) (ctr : Option Word) (hs : s.Canonical) : (State.quitTask s ctr).Canonical := by
  unfold State.quitTask
  try dsimp only
  with_reducible
    repeat' first
      | assumption | apply State.decrement_canonical | apply State.unitDone_canonical | apply State.markTask_canonical
      | apply State.unbind_canonical | apply State.lend_canonical | split

theorem State.freeSlot_canonical (s : State) (tid : Nat) (hs : s.Canonical) : (State.freeSlot s tid).Canonical := by
  unfold State.freeSlot
  try dsimp only
  with_reducible
    repeat' first
      | assumption | apply State.discardMsgs_canonical | apply State.acceptFor_canonical | apply State.lapse_canonical
      | apply State.cutDone_canonical | apply State.answerPreempts_canonical | apply State.setThread_canonical

theorem State.quitFrom_canonical (s : State) (ctr : Option Word) (hs : s.Canonical) : (State.quitFrom s ctr).Canonical := by
  unfold State.quitFrom
  try dsimp only
  with_reducible
    repeat' first
      | apply canonical_ite | assumption | apply State.releasing_canonical | apply State.debit_canonical
      | apply State.quitTask_canonical | apply State.popAdoption_canonical | apply State.freeSlot_canonical | (intro _ _)

theorem execQuit_canonical (a : Reg) (_b : Reg) (s : State) (hs : s.Canonical) : OutCanonical (execQuit a _b s) := by
  unfold execQuit
  try dsimp only
  with_reducible
    repeat' first
      | assumption | apply State.trap_canonical | apply State.note14_canonical | apply State.parkMe_canonical
      | apply State.quitFrom_canonical | apply OutCanonical.next | split

theorem State.quitAgain_canonical (s : State) (tid : Nat) (hs : s.Canonical) : (State.quitAgain s tid).Canonical := by
  unfold State.quitAgain
  try dsimp only
  with_reducible
    repeat' first
      | assumption | apply State.quitFrom_canonical | apply State.upd_canonical | split
      | (simp only [canonical_mk]; apply canonical_fold)

theorem execQbind_canonical (a : Reg) (_b : Reg) (s : State) (hs : s.Canonical) : OutCanonical (execQbind a _b s) := by
  unfold execQbind
  try dsimp only
  with_reducible
    repeat' first
      | apply canonical_ite | assumption | apply State.trap_canonical | apply State.retire_canonical
      | apply State.bind_canonical | apply OutCanonical.next

end Sys2Proof.Machine
end

