-- ==== Sys2Proof/Laws/CanonMatrix.lean ====
section
/-!
SUPPORT. Sys2Proof/Laws/CanonMatrix.lean: each operation of Machine/Matrix.lean keeps the canonical form of the state.
-/
namespace Sys2Proof.Machine

theorem State.tileTrap_canonical (s : State) (phys : Nat) (code : Nat) (role : Nat) (hs : s.Canonical) : (State.tileTrap s phys code role).Canonical := by
  unfold State.tileTrap
  try dsimp only
  with_reducible
    repeat' first
      | assumption | apply State.trap_canonical

theorem State.engineTrap_canonical (s : State) (code : Nat) (hs : s.Canonical) : (State.engineTrap s code).Canonical := by
  unfold State.engineTrap
  try dsimp only
  with_reducible
    repeat' first
      | assumption | apply State.trap_canonical

theorem State.withTile_canonical (s : State) (n : Nat) (role : Nat) (k : Nat → State) (hs : s.Canonical) (hk : ∀ (y0 : Nat), (k y0).Canonical) : (State.withTile s n role k).Canonical := by
  unfold State.withTile
  try dsimp only
  with_reducible
    repeat' first
      | assumption | apply State.tileTrap_canonical | apply hk | split

theorem State.tileWait_canonical (s : State) (t : Nat) (hs : s.Canonical) : (State.tileWait s t).Canonical := by
  unfold State.tileWait
  try dsimp only
  with_reducible
    repeat' first
      | assumption | apply State.parkAgain_canonical

theorem execTdef_canonical (a : Reg) (b : Reg) (is : IPfx) (s : State) (hs : s.Canonical) : OutCanonical (execTdef a b is s) := by
  unfold execTdef
  try dsimp only
  with_reducible
    repeat' first
      | apply canonical_ite | assumption | apply State.withTile_canonical | apply State.withRec_canonical
      | apply State.tileTrap_canonical | apply State.tileWait_canonical | apply State.retire_canonical
      | apply State.putTile_canonical | apply State.count_canonical | apply OutCanonical.next | (intro _)

theorem execTstat_canonical (a : Reg) (b : Reg) (s : State) (hs : s.Canonical) : OutCanonical (execTstat a b s) := by
  unfold execTstat
  try dsimp only
  with_reducible
    repeat' first
      | assumption | apply State.withTile_canonical | apply State.result_canonical | apply OutCanonical.next | (intro _)

theorem execTready_canonical (a : Reg) (_b : Reg) (s : State) (hs : s.Canonical) : OutCanonical (execTready a _b s) := by
  unfold execTready
  try dsimp only
  with_reducible
    repeat' first
      | assumption | apply State.withTile_canonical | apply State.tileTrap_canonical | apply State.releasing_canonical
      | apply State.retire_canonical | apply State.setTileState_canonical | apply State.tileWait_canonical
      | apply OutCanonical.next | (intro _) | split

theorem execTempty_canonical (a : Reg) (_b : Reg) (s : State) (hs : s.Canonical) : OutCanonical (execTempty a _b s) := by
  unfold execTempty
  try dsimp only
  with_reducible
    repeat' first
      | assumption | apply State.withTile_canonical | apply State.retire_canonical | apply State.tileWait_canonical
      | apply State.settleTile_canonical | apply State.setTileState_canonical | apply State.parkMe_canonical
      | apply OutCanonical.next | (intro _) | split

theorem State.acceptMat_canonical (s : State) (k : Nat) (o : Nat) (kind : MatKind) (td : Nat) (ta : Nat) (tb : Nat) (pins : List Nat) (notify : Bool) (drops : Nat) (hs : s.Canonical) : (State.acceptMat s k o kind td ta tb pins notify drops).1.Canonical := by
  unfold State.acceptMat
  try dsimp only
  with_reducible
    repeat' first
      | assumption | apply State.updEngine_canonical | apply State.debit_canonical | apply State.pin_canonical
      | apply canonical_foldl | (intro _ _ _)

theorem State.acceptMat_canonical_eq {s : State} {k : Nat} {o : Nat} {kind : MatKind} {td : Nat} {ta : Nat} {tb : Nat} {pins : List Nat} {notify : Bool} {drops : Nat} (hs : s.Canonical) {s1 : State} {y : _} (heqn : State.acceptMat s k o kind td ta tb pins notify drops = (s1, y)) : s1.Canonical := by
  have := State.acceptMat_canonical s k o kind td ta tb pins notify drops hs
  rw [heqn] at this
  exact this

theorem State.mma_canonical (s : State) (w : Word) (index : Option VWord) (notify : Bool) (go : State → Nat → Nat → Nat → State) (hs : s.Canonical) (hgo : ∀ (y0 : State) (y1 : Nat) (y2 : Nat) (y3 : Nat), y0.Canonical → (go y0 y1 y2 y3).Canonical) : (State.mma s w index notify go).Canonical := by
  unfold State.mma
  try dsimp only
  with_reducible
    repeat' first
      | apply canonical_ite | assumption | apply State.withTile_canonical | apply State.engineTrap_canonical
      | apply State.tileTrap_canonical | apply State.trap_canonical | apply State.tileWait_canonical
      | apply State.releasing_canonical | apply State.setTileState_canonical | apply State.acceptMat_canonical | apply hgo
      | (intro _) | split

theorem State.mmaQueued_canonical (s : State) (a : Reg) (index : Option VWord) (r : Option RPfx) (hs : s.Canonical) : (State.mmaQueued s a index r).Canonical := by
  unfold State.mmaQueued
  try dsimp only
  with_reducible
    repeat' first
      | assumption | apply State.mma_canonical | apply State.result_canonical | (intro _ _)

theorem State.mmaWait_canonical (s : State) (a : Reg) (index : Option VWord) (hs : s.Canonical) : (State.mmaWait s a index).Canonical := by
  unfold State.mmaWait
  try dsimp only
  with_reducible
    repeat' first
      | assumption | apply State.mma_canonical | apply State.parkMe_canonical | (intro _ _)

theorem execMma_canonical (a : Reg) (_b : Reg) (s : State) (hs : s.Canonical) : OutCanonical (execMma a _b s) := by
  unfold execMma
  try dsimp only
  with_reducible
    repeat' first
      | assumption | apply State.mmaWait_canonical | apply OutCanonical.next

theorem execMmaq_canonical (a : Reg) (_b : Reg) (r : Option RPfx) (s : State) (hs : s.Canonical) : OutCanonical (execMmaq a _b r s) := by
  unfold execMmaq
  try dsimp only
  with_reducible
    repeat' first
      | assumption | apply State.mmaQueued_canonical | apply OutCanonical.next

theorem execMmag_canonical (a : Reg) (b : Reg) (s : State) (hs : s.Canonical) : OutCanonical (execMmag a b s) := by
  unfold execMmag
  try dsimp only
  with_reducible
    repeat' first
      | assumption | apply State.mmaWait_canonical | apply OutCanonical.next

theorem execMmagq_canonical (a : Reg) (b : Reg) (r : Option RPfx) (s : State) (hs : s.Canonical) : OutCanonical (execMmagq a b r s) := by
  unfold execMmagq
  try dsimp only
  with_reducible
    repeat' first
      | assumption | apply State.mmaQueued_canonical | apply OutCanonical.next

theorem execMzero_canonical (a : Reg) (_b : Reg) (s : State) (hs : s.Canonical) : OutCanonical (execMzero a _b s) := by
  unfold execMzero
  try dsimp only
  with_reducible
    repeat' first
      | apply canonical_ite | assumption | apply State.withTile_canonical | apply State.tileTrap_canonical
      | apply State.tileWait_canonical | apply State.releasing_canonical | apply State.setTileState_canonical
      | apply State.acceptMat_canonical | apply State.parkMe_canonical | apply OutCanonical.next | (intro _)

theorem execMcvt_canonical (a : Reg) (_b : Reg) (s : State) (hs : s.Canonical) : OutCanonical (execMcvt a _b s) := by
  unfold execMcvt
  try dsimp only
  with_reducible
    repeat' first
      | assumption | apply State.withTile_canonical | apply State.engineTrap_canonical | apply State.tileTrap_canonical
      | apply State.tileWait_canonical | apply State.releasing_canonical | apply State.setTileState_canonical
      | apply State.acceptMat_canonical | apply State.parkMe_canonical | apply OutCanonical.next | (intro _) | split

theorem execJwait_canonical (a : Reg) (b : Reg) (s : State) (hs : s.Canonical) : OutCanonical (execJwait a b s) := by
  unfold execJwait
  try dsimp only
  with_reducible
    repeat' first
      | apply canonical_ite | assumption | apply State.result_canonical | apply State.acquire_canonical
      | apply State.parkMe_canonical | apply OutCanonical.next

theorem execJpoll_canonical (a : Reg) (b : Reg) (s : State) (hs : s.Canonical) : OutCanonical (execJpoll a b s) := by
  unfold execJpoll
  try dsimp only
  with_reducible
    repeat' first
      | apply canonical_ite | assumption | apply State.result_canonical | apply State.acquire_canonical
      | apply OutCanonical.next

theorem execWhint_canonical (_a : Reg) (_b : Reg) (s : State) (hs : s.Canonical) : OutCanonical (execWhint _a _b s) := by
  unfold execWhint
  try dsimp only
  with_reducible
    repeat' first
      | assumption | apply State.retire_canonical | apply State.updEngine_canonical | apply OutCanonical.next

theorem State.updRing_canonical (s : State) (k : Nat) (r : Nat) (f : Ring → Ring) (hs : s.Canonical) : (State.updRing s k r f).Canonical := by
  unfold State.updRing
  try dsimp only
  with_reducible
    repeat' first
      | assumption | apply State.updCluster_canonical

theorem execAmaxr_canonical (a : Reg) (b : Reg) (s : State) (hs : s.Canonical) : OutCanonical (execAmaxr a b s) := by
  unfold execAmaxr
  try dsimp only
  with_reducible
    repeat' first
      | apply canonical_ite | assumption | apply State.engineTrap_canonical | apply State.result_canonical
      | apply OutCanonical.next

theorem execAmaxc_canonical (a : Reg) (b : Reg) (s : State) (hs : s.Canonical) : OutCanonical (execAmaxc a b s) := by
  unfold execAmaxc
  try dsimp only
  with_reducible
    repeat' first
      | apply canonical_ite | assumption | apply State.engineTrap_canonical | apply State.retire_canonical
      | apply State.updRing_canonical | apply OutCanonical.next

theorem State.wakeJob_canonical (s : State) (id : Nat) (st : Nat) (z : List Nat) (hs : s.Canonical) : (State.wakeJob s id st z).Canonical := by
  induction z generalizing s id st with
  | nil =>
    unfold State.wakeJob
    try dsimp only
    with_reducible
      repeat' first
        | apply canonical_ite | assumption | apply State.complete_canonical | apply State.acquire_canonical
        | apply State.wr_canonical | (intro _)
  | cons z0 zr ih =>
    unfold State.wakeJob
    try dsimp only
    with_reducible
      repeat' first
        | apply ih | assumption | apply State.complete_canonical | apply State.acquire_canonical | apply State.wr_canonical
        | apply State.trapOf_canonical | split

theorem State.savedJobDone_canonical (s : State) (r : Nat) (k : Nat) (o : Nat) (id : Nat) (st : Nat) (hs : s.Canonical) : (State.savedJobDone s r k o id st).Canonical := by
  unfold State.savedJobDone
  try dsimp only
  with_reducible
    repeat' first
      | apply canonical_ite | assumption | apply State.devWord_canonical

theorem State.finishMat_canonical (s : State) (k : Nat) (o : Nat) (j : MatJob) (st : Nat) (hs : s.Canonical) : (State.finishMat s k o j st).Canonical := by
  unfold State.finishMat
  try dsimp only
  with_reducible
    repeat' first
      | assumption | apply State.updEngine_canonical | apply State.unpin_canonical | apply State.applyOf_canonical
      | apply State.sendDone_canonical | apply State.savedJobDone_canonical | apply State.upd_canonical
      | apply State.wakeJob_canonical | split

theorem State.askBase_canonical (s : State) (k : Nat) (leap : Bool) (hs : s.Canonical) : (State.askBase s k leap).Canonical := by
  unfold State.askBase
  try dsimp only
  with_reducible
    repeat' first
      | assumption | apply State.updCluster_canonical

theorem State.startWork_canonical (s : State) (k : Nat) (o : Nat) (j : MatJob) (phase : MatPhase) (reads : List Nat) (writes : List JobWrite) (hs : s.Canonical) : (State.startWork s k o j phase reads writes).Canonical := by
  unfold State.startWork
  try dsimp only
  with_reducible
    repeat' first
      | assumption | apply State.updEngine_canonical | apply State.askBase_canonical

theorem onEngine_canonical (cluster : Nat) (octet : Nat) (f : State → MatJob → State) (s : State) (hf : ∀ (y0 : State) (y1 : MatJob), y0.Canonical → (f y0 y1).Canonical) (hs : s.Canonical) : OutCanonical (onEngine cluster octet f s) := by
  unfold onEngine
  try dsimp only
  with_reducible
    repeat' first
      | assumption | apply State.setWake_canonical | apply hf | apply OutCanonical.next | split

theorem State.runMma_canonical (s : State) (k : Nat) (o : Nat) (j : MatJob) (w : MatWork) (hs : s.Canonical) : (State.runMma s k o j w).Canonical := by
  unfold State.runMma
  try dsimp only
  with_reducible
    repeat' first
      | assumption | apply State.count_canonical | apply State.updEngine_canonical | apply canonical_foldl | (intro _ _ _)

theorem execMatrixJobRun_canonical (cluster : Nat) (octet : Nat) (s : State) (hs : s.Canonical) : OutCanonical (execMatrixJobRun cluster octet s) := by
  unfold execMatrixJobRun
  try dsimp only
  with_reducible
    repeat' first
      | assumption | apply onEngine_canonical | apply State.startWork_canonical | apply State.runMma_canonical
      | apply State.updEngine_canonical | (intro _ _ _) | split

theorem State.finishAll_canonical (s : State) (k : Nat) (o : Nat) (st : Option Nat) (z : List MatJob) (hs : s.Canonical) : (State.finishAll s k o st z).Canonical := by
  induction z generalizing s k o st with
  | nil =>
    unfold State.finishAll
    try dsimp only
    with_reducible
      repeat' first
        | apply canonical_ite | assumption
  | cons z0 zr ih =>
    unfold State.finishAll
    try dsimp only
    with_reducible
      repeat' first
        | apply ih | assumption | apply State.finishMat_canonical

theorem State.writeBack_canonical (s : State) (k : Nat) (o : Nat) (hs : s.Canonical) : (State.writeBack s k o).Canonical := by
  unfold State.writeBack
  try dsimp only
  with_reducible
    repeat' first
      | assumption | apply State.updEngine_canonical | apply State.finishAll_canonical | apply State.setTileState_canonical
      | split

theorem execChainWriteback_canonical (cluster : Nat) (octet : Nat) (s : State) (hs : s.Canonical) : OutCanonical (execChainWriteback cluster octet s) := by
  unfold execChainWriteback
  try dsimp only
  with_reducible
    repeat' first
      | apply canonical_ite | assumption | apply State.writeBack_canonical | apply OutCanonical.next

theorem execMzeroJob_canonical (cluster : Nat) (octet : Nat) (s : State) (hs : s.Canonical) : OutCanonical (execMzeroJob cluster octet s) := by
  unfold execMzeroJob
  try dsimp only
  with_reducible
    repeat' first
      | assumption | apply onEngine_canonical | apply State.startWork_canonical | apply State.finishMat_canonical
      | apply State.setTileState_canonical | (intro _ _ _) | split

theorem State.convertTile_canonical (s : State) (k : Nat) (o : Nat) (j : MatJob) (w : MatWork) (hs : s.Canonical) : (State.convertTile s k o j w).Canonical := by
  unfold State.convertTile
  try dsimp only
  with_reducible
    repeat' first
      | assumption | apply State.updRing_canonical | apply State.updWork_canonical

theorem State.endMcvt_canonical (s : State) (k : Nat) (o : Nat) (j : MatJob) (st : Nat) (hs : s.Canonical) : (State.endMcvt s k o j st).Canonical := by
  unfold State.endMcvt
  try dsimp only
  with_reducible
    repeat' first
      | assumption | apply State.finishMat_canonical | apply State.setTileState_canonical

theorem State.storeScale_canonical (s : State) (k : Nat) (o : Nat) (j : MatJob) (w : MatWork) (hs : s.Canonical) : (State.storeScale s k o j w).Canonical := by
  unfold State.storeScale
  try dsimp only
  with_reducible
    repeat' first
      | assumption | apply State.putTile_canonical | apply State.endMcvt_canonical | apply State.note14_canonical
      | apply State.updWork_canonical | split

theorem execMcvtJob_canonical (cluster : Nat) (octet : Nat) (s : State) (hs : s.Canonical) : OutCanonical (execMcvtJob cluster octet s) := by
  unfold execMcvtJob
  try dsimp only
  with_reducible
    repeat' first
      | assumption | apply onEngine_canonical | apply State.startWork_canonical | apply State.endMcvt_canonical
      | apply State.convertTile_canonical | apply State.storeScale_canonical | (intro _ _ _) | split

theorem State.onWork_canonical (s : State) (k : Nat) (o : Nat) (f : State → MatJob → MatWork → State) (hs : s.Canonical) (hf : ∀ (y0 : State) (y1 : MatJob) (y2 : MatWork), y0.Canonical → (f y0 y1 y2).Canonical) : (State.onWork s k o f).Canonical := by
  unfold State.onWork
  try dsimp only
  with_reducible
    repeat' first
      | assumption | apply State.askBase_canonical | apply State.setWake_canonical | apply hf | split

theorem State.matEr_canonical (s : State) (k : Nat) (o : Nat) (n : Nat) (hs : s.Canonical) : (State.matEr s k o n).Canonical := by
  unfold State.matEr
  try dsimp only
  with_reducible
    repeat' first
      | assumption | apply State.onWork_canonical | apply State.matRead_canonical | (intro _ _ _)

theorem State.matEw_canonical (s : State) (k : Nat) (o : Nat) (n : Nat) (hs : s.Canonical) : (State.matEw s k o n).Canonical := by
  unfold State.matEw
  try dsimp only
  with_reducible
    repeat' first
      | assumption | apply State.onWork_canonical | apply State.matWrite_canonical | (intro _ _ _)

theorem execRunAhead_canonical (cluster : Nat) (octet : Nat) (s : State) (hs : s.Canonical) : OutCanonical (execRunAhead cluster octet s) := by
  unfold execRunAhead
  try dsimp only
  with_reducible
    repeat' first
      | apply canonical_ite | assumption | apply State.updEngine_canonical | apply OutCanonical.next

theorem execEngineIdleGate_canonical (cluster : Nat) (octet : Nat) (s : State) (hs : s.Canonical) : OutCanonical (execEngineIdleGate cluster octet s) := by
  unfold execEngineIdleGate
  try dsimp only
  with_reducible
    repeat' first
      | apply canonical_ite | assumption | apply State.updEngine_canonical | apply OutCanonical.next

theorem execEngineSwitchOn_canonical (cluster : Nat) (octet : Nat) (s : State) (hs : s.Canonical) : OutCanonical (execEngineSwitchOn cluster octet s) := by
  unfold execEngineSwitchOn
  try dsimp only
  with_reducible
    repeat' first
      | apply canonical_ite | assumption | apply State.updCluster_canonical | apply State.updEngine_canonical
      | apply OutCanonical.next

end Sys2Proof.Machine
end

