-- ==== Sys2Proof/Laws/CanonCopy.lean ====
section
/-!
SUPPORT. Sys2Proof/Laws/CanonCopy.lean: each operation of Machine/Copy.lean keeps the canonical form of the state.
-/
namespace Sys2Proof.Machine

theorem State.recTrap_canonical (s : State) (i : Nat) (pa : Nat) (hs : s.Canonical) : (State.recTrap s i pa).Canonical := by
  unfold State.recTrap
  try dsimp only
  with_reducible
    repeat' first
      | assumption | apply State.trap_canonical | apply State.noteBad_canonical

theorem State.withEntry_canonical (s : State) (h : Word) (stale : State) (k : Nat → State) (hs : s.Canonical) (hstale : stale.Canonical) (hk : ∀ (y0 : Nat), (k y0).Canonical) : (State.withEntry s h stale k).Canonical := by
  unfold State.withEntry
  try dsimp only
  with_reducible
    repeat' first
      | assumption | apply State.recTrap_canonical | apply hk | split

theorem State.devWords_canonical (s : State) (ctx : BitVec 12) (va : Word) (a : Nat) (z : List Word) (hs : s.Canonical) : (State.devWords s ctx va a z).Canonical := by
  induction z generalizing s ctx va a with
  | nil =>
    unfold State.devWords
    try dsimp only
    with_reducible
      repeat' first
        | apply canonical_ite | assumption
  | cons z0 zr ih =>
    unfold State.devWords
    try dsimp only
    with_reducible
      repeat' first
        | apply ih | assumption | apply State.devWord_canonical

theorem State.countAll_canonical (s : State) (z : Counts) (hs : s.Canonical) : (State.countAll s z).Canonical := by
  induction z generalizing s with
  | nil =>
    unfold State.countAll
    try dsimp only
    with_reducible
      repeat' first
        | apply canonical_ite | assumption
  | cons z0 zr ih =>
    unfold State.countAll
    try dsimp only
    with_reducible
      repeat' first
        | apply ih | assumption | apply State.count_canonical

theorem State.refuseJob_canonical (s : State) (a : Reg) (counts : Counts) (st : Nat) (hs : s.Canonical) : (State.refuseJob s a counts st).Canonical := by
  unfold State.refuseJob
  try dsimp only
  with_reducible
    repeat' first
      | assumption | apply State.result_canonical | apply State.countAll_canonical

theorem State.acceptJob_canonical (s : State) (u : Nat) (a : Reg) (counts : Counts) (j : CopyJob) (hs : s.Canonical) : (State.acceptJob s u a counts j).Canonical := by
  unfold State.acceptJob
  try dsimp only
  with_reducible
    repeat' first
      | assumption | apply State.putTile_canonical | apply State.setTileState_canonical | apply State.addInflight_canonical
      | apply State.updUnit_canonical | apply State.result_canonical | apply State.countAll_canonical | split

theorem State.issueJob_canonical (s : State) (u : Nat) (cap : Nat) (a : Reg) (counts : Counts) (j : CopyJob) (hs : s.Canonical) : (State.issueJob s u cap a counts j).Canonical := by
  unfold State.issueJob
  try dsimp only
  with_reducible
    repeat' first
      | assumption | apply State.tileTrap_canonical | apply State.refuseJob_canonical | apply State.noteFoot_canonical
      | apply State.tileWait_canonical | apply State.releasing_canonical | apply State.acceptJob_canonical | (intro _ _)
      | split

theorem execCopy_canonical (a : Reg) (b : Reg) (is : IPfx) (s : State) (hs : s.Canonical) : OutCanonical (execCopy a b is s) := by
  unfold execCopy
  try dsimp only
  with_reducible
    repeat' first
      | apply canonical_ite | assumption | apply State.withRec_canonical | apply State.refuseJob_canonical
      | apply State.issueJob_canonical | apply OutCanonical.next | (intro _)

theorem execCopyh_canonical (a : Reg) (b : Reg) (s : State) (hs : s.Canonical) : OutCanonical (execCopyh a b s) := by
  unfold execCopyh
  try dsimp only
  with_reducible
    repeat' first
      | apply canonical_ite | assumption | apply State.withEntry_canonical | apply State.refuseJob_canonical
      | apply State.recTrap_canonical | apply State.issueJob_canonical | apply OutCanonical.next | (intro _)

theorem execHreg_canonical (a : Reg) (b : Reg) (is : IPfx) (s : State) (hs : s.Canonical) : OutCanonical (execHreg a b is s) := by
  unfold execHreg
  try dsimp only
  with_reducible
    repeat' first
      | assumption | apply State.withRec_canonical | apply State.count_canonical | apply State.result_canonical
      | apply State.recTrap_canonical | apply State.devWords_canonical | apply State.devWord_canonical
      | apply OutCanonical.next | (intro _) | split

theorem execHfree_canonical (a : Reg) (b : Reg) (s : State) (hs : s.Canonical) : OutCanonical (execHfree a b s) := by
  unfold execHfree
  try dsimp only
  with_reducible
    repeat' first
      | assumption | apply State.withEntry_canonical | apply State.result_canonical | apply State.devWord_canonical
      | apply OutCanonical.next | (intro _)

theorem execHchk_canonical (a : Reg) (b : Reg) (s : State) (hs : s.Canonical) : OutCanonical (execHchk a b s) := by
  unfold execHchk
  try dsimp only
  with_reducible
    repeat' first
      | assumption | apply State.withEntry_canonical | apply State.result_canonical | apply OutCanonical.next | (intro _)

theorem State.readTable_canonical (s : State) (va : Word) (z : Nat) (z2 : List Word) (z3 : Counts) (z4 : List Word → Counts → State → State) (hs : s.Canonical) (hz4 : ∀ (y0 : List Word) (y1 : Counts) (y2 : State), y2.Canonical → (z4 y0 y1 y2).Canonical) : (State.readTable s va z z2 z3 z4).Canonical := by
  induction z generalizing s va z2 z3 with
  | zero =>
    unfold State.readTable
    try dsimp only
    with_reducible
      repeat' first
        | apply canonical_ite | assumption | apply hz4 | apply OutCanonical.next
  | succ z0 ih =>
    unfold State.readTable
    try dsimp only
    with_reducible
      repeat' first
        | apply ih | assumption | apply State.withRec_canonical | apply canonical_foldl | (intro _ _ _)

theorem State.stencil_canonical (s : State) (kind : CopyKind) (a : Reg) (b : Reg) (is : IPfx) (hs : s.Canonical) : (State.stencil s kind a b is).Canonical := by
  unfold State.stencil
  try dsimp only
  with_reducible
    repeat' first
      | apply canonical_ite | assumption | apply State.withRec_canonical | apply State.refuseJob_canonical
      | apply State.readTable_canonical | apply State.issueJob_canonical | (intro _)

theorem execStxr_canonical (a : Reg) (b : Reg) (is : IPfx) (s : State) (hs : s.Canonical) : OutCanonical (execStxr a b is s) := by
  unfold execStxr
  try dsimp only
  with_reducible
    repeat' first
      | assumption | apply State.stencil_canonical | apply OutCanonical.next

theorem execStxp_canonical (a : Reg) (b : Reg) (is : IPfx) (s : State) (hs : s.Canonical) : OutCanonical (execStxp a b is s) := by
  unfold execStxp
  try dsimp only
  with_reducible
    repeat' first
      | assumption | apply State.stencil_canonical | apply OutCanonical.next

theorem State.settleJob_canonical (s : State) (j : CopyJob) (st : Nat) (hs : s.Canonical) : (State.settleJob s j st).Canonical := by
  unfold State.settleJob
  try dsimp only
  with_reducible
    repeat' first
      | assumption | apply State.putTile_canonical | apply State.addInflight_canonical | split

theorem State.endJob_canonical (s : State) (u : Nat) (j : CopyJob) (st : Nat) (hs : s.Canonical) : (State.endJob s u j st).Canonical := by
  unfold State.endJob
  try dsimp only
  with_reducible
    repeat' first
      | apply canonical_ite | assumption | apply State.settleJob_canonical | apply State.applyOf_canonical
      | apply State.updUnit_canonical | apply State.sendDone_canonical

theorem execCancel_canonical (a : Reg) (b : Reg) (s : State) (hs : s.Canonical) : OutCanonical (execCancel a b s) := by
  unfold execCancel
  try dsimp only
  with_reducible
    repeat' first
      | assumption | apply State.result_canonical | apply State.updJob_canonical | apply State.settleJob_canonical
      | apply OutCanonical.next | split

theorem State.creditJob_canonical (s : State) (u : Nat) (j : CopyJob) (n : Nat) (hs : s.Canonical) : (State.creditJob s u j n).Canonical := by
  unfold State.creditJob
  try dsimp only
  with_reducible
    repeat' first
      | assumption | apply State.creditHere_canonical | apply State.enqueue_canonical | apply State.launched_canonical
      | split

theorem State.chunkDone_canonical (s : State) (u : Nat) (j : CopyJob) (hs : s.Canonical) : (State.chunkDone s u j).Canonical := by
  unfold State.chunkDone
  try dsimp only
  with_reducible
    repeat' first
      | assumption | apply State.updJob_canonical | apply State.creditJob_canonical

theorem State.settleChunk_canonical (s : State) (u : Nat) (hs : s.Canonical) : (State.settleChunk s u).Canonical := by
  unfold State.settleChunk
  try dsimp only
  with_reducible
    repeat' first
      | assumption | apply State.updJob_canonical | apply State.chunkDone_canonical | split

theorem State.jobEnd_canonical (s : State) (u : Nat) (hs : s.Canonical) : (State.jobEnd s u).Canonical := by
  unfold State.jobEnd
  try dsimp only
  with_reducible
    repeat' first
      | assumption | apply State.settleChunk_canonical | apply State.endJob_canonical | split

theorem execCopyJobEnd_canonical (cluster : Nat) (octet : Nat) (s : State) (hs : s.Canonical) : OutCanonical (execCopyJobEnd cluster octet s) := by
  unfold execCopyJobEnd
  try dsimp only
  with_reducible
    repeat' first
      | apply canonical_ite | assumption | apply State.jobEnd_canonical | apply OutCanonical.next

theorem State.nextChunk_canonical (s : State) (u : Nat) (hs : s.Canonical) : (State.nextChunk s u).Canonical := by
  unfold State.nextChunk
  try dsimp only
  with_reducible
    repeat' first
      | assumption | apply State.settleChunk_canonical | apply State.updJob_canonical | apply State.noteBad_canonical
      | split

theorem execCopyChunk_canonical (cluster : Nat) (octet : Nat) (s : State) (hs : s.Canonical) : OutCanonical (execCopyChunk cluster octet s) := by
  unfold execCopyChunk
  try dsimp only
  with_reducible
    repeat' first
      | apply canonical_ite | assumption | apply State.nextChunk_canonical | apply OutCanonical.next

theorem execEr_canonical (unit : Nat) (n : Nat) (s : State) (hs : s.Canonical) : OutCanonical (execEr unit n s) := by
  unfold execEr
  try dsimp only
  with_reducible
    repeat' first
      | assumption | apply State.matEr_canonical | apply State.engineRead_canonical | apply OutCanonical.next | split

theorem State.sendPiece_canonical (s : State) (u : Nat) (j : CopyJob) (n : Nat) (p : Piece) (hs : s.Canonical) : (State.sendPiece s u j n p).Canonical := by
  unfold State.sendPiece
  try dsimp only
  with_reducible
    repeat' first
      | assumption | apply State.failJob_canonical | apply State.updJob_canonical | apply State.sendFrame_canonical | split

theorem State.engineStep_canonical (s : State) (u : Nat) (j : CopyJob) (n : Nat) (hs : s.Canonical) : (State.engineStep s u j n).Canonical := by
  unfold State.engineStep
  try dsimp only
  with_reducible
    repeat' first
      | assumption | apply State.sendPiece_canonical | apply State.issueWrite_canonical | apply State.updJob_canonical
      | (intro _ _) | split

theorem State.portEw_canonical (s : State) (n : Nat) (hs : s.Canonical) : (State.portEw s n).Canonical := by
  unfold State.portEw
  try dsimp only
  with_reducible
    repeat' first
      | assumption | apply State.issueWrite_canonical | apply State.noteBad_canonical | apply State.ackPort_canonical
      | apply State.updDie_canonical | split | (simp only [canonical_mk]; apply canonical_fold)

theorem execEw_canonical (unit : Nat) (n : Nat) (s : State) (hs : s.Canonical) : OutCanonical (execEw unit n s) := by
  unfold execEw
  try dsimp only
  with_reducible
    repeat' first
      | assumption | apply State.matEw_canonical | apply State.portEw_canonical | apply State.engineStep_canonical
      | apply OutCanonical.next | split

theorem State.loseRemote_canonical (s : State) (pkg : Nat) (hs : s.Canonical) : (State.loseRemote s pkg).Canonical := by
  unfold State.loseRemote
  try dsimp only
  with_reducible
    repeat' first
      | assumption | apply State.updCluster_canonical | apply canonical_foldl | (intro _ _ _)

end Sys2Proof.Machine
end

