-- ==== Sys2Proof/Laws/CanonSystem.lean ====
section
/-!
SUPPORT. Sys2Proof/Laws/CanonSystem.lean: each operation of Machine/System.lean keeps the canonical form of the state.
-/
namespace Sys2Proof.Machine

theorem execRdp_canonical (a : Reg) (b : Reg) (s : State) (hs : s.Canonical) : OutCanonical (execRdp a b s) := by
  unfold execRdp
  try dsimp only
  with_reducible
    repeat' first
      | apply canonical_ite | assumption | apply State.privileged_canonical | apply State.illegal_canonical
      | apply State.result_canonical | apply OutCanonical.next

theorem execWrp_canonical (a : Reg) (b : Reg) (s : State) (hs : s.Canonical) : OutCanonical (execWrp a b s) := by
  unfold execWrp
  try dsimp only
  with_reducible
    repeat' first
      | apply canonical_ite | assumption | apply State.privileged_canonical | apply State.illegal_canonical
      | apply State.updMe_canonical | apply State.parkMe_canonical | apply State.retire_canonical | apply OutCanonical.next

theorem execUnseal_canonical (tid : Nat) (s : State) (hs : s.Canonical) : OutCanonical (execUnseal tid s) := by
  unfold execUnseal
  try dsimp only
  with_reducible
    repeat' first
      | apply canonical_ite | assumption | apply State.complete_canonical | apply OutCanonical.next
      | (simp only [canonical_mk]; apply canonical_fold)

theorem execStret_canonical (_a : Reg) (_b : Reg) (s : State) (hs : s.Canonical) : OutCanonical (execStret _a _b s) := by
  unfold execStret
  try dsimp only
  with_reducible
    repeat' first
      | assumption | apply State.privileged_canonical | apply State.ret_canonical | apply OutCanonical.next

theorem State.invalidate_canonical (s : State) (start : Word) (w : Word) (k : Nat → State) (hs : s.Canonical) (hk : ∀ (y0 : Nat), (k y0).Canonical) : (State.invalidate s start w k).Canonical := by
  unfold State.invalidate
  try dsimp only
  with_reducible
    repeat' first
      | apply canonical_ite | assumption | apply State.illegal_canonical | apply State.trap_canonical | apply hk

theorem State.dropUtlb_canonical (s : State) (q : TlbiReq) (core : Nat) (hs : s.Canonical) : (State.dropUtlb s q core).Canonical := by
  unfold State.dropUtlb
  try dsimp only
  with_reducible
    repeat' first
      | assumption | apply State.updCore_canonical

theorem State.tlbiDone_canonical (s : State) (q : TlbiReq) (hs : s.Canonical) : (State.tlbiDone s q).Canonical := by
  unfold State.tlbiDone
  try dsimp only
  with_reducible
    repeat' first
      | apply canonical_ite | assumption | apply State.complete_canonical | apply State.post_canonical

theorem execTlbi_canonical (a : Reg) (b : Reg) (s : State) (hs : s.Canonical) : OutCanonical (execTlbi a b s) := by
  unfold execTlbi
  try dsimp only
  with_reducible
    repeat' first
      | apply canonical_ite | assumption | apply State.privileged_canonical | apply State.invalidate_canonical
      | apply State.dropUtlb_canonical | apply State.retire_canonical | apply State.tlbiDone_canonical
      | apply State.parkMe_canonical | apply OutCanonical.next | (intro _)
      | (simp only [canonical_mk]; apply canonical_fold)

theorem State.dropCovered_canonical (s : State) (q : TlbiReq) (party : Nat) (hs : s.Canonical) : (State.dropCovered s q party).Canonical := by
  unfold State.dropCovered
  try dsimp only
  with_reducible
    repeat' first
      | apply canonical_ite | assumption | apply State.dropUtlb_canonical | apply State.updCluster_canonical
      | apply State.updDie_canonical | apply canonical_foldl | (intro _ _ _)

theorem execTlbiAck_canonical (n : Nat) (cluster : Nat) (s : State) (hs : s.Canonical) : OutCanonical (execTlbiAck n cluster s) := by
  unfold execTlbiAck
  try dsimp only
  with_reducible
    repeat' first
      | assumption | apply State.dropCovered_canonical | apply State.tlbiDone_canonical | apply OutCanonical.next | split
      | (simp only [canonical_mk]; apply canonical_fold)

theorem execIcinv_canonical (a : Reg) (b : Reg) (s : State) (hs : s.Canonical) : OutCanonical (execIcinv a b s) := by
  unfold execIcinv
  try dsimp only
  with_reducible
    repeat' first
      | assumption | apply State.privileged_canonical | apply State.invalidate_canonical | apply State.parkMe_canonical
      | apply OutCanonical.next | (intro _) | (simp only [canonical_mk]; apply canonical_fold)

theorem execIcinvComplete_canonical (n : Nat) (s : State) (hs : s.Canonical) : OutCanonical (execIcinvComplete n s) := by
  unfold execIcinvComplete
  try dsimp only
  with_reducible
    repeat' first
      | assumption | apply State.updCore_canonical | apply State.updCluster_canonical | apply State.complete_canonical
      | apply canonical_foldl | apply OutCanonical.next | (intro _ _ _) | split
      | (simp only [canonical_mk]; apply canonical_fold)

theorem execTableWalk_canonical (tid : Nat) (va : Nat) (s : State) (hs : s.Canonical) : OutCanonical (execTableWalk tid va s) := by
  unfold execTableWalk
  try dsimp only
  with_reducible
    repeat' first
      | assumption | apply State.noteBad_canonical | apply State.updCore_canonical | apply State.updCluster_canonical
      | apply OutCanonical.next | split

theorem State.placeChain_canonical (s : State) (c : Ctx) (st : TaskState) (w1 : Word) (z : List Word) (hs : s.Canonical) : (State.placeChain s c st w1 z).Canonical := by
  induction z generalizing s c st w1 with
  | nil =>
    unfold State.placeChain
    try dsimp only
    with_reducible
      repeat' first
        | apply canonical_ite | assumption | apply State.setEntry_canonical | (intro _)
  | cons z0 zr ih =>
    unfold State.placeChain
    try dsimp only
    with_reducible
      repeat' first
        | apply ih | assumption | apply State.setEntry_canonical | apply State.noteEntry_canonical | split

theorem State.writeOut_canonical (s : State) (tid : Nat) (va : Word) (l : RecLoc) (hs : s.Canonical) : (State.writeOut s tid va l).Canonical := by
  unfold State.writeOut
  try dsimp only
  with_reducible
    repeat' first
      | apply canonical_ite | assumption | apply State.lapse_canonical | apply State.unbind_canonical
      | apply State.loseSuspended_canonical | apply State.loseLeap_canonical | apply State.spillAll_canonical
      | apply State.markStores_canonical | apply State.noteFrame_canonical | apply State.putRecord_canonical
      | (simp only [canonical_mk]; apply canonical_fold)

theorem State.saveThread_canonical (s : State) (tid : Nat) (l : RecLoc) (hs : s.Canonical) : (State.saveThread s tid l).Canonical := by
  unfold State.saveThread
  try dsimp only
  with_reducible
    repeat' first
      | assumption | apply State.updCore_canonical | apply State.refill_canonical | apply State.applyOf_canonical
      | apply State.saveResvs_canonical | apply State.saveJobs_canonical | apply State.placeChain_canonical
      | apply State.cutDone_canonical | apply State.setThread_canonical | (simp only [canonical_mk]; apply canonical_fold)

theorem execCtxs_canonical (a : Reg) (b : Reg) (is : IPfx) (s : State) (hs : s.Canonical) : OutCanonical (execCtxs a b is s) := by
  unfold execCtxs
  try dsimp only
  with_reducible
    repeat' first
      | assumption | apply State.privileged_canonical | apply State.trap_canonical | apply State.note14_canonical
      | apply State.result_canonical | apply State.writeOut_canonical | apply State.releasing_canonical
      | apply State.release_canonical | apply State.saveThread_canonical | apply OutCanonical.next | (intro _ _) | split

theorem State.loadFresh_canonical (s : State) (l : RecLoc) (by' : BitVec 12) (va : Word) (tid : Nat) (ws : List Word) (hs : s.Canonical) : (State.loadFresh s l by' va tid ws).Canonical := by
  unfold State.loadFresh
  try dsimp only
  with_reducible
    repeat' first
      | assumption | apply State.startThread_canonical | apply State.clearValid_canonical

theorem State.loadSaved_canonical (s : State) (l : RecLoc) (va : Word) (tid : Nat) (ws : List Word) (hs : s.Canonical) : (State.loadSaved s l va tid ws).Canonical := by
  unfold State.loadSaved
  try dsimp only
  with_reducible
    repeat' first
      | assumption | apply State.placeChain_canonical | apply State.takeRecord_canonical

theorem execCtxl_canonical (a : Reg) (b : Reg) (is : IPfx) (s : State) (hs : s.Canonical) : OutCanonical (execCtxl a b is s) := by
  unfold execCtxl
  try dsimp only
  with_reducible
    repeat' first
      | assumption | apply State.privileged_canonical | apply State.trap_canonical | apply State.note14_canonical
      | apply State.noteBad_canonical | apply State.result_canonical | apply State.waitQuiet_canonical
      | apply State.parkAgain_canonical | apply State.loadFresh_canonical | apply State.loadSaved_canonical
      | apply State.acquire_canonical | apply OutCanonical.next | split

theorem execPreempt_canonical (a : Reg) (_b : Reg) (s : State) (hs : s.Canonical) : OutCanonical (execPreempt a _b s) := by
  unfold execPreempt
  try dsimp only
  with_reducible
    repeat' first
      | apply canonical_ite | assumption | apply State.privileged_canonical | apply State.result_canonical
      | apply State.upd_canonical | apply State.parkMe_canonical | apply OutCanonical.next

theorem execKill_canonical (a : Reg) (_b : Reg) (s : State) (hs : s.Canonical) : OutCanonical (execKill a _b s) := by
  unfold execKill
  try dsimp only
  with_reducible
    repeat' first
      | apply canonical_ite | assumption | apply State.privileged_canonical | apply State.result_canonical
      | apply State.startKill_canonical | apply OutCanonical.next

theorem execMigr_canonical (a : Reg) (b : Reg) (s : State) (hs : s.Canonical) : OutCanonical (execMigr a b s) := by
  unfold execMigr
  try dsimp only
  with_reducible
    repeat' first
      | apply canonical_ite | assumption | apply State.privileged_canonical | apply State.result_canonical
      | apply State.trap_canonical | apply State.upd_canonical | apply State.lapse_canonical | apply OutCanonical.next

theorem execSecm_canonical (a : Reg) (b : Reg) (is : IPfx) (s : State) (hs : s.Canonical) : OutCanonical (execSecm a b is s) := by
  unfold execSecm
  try dsimp only
  with_reducible
    repeat' first
      | apply canonical_ite | assumption | apply State.privileged_canonical | apply State.withRec_canonical
      | apply State.releasing_canonical | apply State.parkAgain_canonical | apply State.result_canonical
      | apply OutCanonical.next | (intro _) | (simp only [canonical_mk]; apply canonical_fold)

theorem execHalt_canonical (_a : Reg) (_b : Reg) (s : State) (hs : s.Canonical) : OutCanonical (execHalt _a _b s) := by
  unfold execHalt
  try dsimp only
  with_reducible
    repeat' first
      | apply canonical_ite | assumption | apply State.privileged_canonical | apply State.retire_canonical
      | apply State.parkMe_canonical | apply OutCanonical.next

theorem execUserTrapDelivery_canonical (tid : Nat) (s : State) (hs : s.Canonical) : OutCanonical (execUserTrapDelivery tid s) := by
  unfold execUserTrapDelivery
  try dsimp only
  with_reducible
    repeat' first
      | assumption | apply State.deliverUser_canonical | apply State.boundaryTrap_canonical | apply OutCanonical.next
      | split

theorem State.defaultAction_canonical (s : State) (tid : Nat) (hs : s.Canonical) : (State.defaultAction s tid).Canonical := by
  unfold State.defaultAction
  try dsimp only
  with_reducible
    repeat' first
      | apply canonical_ite | assumption | apply State.markTask_canonical | apply State.upd_canonical
      | apply State.unbind_canonical | apply State.lend_canonical | apply State.popAdoption_canonical

theorem execSupervisorTrapDelivery_canonical (tid : Nat) (s : State) (hs : s.Canonical) : OutCanonical (execSupervisorTrapDelivery tid s) := by
  unfold execSupervisorTrapDelivery
  try dsimp only
  with_reducible
    repeat' first
      | apply canonical_ite | assumption | apply State.defaultAction_canonical | apply State.boundaryTrap_canonical
      | apply OutCanonical.next

theorem execSoftError_canonical (pa : Nat) (correctable : Bool) (s : State) (hs : s.Canonical) : OutCanonical (execSoftError pa correctable s) := by
  unfold execSoftError
  try dsimp only
  with_reducible
    repeat' first
      | assumption | apply State.updDie_canonical | apply State.setBad_canonical | apply OutCanonical.next | split

end Sys2Proof.Machine
end

