-- ==== Sys2Proof/Laws/CanonDies.lean ====
section
/-!
SUPPORT. Sys2Proof/Laws/CanonDies.lean: each operation of Machine/Dies.lean keeps the canonical form of the state.
-/
namespace Sys2Proof.Machine

theorem State.dropHead_canonical (s : State) (d : Nat) (r : Fin 8) (hs : s.Canonical) : (State.dropHead s d r).Canonical := by
  unfold State.dropHead
  try dsimp only
  with_reducible
    repeat' first
      | assumption | apply State.updDie_canonical

theorem State.movePacket_canonical (s : State) (d : Nat) (core : Nat) (p : Packet) (hs : s.Canonical) : (State.movePacket s d core p).Canonical := by
  unfold State.movePacket
  try dsimp only
  with_reducible
    repeat' first
      | assumption | apply State.toCoreQueue_canonical | apply State.setEntry_canonical | apply State.noteEntry_canonical
      | split

theorem State.moveUnit_canonical (s : State) (d : Nat) (core : Nat) (r : Fin 8) (n : Nat) (hs : s.Canonical) : (State.moveUnit s d core r n).Canonical := by
  unfold State.moveUnit
  try dsimp only
  with_reducible
    repeat' first
      | assumption | apply State.dropHead_canonical | apply State.updDie_canonical | apply State.toCoreQueue_canonical
      | split

theorem execSchedulerPlace_canonical (die : Nat) (s : State) (hs : s.Canonical) : OutCanonical (execSchedulerPlace die s) := by
  unfold execSchedulerPlace
  try dsimp only
  with_reducible
    repeat' first
      | assumption | apply State.movePacket_canonical | apply State.dropHead_canonical | apply State.moveUnit_canonical
      | apply OutCanonical.next | split

theorem State.skipped_canonical (s : State) (d : Nat) (hs : s.Canonical) : (State.skipped s d).Canonical := by
  unfold State.skipped
  try dsimp only
  with_reducible
    repeat' first
      | assumption | apply State.setWake_canonical | split

theorem State.placeTadpole_canonical (s : State) (d : Nat) (x : Tadpole) (tid : Nat) (hs : s.Canonical) : (State.placeTadpole s d x tid).Canonical := by
  unfold State.placeTadpole
  try dsimp only
  with_reducible
    repeat' first
      | assumption | apply State.updDie_canonical | apply State.arriveAll_canonical | apply State.setThread_canonical
      | apply State.placeChain_canonical | apply State.acquire_canonical | apply State.post_canonical | split
      | (simp only [canonical_mk]; apply canonical_fold)

theorem execTadpolePlace_canonical (die : Nat) (s : State) (hs : s.Canonical) : OutCanonical (execTadpolePlace die s) := by
  unfold execTadpolePlace
  try dsimp only
  with_reducible
    repeat' first
      | assumption | apply State.skipped_canonical | apply State.placeTadpole_canonical | apply OutCanonical.next | split

theorem State.endLeaps_canonical (s : State) (tid : Nat) (hs : s.Canonical) : (State.endLeaps s tid).Canonical := by
  unfold State.endLeaps
  try dsimp only
  with_reducible
    repeat' first
      | assumption | apply State.loseSuspended_canonical | apply State.loseLeap_canonical | apply State.upd_canonical
      | apply State.dropResvs_canonical

theorem State.packThread_canonical (s : State) (tid : Nat) (die : Nat) (pref : Nat) (hs : s.Canonical) : (State.packThread s tid die pref).Canonical := by
  unfold State.packThread
  try dsimp only
  with_reducible
    repeat' first
      | apply canonical_ite | assumption | apply State.release_canonical | apply State.spillAll_canonical
      | apply State.noteFrame_canonical | apply State.upd_canonical | apply State.cutDone_canonical
      | apply State.unbind_canonical | apply State.endLeaps_canonical

theorem State.takeMark_canonical (s : State) (tid : Nat) (hs : s.Canonical) : (State.takeMark s tid).Canonical := by
  unfold State.takeMark
  try dsimp only
  with_reducible
    repeat' first
      | assumption | apply State.resolvePark_canonical | apply State.upd_canonical | split

theorem State.packTurn_canonical (s : State) (tid : Nat) (hs : s.Canonical) : (State.packTurn s tid).Canonical := by
  unfold State.packTurn
  try dsimp only
  with_reducible
    repeat' first
      | assumption | apply State.takeMark_canonical | apply State.packThread_canonical | split

theorem execMigrationPack_canonical (tid : Nat) (s : State) (hs : s.Canonical) : OutCanonical (execMigrationPack tid s) := by
  unfold execMigrationPack
  try dsimp only
  with_reducible
    repeat' first
      | assumption | apply State.packTurn_canonical | apply OutCanonical.next

theorem State.ship_canonical (s : State) (tid : Nat) (die : Nat) (pref : Nat) (hs : s.Canonical) : (State.ship s tid die pref).Canonical := by
  unfold State.ship
  try dsimp only
  with_reducible
    repeat' first
      | assumption | apply State.applyOf_canonical | apply State.updCore_canonical | apply State.refill_canonical
      | apply State.updDie_canonical | apply State.setThread_canonical | (simp only [canonical_mk]; apply canonical_fold)

theorem execTadpoleShip_canonical (tid : Nat) (s : State) (hs : s.Canonical) : OutCanonical (execTadpoleShip tid s) := by
  unfold execTadpoleShip
  try dsimp only
  with_reducible
    repeat' first
      | assumption | apply State.ship_canonical | apply OutCanonical.next | split

theorem State.startIn_canonical (s : State) (tid : Nat) (c : Ctx) (x : Start) (parent : Option Bound) (unit : Option (Nat × Nat)) (scope : Nat) (hs : s.Canonical) : (State.startIn s tid c x parent unit scope).Canonical := by
  unfold State.startIn
  try dsimp only
  with_reducible
    repeat' first
      | assumption | apply State.acquire_canonical | apply State.upd_canonical | apply State.startThread_canonical

theorem State.startMsg_canonical (s : State) (tid : Nat) (m : StartMsg) (hs : s.Canonical) : (State.startMsg s tid m).Canonical := by
  unfold State.startMsg
  try dsimp only
  with_reducible
    repeat' first
      | assumption | apply State.updCore_canonical | apply State.tellSup_canonical | apply State.startIn_canonical | split

theorem State.startPacket_canonical (s : State) (tid : Nat) (p : Packet) (hs : s.Canonical) : (State.startPacket s tid p).Canonical := by
  unfold State.startPacket
  try dsimp only
  with_reducible
    repeat' first
      | assumption | apply OptOk.of_some (e := by assumption) | apply State.claim_canonical
      | apply State.noteEntry_canonical | apply State.startIn_canonical | split

theorem State.startUnit_canonical (s : State) (tid : Nat) (d : Nat) (n : Nat) (i : Nat) (hs : s.Canonical) : (State.startUnit s tid d n i).Canonical := by
  unfold State.startUnit
  try dsimp only
  with_reducible
    repeat' first
      | assumption | apply State.startIn_canonical | split

theorem execSlotStart_canonical (core : Nat) (s : State) (hs : s.Canonical) : OutCanonical (execSlotStart core s) := by
  unfold execSlotStart
  try dsimp only
  with_reducible
    repeat' first
      | assumption | apply State.startMsg_canonical | apply State.updCore_canonical | apply State.startPacket_canonical
      | apply State.startUnit_canonical | apply OutCanonical.next | split

end Sys2Proof.Machine
end

