-- ==== Sys2Proof/Laws/CanonFloat.lean ====
section
/-!
SUPPORT. Sys2Proof/Laws/CanonFloat.lean: each operation of Machine/Float.lean keeps the canonical form of the state.
-/
namespace Sys2Proof.Machine

theorem State.raise_canonical (s : State) (fl : FFlags) (hs : s.Canonical) : (State.raise s fl).Canonical := by
  unfold State.raise
  try dsimp only
  with_reducible
    repeat' first
      | assumption | apply State.updMe_canonical

theorem State.resultF_canonical (s : State) (rd : Reg) (x : Rounded) (drops : Nat) (hs : s.Canonical) : (State.resultF s rd x drops).Canonical := by
  unfold State.resultF
  try dsimp only
  with_reducible
    repeat' first
      | assumption | apply State.result_canonical | apply State.raise_canonical

theorem State.binF_canonical (s : State) (op : Fmt → Modes → Nat → Nat → Rounded) (a : Reg) (b : Reg) (r : Option RPfx) (drops : Nat) (hs : s.Canonical) : (State.binF s op a b r drops).Canonical := by
  unfold State.binF
  try dsimp only
  with_reducible
    repeat' first
      | assumption | apply State.resultF_canonical

theorem State.cmpF_canonical (s : State) (rel : FRel) (a : Reg) (b : Reg) (r : Option RPfx) (hs : s.Canonical) : (State.cmpF s rel a b r).Canonical := by
  unfold State.cmpF
  try dsimp only
  with_reducible
    repeat' first
      | assumption | apply State.result_canonical | apply State.raise_canonical

theorem execFadd_canonical (a : Reg) (b : Reg) (r : Option RPfx) (s : State) (hs : s.Canonical) : OutCanonical (execFadd a b r s) := by
  unfold execFadd
  try dsimp only
  with_reducible
    repeat' first
      | assumption | apply State.binF_canonical | apply OutCanonical.next

theorem execFsub_canonical (a : Reg) (b : Reg) (r : Option RPfx) (s : State) (hs : s.Canonical) : OutCanonical (execFsub a b r s) := by
  unfold execFsub
  try dsimp only
  with_reducible
    repeat' first
      | assumption | apply State.binF_canonical | apply OutCanonical.next

theorem execFmul_canonical (a : Reg) (b : Reg) (r : Option RPfx) (s : State) (hs : s.Canonical) : OutCanonical (execFmul a b r s) := by
  unfold execFmul
  try dsimp only
  with_reducible
    repeat' first
      | assumption | apply State.binF_canonical | apply OutCanonical.next

theorem execFdiv_canonical (a : Reg) (b : Reg) (r : Option RPfx) (s : State) (hs : s.Canonical) : OutCanonical (execFdiv a b r s) := by
  unfold execFdiv
  try dsimp only
  with_reducible
    repeat' first
      | assumption | apply State.binF_canonical | apply OutCanonical.next

theorem execFsqrt_canonical (a : Reg) (b : Reg) (r : Option RPfx) (s : State) (hs : s.Canonical) : OutCanonical (execFsqrt a b r s) := by
  unfold execFsqrt
  try dsimp only
  with_reducible
    repeat' first
      | assumption | apply State.resultF_canonical | apply OutCanonical.next

theorem execFma_canonical (a : Reg) (b : Reg) (r : Option RPfx) (s : State) (hs : s.Canonical) : OutCanonical (execFma a b r s) := by
  unfold execFma
  try dsimp only
  with_reducible
    repeat' first
      | assumption | apply State.resultF_canonical | apply OutCanonical.next

theorem execFmin_canonical (a : Reg) (b : Reg) (r : Option RPfx) (s : State) (hs : s.Canonical) : OutCanonical (execFmin a b r s) := by
  unfold execFmin
  try dsimp only
  with_reducible
    repeat' first
      | assumption | apply State.binF_canonical | apply OutCanonical.next

theorem execFmax_canonical (a : Reg) (b : Reg) (r : Option RPfx) (s : State) (hs : s.Canonical) : OutCanonical (execFmax a b r s) := by
  unfold execFmax
  try dsimp only
  with_reducible
    repeat' first
      | assumption | apply State.binF_canonical | apply OutCanonical.next

theorem execFeq_canonical (a : Reg) (b : Reg) (r : Option RPfx) (s : State) (hs : s.Canonical) : OutCanonical (execFeq a b r s) := by
  unfold execFeq
  try dsimp only
  with_reducible
    repeat' first
      | assumption | apply State.cmpF_canonical | apply OutCanonical.next

theorem execFlt_canonical (a : Reg) (b : Reg) (r : Option RPfx) (s : State) (hs : s.Canonical) : OutCanonical (execFlt a b r s) := by
  unfold execFlt
  try dsimp only
  with_reducible
    repeat' first
      | assumption | apply State.cmpF_canonical | apply OutCanonical.next

theorem execFle_canonical (a : Reg) (b : Reg) (r : Option RPfx) (s : State) (hs : s.Canonical) : OutCanonical (execFle a b r s) := by
  unfold execFle
  try dsimp only
  with_reducible
    repeat' first
      | assumption | apply State.cmpF_canonical | apply OutCanonical.next

theorem execFcvti_canonical (a : Reg) (b : Reg) (r : Option RPfx) (s : State) (hs : s.Canonical) : OutCanonical (execFcvti a b r s) := by
  unfold execFcvti
  try dsimp only
  with_reducible
    repeat' first
      | assumption | apply State.result_canonical | apply State.raise_canonical | apply OutCanonical.next

theorem execFcvtf_canonical (a : Reg) (b : Reg) (r : Option RPfx) (s : State) (hs : s.Canonical) : OutCanonical (execFcvtf a b r s) := by
  unfold execFcvtf
  try dsimp only
  with_reducible
    repeat' first
      | assumption | apply State.resultF_canonical | apply OutCanonical.next

theorem execFcvt_canonical (a : Reg) (b : Reg) (r : Option RPfx) (s : State) (hs : s.Canonical) : OutCanonical (execFcvt a b r s) := by
  unfold execFcvt
  try dsimp only
  with_reducible
    repeat' first
      | assumption | apply State.resultF_canonical | apply OutCanonical.next

theorem execFclass_canonical (a : Reg) (b : Reg) (r : Option RPfx) (s : State) (hs : s.Canonical) : OutCanonical (execFclass a b r s) := by
  unfold execFclass
  try dsimp only
  with_reducible
    repeat' first
      | assumption | apply State.result_canonical | apply OutCanonical.next

theorem execRcp_canonical (a : Reg) (b : Reg) (r : Option RPfx) (s : State) (hs : s.Canonical) : OutCanonical (execRcp a b r s) := by
  unfold execRcp
  try dsimp only
  with_reducible
    repeat' first
      | assumption | apply State.resultF_canonical | apply OutCanonical.next

theorem execRsq_canonical (a : Reg) (b : Reg) (r : Option RPfx) (s : State) (hs : s.Canonical) : OutCanonical (execRsq a b r s) := by
  unfold execRsq
  try dsimp only
  with_reducible
    repeat' first
      | assumption | apply State.resultF_canonical | apply OutCanonical.next

theorem execFabs_canonical (a : Reg) (b : Reg) (r : Option RPfx) (s : State) (hs : s.Canonical) : OutCanonical (execFabs a b r s) := by
  unfold execFabs
  try dsimp only
  with_reducible
    repeat' first
      | assumption | apply State.result_canonical | apply OutCanonical.next

theorem execFneg_canonical (a : Reg) (b : Reg) (r : Option RPfx) (s : State) (hs : s.Canonical) : OutCanonical (execFneg a b r s) := by
  unfold execFneg
  try dsimp only
  with_reducible
    repeat' first
      | assumption | apply State.result_canonical | apply OutCanonical.next

end Sys2Proof.Machine
end

