-- ==== Sys2Proof/Laws/CanonMetering.lean ====
section
/-!
SUPPORT. Sys2Proof/Laws/CanonMetering.lean: each operation of Machine/Metering.lean keeps the canonical form of the state.
-/
namespace Sys2Proof.Machine

theorem execMtrq_canonical (a : Reg) (b : Reg) (s : State) (hs : s.Canonical) : OutCanonical (execMtrq a b s) := by
  unfold execMtrq
  try dsimp only
  with_reducible
    repeat' first
      | assumption | apply State.applyOf_canonical | apply State.result_canonical | apply OutCanonical.next

theorem execMtrs_canonical (a : Reg) (b : Reg) (s : State) (hs : s.Canonical) : OutCanonical (execMtrs a b s) := by
  unfold execMtrs
  try dsimp only
  with_reducible
    repeat' first
      | assumption | apply State.trap_canonical | apply State.note14_canonical | apply State.applyOf_canonical
      | apply State.parkAgain_canonical | apply State.result_canonical | apply OutCanonical.next | split
      | (simp only [canonical_mk]; apply canonical_fold)

theorem execMeterApply_canonical (n : Nat) (s : State) (hs : s.Canonical) : OutCanonical (execMeterApply n s) := by
  unfold execMeterApply
  try dsimp only
  with_reducible
    repeat' first
      | assumption | apply State.applyEvent_canonical | apply OutCanonical.next | split
      | (simp only [canonical_mk]; apply canonical_fold)

theorem execPowerLoss_canonical (s : State) : OutCanonical (execPowerLoss s) :=
  .next ⟨rfl, rfl, rfl, rfl, rfl, rfl, rfl, rfl⟩

theorem State.ramovWrite_canonical (s : State) (r : RamovReq) (va : Word) (bs : List Byte) (hs : s.Canonical) : (State.ramovWrite s r va bs).Canonical := by
  unfold State.ramovWrite
  try dsimp only
  with_reducible
    repeat' first
      | assumption | apply State.engineWrite_canonical | apply canonical_foldl | (intro _ _ _) | split

theorem State.ramovReply_canonical (s : State) (r : RamovReq) (tag : Nat) (status : Nat) (known : List Word) (hs : s.Canonical) : (State.ramovReply s r tag status known).Canonical := by
  unfold State.ramovReply
  try dsimp only
  with_reducible
    repeat' first
      | assumption | apply State.freeWords_canonical | apply State.post_canonical
      | (simp only [canonical_mk]; apply canonical_fold)

theorem State.refuse_canonical (s : State) (r : RamovReq) (status : Nat) (hs : s.Canonical) : (State.refuse s r status).Canonical := by
  unfold State.refuse
  try dsimp only
  with_reducible
    repeat' first
      | assumption | apply State.ramovReply_canonical

theorem State.serveCode_canonical (s : State) (code : Nat) (f : RamovReq → State) (hs : s.Canonical) (hf : ∀ (y0 : RamovReq), (f y0).Canonical) : OutCanonical (State.serveCode s code f) := by
  unfold State.serveCode
  try dsimp only
  with_reducible
    repeat' first
      | assumption | apply hf | apply OutCanonical.next | split

theorem State.register_canonical (s : State) (r : RamovReq) (hs : s.Canonical) : (State.register s r).Canonical := by
  unfold State.register
  try dsimp only
  with_reducible
    repeat' first
      | assumption | apply State.refuse_canonical | apply State.ramovWrite_canonical | apply State.updRegion_canonical
      | apply State.ramovReply_canonical | split | (simp only [canonical_mk]; apply canonical_fold)

theorem execRegister_canonical (s : State) (hs : s.Canonical) : OutCanonical (execRegister s) := by
  unfold execRegister
  try dsimp only
  with_reducible
    repeat' first
      | assumption | apply State.serveCode_canonical | apply State.register_canonical | (intro _)

theorem State.attach_canonical (s : State) (r : RamovReq) (hs : s.Canonical) : (State.attach s r).Canonical := by
  unfold State.attach
  try dsimp only
  with_reducible
    repeat' first
      | assumption | apply State.refuse_canonical | apply State.ramovReply_canonical | apply State.updRegion_canonical
      | split

theorem execAttach_canonical (s : State) (hs : s.Canonical) : OutCanonical (execAttach s) := by
  unfold execAttach
  try dsimp only
  with_reducible
    repeat' first
      | assumption | apply State.serveCode_canonical | apply State.attach_canonical | (intro _)

theorem State.closeEnd_canonical (s : State) (r : RamovReq) (id : Nat) (checkpoint : Bool) (hs : s.Canonical) : (State.closeEnd s r id checkpoint).Canonical := by
  unfold State.closeEnd
  try dsimp only
  with_reducible
    repeat' first
      | apply canonical_ite | assumption | apply State.checkpoint_canonical | apply State.freeWords_canonical
      | apply State.sign_canonical | apply State.updRegion_canonical | apply State.refuse_canonical
      | apply State.ramovReply_canonical | apply State.ramovWrite_canonical

theorem State.close_canonical (s : State) (r : RamovReq) (hs : s.Canonical) : (State.close s r).Canonical := by
  unfold State.close
  try dsimp only
  with_reducible
    repeat' first
      | assumption | apply State.refuse_canonical | apply State.closeEnd_canonical | apply State.updRegion_canonical | split

theorem execClose_canonical (s : State) (hs : s.Canonical) : OutCanonical (execClose s) := by
  unfold execClose
  try dsimp only
  with_reducible
    repeat' first
      | assumption | apply State.serveCode_canonical | apply State.close_canonical | (intro _)

theorem State.getckpt_canonical (s : State) (r : RamovReq) (hs : s.Canonical) : (State.getckpt s r).Canonical := by
  unfold State.getckpt
  try dsimp only
  with_reducible
    repeat' first
      | apply canonical_ite | assumption | apply State.refuse_canonical | apply State.ramovReply_canonical
      | apply State.ramovWrite_canonical

theorem execGetckpt_canonical (s : State) (hs : s.Canonical) : OutCanonical (execGetckpt s) := by
  unfold execGetckpt
  try dsimp only
  with_reducible
    repeat' first
      | assumption | apply State.serveCode_canonical | apply State.getckpt_canonical | (intro _)

theorem State.report_canonical (s : State) (r : RamovReq) (hs : s.Canonical) : (State.report s r).Canonical := by
  unfold State.report
  try dsimp only
  with_reducible
    repeat' first
      | assumption | apply State.freeWords_canonical | apply State.ramovReply_canonical | apply State.sign_canonical
      | apply State.checkpoint_canonical | apply State.ramovWrite_canonical | split

theorem execSignedRecordRequest_canonical (s : State) (hs : s.Canonical) : OutCanonical (execSignedRecordRequest s) := by
  unfold execSignedRecordRequest
  try dsimp only
  with_reducible
    repeat' first
      | assumption | apply State.report_canonical | apply OutCanonical.next | split

theorem State.enterCode_canonical (s : State) (i : Nat) (c : CodeEntry) (hs : s.Canonical) : (State.enterCode s i c).Canonical := by
  unfold State.enterCode
  try dsimp only
  with_reducible
    repeat' first
      | assumption | (simp only [canonical_mk]; apply canonical_fold)

theorem State.measureManifest_canonical (s : State) (r : RamovReq) (ws : List Word) (hs : s.Canonical) : (State.measureManifest s r ws).Canonical := by
  unfold State.measureManifest
  try dsimp only
  with_reducible
    repeat' first
      | assumption | apply State.refuse_canonical | apply State.ramovReply_canonical | apply State.enterCode_canonical
      | split

theorem State.measure_canonical (s : State) (r : RamovReq) (hs : s.Canonical) : (State.measure s r).Canonical := by
  unfold State.measure
  try dsimp only
  with_reducible
    repeat' first
      | assumption | apply State.refuse_canonical | apply State.measureManifest_canonical | split

theorem execMeasure_canonical (s : State) (hs : s.Canonical) : OutCanonical (execMeasure s) := by
  unfold execMeasure
  try dsimp only
  with_reducible
    repeat' first
      | assumption | apply State.serveCode_canonical | apply State.measure_canonical | (intro _)

theorem State.unregister_canonical (s : State) (r : RamovReq) (hs : s.Canonical) : (State.unregister s r).Canonical := by
  unfold State.unregister
  try dsimp only
  with_reducible
    repeat' first
      | apply canonical_ite | assumption | apply State.refuse_canonical | apply State.ramovReply_canonical
      | (simp only [canonical_mk]; apply canonical_fold)

theorem execUnregister_canonical (s : State) (hs : s.Canonical) : OutCanonical (execUnregister s) := by
  unfold execUnregister
  try dsimp only
  with_reducible
    repeat' first
      | assumption | apply State.serveCode_canonical | apply State.unregister_canonical | (intro _)

theorem State.fill_canonical (s : State) (r : RamovReq) (bs : List Byte) (known : List Word) (hs : s.Canonical) : (State.fill s r bs known).Canonical := by
  unfold State.fill
  try dsimp only
  with_reducible
    repeat' first
      | apply canonical_ite | assumption | apply State.refuse_canonical | apply State.ramovReply_canonical
      | apply State.ramovWrite_canonical

theorem execGetlog_canonical (s : State) (hs : s.Canonical) : OutCanonical (execGetlog s) := by
  unfold execGetlog
  try dsimp only
  with_reducible
    repeat' first
      | assumption | apply State.serveCode_canonical | apply State.fill_canonical | (intro _)

theorem execGetkey_canonical (s : State) (hs : s.Canonical) : OutCanonical (execGetkey s) := by
  unfold execGetkey
  try dsimp only
  with_reducible
    repeat' first
      | assumption | apply State.serveCode_canonical | apply State.fill_canonical | (intro _)

theorem execBadcodeRequest_canonical (s : State) (hs : s.Canonical) : OutCanonical (execBadcodeRequest s) := by
  unfold execBadcodeRequest
  try dsimp only
  with_reducible
    repeat' first
      | assumption | apply State.refuse_canonical | apply OutCanonical.next | split

end Sys2Proof.Machine
end

