-- ==== Sys2Proof/Laws/CanonHostLink.lean ====
section
/-!
SUPPORT. Sys2Proof/Laws/CanonHostLink.lean: each operation of Machine/HostLink.lean keeps the canonical form of the state.
-/
namespace Sys2Proof.Machine

theorem State.hostPart_canonical (s : State) (x : ChanItem) (pa : Nat) (hs : s.Canonical) : (State.hostPart s x pa).Canonical := by
  unfold State.hostPart
  try dsimp only
  with_reducible
    repeat' first
      | apply canonical_ite | assumption | apply State.performItem_canonical | apply State.enqueue_canonical

theorem State.readParts_canonical (s : State) (id : Nat) (z : List (Nat × List Nat)) (hs : s.Canonical) : (State.readParts s id z).Canonical := by
  induction z generalizing s id with
  | nil =>
    unfold State.readParts
    try dsimp only
    with_reducible
      repeat' first
        | apply canonical_ite | assumption
  | cons z0 zr ih =>
    unfold State.readParts
    try dsimp only
    with_reducible
      repeat' first
        | apply ih | assumption | apply State.hostPart_canonical

theorem State.writeParts_canonical (s : State) (fn : Nat) (z : List (Nat × List Byte)) (hs : s.Canonical) : (State.writeParts s fn z).Canonical := by
  induction z generalizing s fn with
  | nil =>
    unfold State.writeParts
    try dsimp only
    with_reducible
      repeat' first
        | apply canonical_ite | assumption | split
  | cons z0 zr ih =>
    unfold State.writeParts
    try dsimp only
    with_reducible
      repeat' first
        | apply ih | assumption | apply State.hostPart_canonical | (simp only [canonical_mk]; apply canonical_fold)

theorem execBar2Read_canonical (fn : Nat) (offset : Nat) (count : Nat) (s : State) (hs : s.Canonical) : OutCanonical (execBar2Read fn offset count s) := by
  unfold execBar2Read
  try dsimp only
  with_reducible
    repeat' first
      | apply canonical_ite | assumption | apply State.toHost_canonical | apply State.readParts_canonical
      | apply OutCanonical.next | (simp only [canonical_mk]; apply canonical_fold)

theorem execBar2Write_canonical (fn : Nat) (offset : Nat) (bytes : List (BitVec 8)) (s : State) (hs : s.Canonical) : OutCanonical (execBar2Write fn offset bytes s) := by
  unfold execBar2Write
  try dsimp only
  with_reducible
    repeat' first
      | apply canonical_ite | assumption | apply State.toHost_canonical | apply State.updDie_canonical
      | apply State.writeParts_canonical | apply OutCanonical.next

theorem onQueue_canonical (fn : Nat) (q : Nat) (f : Nat → State → State) (s : State) (hf : ∀ (y0 : Nat) (y1 : State), y1.Canonical → (f y0 y1).Canonical) (hs : s.Canonical) : OutCanonical (onQueue fn q f s) := by
  unfold onQueue
  try dsimp only
  with_reducible
    repeat' first
      | apply canonical_ite | assumption | apply hf | apply OutCanonical.next

theorem execQtailWrite_canonical (fn : Nat) (queue : Nat) (value : BitVec 64) (s : State) (hs : s.Canonical) : OutCanonical (execQtailWrite fn queue value s) := by
  unfold execQtailWrite
  try dsimp only
  with_reducible
    repeat' first
      | assumption | apply onQueue_canonical | apply State.qtail_canonical | (intro _ _ _)

theorem execQctlWrite_canonical (fn : Nat) (queue : Nat) (value : BitVec 64) (sup : Bool) (s : State) (hs : s.Canonical) : OutCanonical (execQctlWrite fn queue value sup s) := by
  unfold execQctlWrite
  try dsimp only
  with_reducible
    repeat' first
      | assumption | apply onQueue_canonical | apply State.updQueue_canonical | (intro _ _ _)

theorem State.noteBlock_canonical (s : State) (c : Ctx) (va : Word) (hs : s.Canonical) : (State.noteBlock s c va).Canonical := by
  unfold State.noteBlock
  try dsimp only
  with_reducible
    repeat' first
      | assumption | apply State.noteBad_canonical | split

theorem State.taken_canonical (s : State) (k : Nat) (e : HostEntry) (hs : s.Canonical) : (State.taken s k e).Canonical := by
  unfold State.taken
  try dsimp only
  with_reducible
    repeat' first
      | assumption | apply State.updQueue_canonical

theorem State.hostOffer_canonical (s : State) (fn : Nat) (q : Nat) (o : HostOffer) (z : List Nat) (hs : s.Canonical) : (State.hostOffer s fn q o z).Canonical := by
  induction z generalizing s fn q o with
  | nil =>
    unfold State.hostOffer
    try dsimp only
    with_reducible
      repeat' first
        | apply canonical_ite | assumption | apply State.taken_canonical | apply State.updQueue_canonical
        | apply State.count_canonical | apply State.startRecords_canonical
  | cons z0 zr ih =>
    unfold State.hostOffer
    try dsimp only
    with_reducible
      repeat' first
        | apply ih | apply canonical_ite | assumption | apply State.taken_canonical | apply State.updQueue_canonical
        | apply State.count_canonical | apply State.startRecords_canonical | apply State.holdRecord_canonical

theorem execHostQueueTake_canonical (fn : Nat) (queue : Nat) (s : State) (hs : s.Canonical) : OutCanonical (execHostQueueTake fn queue s) := by
  unfold execHostQueueTake
  try dsimp only
  with_reducible
    repeat' first
      | assumption | apply onQueue_canonical | apply State.hostOffer_canonical | apply State.taken_canonical
      | apply State.noteBad_canonical | apply State.noteBlock_canonical | apply State.count_canonical | (intro _ _ _)
      | split

theorem execHostCompletion_canonical (fn : Nat) (queue : Nat) (s : State) (hs : s.Canonical) : OutCanonical (execHostCompletion fn queue s) := by
  unfold execHostCompletion
  try dsimp only
  with_reducible
    repeat' first
      | assumption | apply onQueue_canonical | apply State.updQueue_canonical | apply State.toHost_canonical | (intro _ _ _)
      | split

theorem State.updStream_canonical (s : State) (pkg : Nat) (cls : Nat) (f : Machine.Stream → Machine.Stream) (hs : s.Canonical) : (State.updStream s pkg cls f).Canonical := by
  unfold State.updStream
  try dsimp only
  with_reducible
    repeat' first
      | assumption | (simp only [canonical_mk]; apply canonical_fold)

theorem State.receive_canonical (s : State) (f : Frame) (cls : Nat) (take : State → State) (ready : State → Bool) (hs : s.Canonical) (htake : ∀ (y0 : State), y0.Canonical → (take y0).Canonical) : (State.receive s f cls take ready).Canonical := by
  unfold State.receive
  try dsimp only
  with_reducible
    repeat' first
      | apply canonical_ite | assumption | apply State.updStream_canonical | apply State.sendAck_canonical | apply htake

theorem execRemoteWriteFrame_canonical (frame : Frame) (s : State) (hs : s.Canonical) : OutCanonical (execRemoteWriteFrame frame s) := by
  unfold execRemoteWriteFrame
  try dsimp only
  with_reducible
    repeat' first
      | assumption | apply State.receive_canonical | apply State.ackPort_canonical | apply OutCanonical.next | (intro _ _)
      | (simp only [canonical_mk]; apply canonical_fold)

theorem State.portAccept_canonical (s : State) (frame : Frame) (hs : s.Canonical) : OptOk (State.portAccept s frame) := by
  unfold State.portAccept
  try dsimp only
  with_reducible
    repeat' first
      | apply OptOk.ok_ite | apply OptOk.none | apply OptOk.some | assumption | apply State.accept_canonical
      | (simp only [canonical_mk]; apply canonical_fold)

theorem execRemoteMessageFrame_canonical (frame : Frame) (s : State) (hs : s.Canonical) : OutCanonical (execRemoteMessageFrame frame s) := by
  unfold execRemoteMessageFrame
  try dsimp only
  with_reducible
    repeat' first
      | assumption | apply State.receive_canonical | apply State.sendAck_canonical | apply State.portAccept_canonical
      | apply OptOk.getD | apply OutCanonical.next | (intro _ _)

theorem execAcknowledgementFrame_canonical (pkg : Nat) (cls : Nat) (upTo : Nat) (s : State) (hs : s.Canonical) : OutCanonical (execAcknowledgementFrame pkg cls upTo s) := by
  unfold execAcknowledgementFrame
  try dsimp only
  with_reducible
    repeat' first
      | assumption | apply State.updStream_canonical | apply OutCanonical.next | split

theorem State.losePeer_canonical (s : State) (pkg : Nat) (hs : s.Canonical) : (State.losePeer s pkg).Canonical := by
  unfold State.losePeer
  try dsimp only
  with_reducible
    repeat' first
      | assumption | apply State.loseRemote_canonical | apply State.updStream_canonical
      | (simp only [canonical_mk]; apply canonical_fold)

theorem execRetransmit_canonical (pkg : Nat) (cls : Nat) (s : State) (hs : s.Canonical) : OutCanonical (execRetransmit pkg cls s) := by
  unfold execRetransmit
  try dsimp only
  with_reducible
    repeat' first
      | assumption | apply State.losePeer_canonical | apply State.updStream_canonical | apply OutCanonical.next | split
      | (simp only [canonical_mk]; apply canonical_fold)

end Sys2Proof.Machine
end

