-- ==== Sys2Proof/Laws/CanonLoadStore.lean ====
section
/-!
SUPPORT. Sys2Proof/Laws/CanonLoadStore.lean: each operation of Machine/LoadStore.lean keeps the canonical form of the state.
-/
namespace Sys2Proof.Machine

theorem State.loadOp_canonical (s : State) (size : Nat) (signed : Bool) (a : Reg) (b : Reg) (r : Option RPfx) (is : IPfx) (m : Option MPfx) (hs : s.Canonical) : (State.loadOp s size signed a b r is m).Canonical := by
  unfold State.loadOp
  try dsimp only
  with_reducible
    repeat' first
      | assumption | apply State.access_canonical

theorem State.storeOp_canonical (s : State) (size : Nat) (a : Reg) (b : Reg) (r : Option RPfx) (is : IPfx) (m : Option MPfx) (hs : s.Canonical) : (State.storeOp s size a b r is m).Canonical := by
  unfold State.storeOp
  try dsimp only
  with_reducible
    repeat' first
      | assumption | apply State.access_canonical

theorem execLd8_canonical (a : Reg) (b : Reg) (r : Option RPfx) (is : IPfx) (m : Option MPfx) (s : State) (hs : s.Canonical) : OutCanonical (execLd8 a b r is m s) := by
  unfold execLd8
  try dsimp only
  with_reducible
    repeat' first
      | assumption | apply State.loadOp_canonical | apply OutCanonical.next

theorem execLd16_canonical (a : Reg) (b : Reg) (r : Option RPfx) (is : IPfx) (m : Option MPfx) (s : State) (hs : s.Canonical) : OutCanonical (execLd16 a b r is m s) := by
  unfold execLd16
  try dsimp only
  with_reducible
    repeat' first
      | assumption | apply State.loadOp_canonical | apply OutCanonical.next

theorem execLd32_canonical (a : Reg) (b : Reg) (r : Option RPfx) (is : IPfx) (m : Option MPfx) (s : State) (hs : s.Canonical) : OutCanonical (execLd32 a b r is m s) := by
  unfold execLd32
  try dsimp only
  with_reducible
    repeat' first
      | assumption | apply State.loadOp_canonical | apply OutCanonical.next

theorem execLd64_canonical (a : Reg) (b : Reg) (r : Option RPfx) (is : IPfx) (m : Option MPfx) (s : State) (hs : s.Canonical) : OutCanonical (execLd64 a b r is m s) := by
  unfold execLd64
  try dsimp only
  with_reducible
    repeat' first
      | assumption | apply State.loadOp_canonical | apply OutCanonical.next

theorem execLd8s_canonical (a : Reg) (b : Reg) (r : Option RPfx) (is : IPfx) (m : Option MPfx) (s : State) (hs : s.Canonical) : OutCanonical (execLd8s a b r is m s) := by
  unfold execLd8s
  try dsimp only
  with_reducible
    repeat' first
      | assumption | apply State.loadOp_canonical | apply OutCanonical.next

theorem execLd16s_canonical (a : Reg) (b : Reg) (r : Option RPfx) (is : IPfx) (m : Option MPfx) (s : State) (hs : s.Canonical) : OutCanonical (execLd16s a b r is m s) := by
  unfold execLd16s
  try dsimp only
  with_reducible
    repeat' first
      | assumption | apply State.loadOp_canonical | apply OutCanonical.next

theorem execLd32s_canonical (a : Reg) (b : Reg) (r : Option RPfx) (is : IPfx) (m : Option MPfx) (s : State) (hs : s.Canonical) : OutCanonical (execLd32s a b r is m s) := by
  unfold execLd32s
  try dsimp only
  with_reducible
    repeat' first
      | assumption | apply State.loadOp_canonical | apply OutCanonical.next

theorem execSt8_canonical (a : Reg) (b : Reg) (r : Option RPfx) (is : IPfx) (m : Option MPfx) (s : State) (hs : s.Canonical) : OutCanonical (execSt8 a b r is m s) := by
  unfold execSt8
  try dsimp only
  with_reducible
    repeat' first
      | assumption | apply State.storeOp_canonical | apply OutCanonical.next

theorem execSt16_canonical (a : Reg) (b : Reg) (r : Option RPfx) (is : IPfx) (m : Option MPfx) (s : State) (hs : s.Canonical) : OutCanonical (execSt16 a b r is m s) := by
  unfold execSt16
  try dsimp only
  with_reducible
    repeat' first
      | assumption | apply State.storeOp_canonical | apply OutCanonical.next

theorem execSt32_canonical (a : Reg) (b : Reg) (r : Option RPfx) (is : IPfx) (m : Option MPfx) (s : State) (hs : s.Canonical) : OutCanonical (execSt32 a b r is m s) := by
  unfold execSt32
  try dsimp only
  with_reducible
    repeat' first
      | assumption | apply State.storeOp_canonical | apply OutCanonical.next

theorem execSt64_canonical (a : Reg) (b : Reg) (r : Option RPfx) (is : IPfx) (m : Option MPfx) (s : State) (hs : s.Canonical) : OutCanonical (execSt64 a b r is m s) := by
  unfold execSt64
  try dsimp only
  with_reducible
    repeat' first
      | assumption | apply State.storeOp_canonical | apply OutCanonical.next

theorem execLdv_canonical (a : Reg) (b : Reg) (r : Option RPfx) (is : IPfx) (m : Option MPfx) (s : State) (hs : s.Canonical) : OutCanonical (execLdv a b r is m s) := by
  unfold execLdv
  try dsimp only
  with_reducible
    repeat' first
      | assumption | apply State.access_canonical | apply OutCanonical.next

theorem execStv_canonical (a : Reg) (b : Reg) (r : Option RPfx) (is : IPfx) (m : Option MPfx) (s : State) (hs : s.Canonical) : OutCanonical (execStv a b r is m s) := by
  unfold execStv
  try dsimp only
  with_reducible
    repeat' first
      | assumption | apply State.access_canonical | apply OutCanonical.next

end Sys2Proof.Machine
end

