-- ==== Sys2Proof/Laws/CanonScalar.lean ====
section
/-!
SUPPORT. Sys2Proof/Laws/CanonScalar.lean: each operation of Machine/Scalar.lean keeps the canonical form of the state.
-/
namespace Sys2Proof.Machine

theorem execIll_canonical (_a : Reg) (_b : Reg) (s : State) (hs : s.Canonical) : OutCanonical (execIll _a _b s) := by
  unfold execIll
  try dsimp only
  with_reducible
    repeat' first
      | assumption | apply State.illegal_canonical | apply OutCanonical.next

theorem execAdd_canonical (a : Reg) (b : Reg) (r : Option RPfx) (s : State) (hs : s.Canonical) : OutCanonical (execAdd a b r s) := by
  unfold execAdd
  try dsimp only
  with_reducible
    repeat' first
      | assumption | apply State.alu_canonical | apply OutCanonical.next

theorem execSub_canonical (a : Reg) (b : Reg) (r : Option RPfx) (s : State) (hs : s.Canonical) : OutCanonical (execSub a b r s) := by
  unfold execSub
  try dsimp only
  with_reducible
    repeat' first
      | assumption | apply State.alu_canonical | apply OutCanonical.next

theorem execAnd_canonical (a : Reg) (b : Reg) (r : Option RPfx) (s : State) (hs : s.Canonical) : OutCanonical (execAnd a b r s) := by
  unfold execAnd
  try dsimp only
  with_reducible
    repeat' first
      | assumption | apply State.alu_canonical | apply OutCanonical.next

theorem execOr_canonical (a : Reg) (b : Reg) (r : Option RPfx) (s : State) (hs : s.Canonical) : OutCanonical (execOr a b r s) := by
  unfold execOr
  try dsimp only
  with_reducible
    repeat' first
      | assumption | apply State.alu_canonical | apply OutCanonical.next

theorem execXor_canonical (a : Reg) (b : Reg) (r : Option RPfx) (s : State) (hs : s.Canonical) : OutCanonical (execXor a b r s) := by
  unfold execXor
  try dsimp only
  with_reducible
    repeat' first
      | assumption | apply State.alu_canonical | apply OutCanonical.next

theorem execShl_canonical (a : Reg) (b : Reg) (r : Option RPfx) (s : State) (hs : s.Canonical) : OutCanonical (execShl a b r s) := by
  unfold execShl
  try dsimp only
  with_reducible
    repeat' first
      | assumption | apply State.alu_canonical | apply OutCanonical.next

theorem execShr_canonical (a : Reg) (b : Reg) (r : Option RPfx) (s : State) (hs : s.Canonical) : OutCanonical (execShr a b r s) := by
  unfold execShr
  try dsimp only
  with_reducible
    repeat' first
      | assumption | apply State.alu_canonical | apply OutCanonical.next

theorem execSar_canonical (a : Reg) (b : Reg) (r : Option RPfx) (s : State) (hs : s.Canonical) : OutCanonical (execSar a b r s) := by
  unfold execSar
  try dsimp only
  with_reducible
    repeat' first
      | assumption | apply State.alu_canonical | apply OutCanonical.next

theorem execMul_canonical (a : Reg) (b : Reg) (r : Option RPfx) (s : State) (hs : s.Canonical) : OutCanonical (execMul a b r s) := by
  unfold execMul
  try dsimp only
  with_reducible
    repeat' first
      | assumption | apply State.alu_canonical | apply OutCanonical.next

theorem execMov_canonical (a : Reg) (b : Reg) (s : State) (hs : s.Canonical) : OutCanonical (execMov a b s) := by
  unfold execMov
  try dsimp only
  with_reducible
    repeat' first
      | assumption | apply State.unary_canonical | apply OutCanonical.next

theorem execSlt_canonical (a : Reg) (b : Reg) (r : Option RPfx) (s : State) (hs : s.Canonical) : OutCanonical (execSlt a b r s) := by
  unfold execSlt
  try dsimp only
  with_reducible
    repeat' first
      | assumption | apply State.alu_canonical | apply OutCanonical.next

theorem execSltu_canonical (a : Reg) (b : Reg) (r : Option RPfx) (s : State) (hs : s.Canonical) : OutCanonical (execSltu a b r s) := by
  unfold execSltu
  try dsimp only
  with_reducible
    repeat' first
      | assumption | apply State.alu_canonical | apply OutCanonical.next

theorem execSeq_canonical (a : Reg) (b : Reg) (r : Option RPfx) (s : State) (hs : s.Canonical) : OutCanonical (execSeq a b r s) := by
  unfold execSeq
  try dsimp only
  with_reducible
    repeat' first
      | assumption | apply State.alu_canonical | apply OutCanonical.next

theorem execMin_canonical (a : Reg) (b : Reg) (r : Option RPfx) (s : State) (hs : s.Canonical) : OutCanonical (execMin a b r s) := by
  unfold execMin
  try dsimp only
  with_reducible
    repeat' first
      | assumption | apply State.alu_canonical | apply OutCanonical.next

theorem execMax_canonical (a : Reg) (b : Reg) (r : Option RPfx) (s : State) (hs : s.Canonical) : OutCanonical (execMax a b r s) := by
  unfold execMax
  try dsimp only
  with_reducible
    repeat' first
      | assumption | apply State.alu_canonical | apply OutCanonical.next

theorem execAddi_canonical (a : Reg) (b : Reg) (r : Option RPfx) (is : IPfx) (s : State) (hs : s.Canonical) : OutCanonical (execAddi a b r is s) := by
  unfold execAddi
  try dsimp only
  with_reducible
    repeat' first
      | assumption | apply State.aluImm_canonical | apply OutCanonical.next

theorem execAndi_canonical (a : Reg) (b : Reg) (r : Option RPfx) (is : IPfx) (s : State) (hs : s.Canonical) : OutCanonical (execAndi a b r is s) := by
  unfold execAndi
  try dsimp only
  with_reducible
    repeat' first
      | assumption | apply State.aluImm_canonical | apply OutCanonical.next

theorem execOri_canonical (a : Reg) (b : Reg) (r : Option RPfx) (is : IPfx) (s : State) (hs : s.Canonical) : OutCanonical (execOri a b r is s) := by
  unfold execOri
  try dsimp only
  with_reducible
    repeat' first
      | assumption | apply State.aluImm_canonical | apply OutCanonical.next

theorem execXori_canonical (a : Reg) (b : Reg) (r : Option RPfx) (is : IPfx) (s : State) (hs : s.Canonical) : OutCanonical (execXori a b r is s) := by
  unfold execXori
  try dsimp only
  with_reducible
    repeat' first
      | assumption | apply State.aluImm_canonical | apply OutCanonical.next

theorem execShli_canonical (a : Reg) (b : Reg) (r : Option RPfx) (is : IPfx) (s : State) (hs : s.Canonical) : OutCanonical (execShli a b r is s) := by
  unfold execShli
  try dsimp only
  with_reducible
    repeat' first
      | assumption | apply State.aluImm_canonical | apply OutCanonical.next

theorem execShri_canonical (a : Reg) (b : Reg) (r : Option RPfx) (is : IPfx) (s : State) (hs : s.Canonical) : OutCanonical (execShri a b r is s) := by
  unfold execShri
  try dsimp only
  with_reducible
    repeat' first
      | assumption | apply State.aluImm_canonical | apply OutCanonical.next

theorem execSari_canonical (a : Reg) (b : Reg) (r : Option RPfx) (is : IPfx) (s : State) (hs : s.Canonical) : OutCanonical (execSari a b r is s) := by
  unfold execSari
  try dsimp only
  with_reducible
    repeat' first
      | assumption | apply State.aluImm_canonical | apply OutCanonical.next

theorem execSlti_canonical (a : Reg) (b : Reg) (r : Option RPfx) (is : IPfx) (s : State) (hs : s.Canonical) : OutCanonical (execSlti a b r is s) := by
  unfold execSlti
  try dsimp only
  with_reducible
    repeat' first
      | assumption | apply State.aluImm_canonical | apply OutCanonical.next

theorem execSeqi_canonical (a : Reg) (b : Reg) (r : Option RPfx) (is : IPfx) (s : State) (hs : s.Canonical) : OutCanonical (execSeqi a b r is s) := by
  unfold execSeqi
  try dsimp only
  with_reducible
    repeat' first
      | assumption | apply State.aluImm_canonical | apply OutCanonical.next

theorem execLdi_canonical (a : Reg) (b : Reg) (is : IPfx) (s : State) (hs : s.Canonical) : OutCanonical (execLdi a b is s) := by
  unfold execLdi
  try dsimp only
  with_reducible
    repeat' first
      | assumption | apply State.result_canonical | apply OutCanonical.next

theorem execLdix_canonical (a : Reg) (b : Reg) (is : IPfx) (s : State) (hs : s.Canonical) : OutCanonical (execLdix a b is s) := by
  unfold execLdix
  try dsimp only
  with_reducible
    repeat' first
      | assumption | apply State.result_canonical | apply OutCanonical.next

theorem execAddpc_canonical (a : Reg) (b : Reg) (is : IPfx) (s : State) (hs : s.Canonical) : OutCanonical (execAddpc a b is s) := by
  unfold execAddpc
  try dsimp only
  with_reducible
    repeat' first
      | assumption | apply State.result_canonical | apply OutCanonical.next

theorem execNop_canonical (_a : Reg) (_b : Reg) (s : State) (hs : s.Canonical) : OutCanonical (execNop _a _b s) := by
  unfold execNop
  try dsimp only
  with_reducible
    repeat' first
      | assumption | apply State.retire_canonical | apply OutCanonical.next

theorem execMulh_canonical (a : Reg) (b : Reg) (r : Option RPfx) (s : State) (hs : s.Canonical) : OutCanonical (execMulh a b r s) := by
  unfold execMulh
  try dsimp only
  with_reducible
    repeat' first
      | assumption | apply State.alu_canonical | apply OutCanonical.next

theorem execMulhu_canonical (a : Reg) (b : Reg) (r : Option RPfx) (s : State) (hs : s.Canonical) : OutCanonical (execMulhu a b r s) := by
  unfold execMulhu
  try dsimp only
  with_reducible
    repeat' first
      | assumption | apply State.alu_canonical | apply OutCanonical.next

theorem execDiv_canonical (a : Reg) (b : Reg) (r : Option RPfx) (s : State) (hs : s.Canonical) : OutCanonical (execDiv a b r s) := by
  unfold execDiv
  try dsimp only
  with_reducible
    repeat' first
      | assumption | apply State.alu_canonical | apply OutCanonical.next

theorem execDivu_canonical (a : Reg) (b : Reg) (r : Option RPfx) (s : State) (hs : s.Canonical) : OutCanonical (execDivu a b r s) := by
  unfold execDivu
  try dsimp only
  with_reducible
    repeat' first
      | assumption | apply State.alu_canonical | apply OutCanonical.next

theorem execRem_canonical (a : Reg) (b : Reg) (r : Option RPfx) (s : State) (hs : s.Canonical) : OutCanonical (execRem a b r s) := by
  unfold execRem
  try dsimp only
  with_reducible
    repeat' first
      | assumption | apply State.alu_canonical | apply OutCanonical.next

theorem execRemu_canonical (a : Reg) (b : Reg) (r : Option RPfx) (s : State) (hs : s.Canonical) : OutCanonical (execRemu a b r s) := by
  unfold execRemu
  try dsimp only
  with_reducible
    repeat' first
      | assumption | apply State.alu_canonical | apply OutCanonical.next

theorem execMinu_canonical (a : Reg) (b : Reg) (r : Option RPfx) (s : State) (hs : s.Canonical) : OutCanonical (execMinu a b r s) := by
  unfold execMinu
  try dsimp only
  with_reducible
    repeat' first
      | assumption | apply State.alu_canonical | apply OutCanonical.next

theorem execMaxu_canonical (a : Reg) (b : Reg) (r : Option RPfx) (s : State) (hs : s.Canonical) : OutCanonical (execMaxu a b r s) := by
  unfold execMaxu
  try dsimp only
  with_reducible
    repeat' first
      | assumption | apply State.alu_canonical | apply OutCanonical.next

theorem execNeg_canonical (a : Reg) (b : Reg) (s : State) (hs : s.Canonical) : OutCanonical (execNeg a b s) := by
  unfold execNeg
  try dsimp only
  with_reducible
    repeat' first
      | assumption | apply State.unary_canonical | apply OutCanonical.next

theorem execNot_canonical (a : Reg) (b : Reg) (s : State) (hs : s.Canonical) : OutCanonical (execNot a b s) := by
  unfold execNot
  try dsimp only
  with_reducible
    repeat' first
      | assumption | apply State.unary_canonical | apply OutCanonical.next

theorem execClz_canonical (a : Reg) (b : Reg) (s : State) (hs : s.Canonical) : OutCanonical (execClz a b s) := by
  unfold execClz
  try dsimp only
  with_reducible
    repeat' first
      | assumption | apply State.unary_canonical | apply OutCanonical.next

theorem execCtz_canonical (a : Reg) (b : Reg) (s : State) (hs : s.Canonical) : OutCanonical (execCtz a b s) := by
  unfold execCtz
  try dsimp only
  with_reducible
    repeat' first
      | assumption | apply State.unary_canonical | apply OutCanonical.next

theorem execPopc_canonical (a : Reg) (b : Reg) (s : State) (hs : s.Canonical) : OutCanonical (execPopc a b s) := by
  unfold execPopc
  try dsimp only
  with_reducible
    repeat' first
      | assumption | apply State.unary_canonical | apply OutCanonical.next

theorem execBrev_canonical (a : Reg) (b : Reg) (s : State) (hs : s.Canonical) : OutCanonical (execBrev a b s) := by
  unfold execBrev
  try dsimp only
  with_reducible
    repeat' first
      | assumption | apply State.unary_canonical | apply OutCanonical.next

theorem execBswap_canonical (a : Reg) (b : Reg) (s : State) (hs : s.Canonical) : OutCanonical (execBswap a b s) := by
  unfold execBswap
  try dsimp only
  with_reducible
    repeat' first
      | assumption | apply State.unary_canonical | apply OutCanonical.next

theorem execSextb_canonical (a : Reg) (b : Reg) (s : State) (hs : s.Canonical) : OutCanonical (execSextb a b s) := by
  unfold execSextb
  try dsimp only
  with_reducible
    repeat' first
      | assumption | apply State.unary_canonical | apply OutCanonical.next

theorem execSexth_canonical (a : Reg) (b : Reg) (s : State) (hs : s.Canonical) : OutCanonical (execSexth a b s) := by
  unfold execSexth
  try dsimp only
  with_reducible
    repeat' first
      | assumption | apply State.unary_canonical | apply OutCanonical.next

theorem execSextw_canonical (a : Reg) (b : Reg) (s : State) (hs : s.Canonical) : OutCanonical (execSextw a b s) := by
  unfold execSextw
  try dsimp only
  with_reducible
    repeat' first
      | assumption | apply State.unary_canonical | apply OutCanonical.next

theorem execRol_canonical (a : Reg) (b : Reg) (r : Option RPfx) (s : State) (hs : s.Canonical) : OutCanonical (execRol a b r s) := by
  unfold execRol
  try dsimp only
  with_reducible
    repeat' first
      | assumption | apply State.alu_canonical | apply OutCanonical.next

theorem execRor_canonical (a : Reg) (b : Reg) (r : Option RPfx) (s : State) (hs : s.Canonical) : OutCanonical (execRor a b r s) := by
  unfold execRor
  try dsimp only
  with_reducible
    repeat' first
      | assumption | apply State.alu_canonical | apply OutCanonical.next

theorem execBext_canonical (a : Reg) (b : Reg) (r : Option RPfx) (s : State) (hs : s.Canonical) : OutCanonical (execBext a b r s) := by
  unfold execBext
  try dsimp only
  with_reducible
    repeat' first
      | assumption | apply State.alu_canonical | apply OutCanonical.next

theorem execBins_canonical (a : Reg) (b : Reg) (r : Option RPfx) (s : State) (hs : s.Canonical) : OutCanonical (execBins a b r s) := by
  unfold execBins
  try dsimp only
  with_reducible
    repeat' first
      | assumption | apply State.result_canonical | apply OutCanonical.next

end Sys2Proof.Machine
end

