-- ==== Sys2Proof/Laws/CanonVector.lean ====
section
/-!
SUPPORT. Sys2Proof/Laws/CanonVector.lean: each operation of Machine/Vector.lean keeps the canonical form of the state.
-/
namespace Sys2Proof.Machine

theorem State.typed_canonical (s : State) (ts : TypeSet) (r : Option RPfx) (k : Reg → State) (hs : s.Canonical) (hk : ∀ (y0 : Reg), (k y0).Canonical) : (State.typed s ts r k).Canonical := by
  unfold State.typed
  try dsimp only
  with_reducible
    repeat' first
      | apply canonical_ite | assumption | apply State.illegalType_canonical | apply hk

theorem State.resultVF_canonical (s : State) (vd : Reg) (w : Nat) (xs : List Rounded) (drops : Nat) (hs : s.Canonical) : (State.resultVF s vd w xs drops).Canonical := by
  unfold State.resultVF
  try dsimp only
  with_reducible
    repeat' first
      | assumption | apply State.resultV_canonical | apply State.raise_canonical

theorem State.vecInt_canonical (s : State) (f : IntOp) (a : Reg) (b : Reg) (r : Option RPfx) (t : Reg) (hs : s.Canonical) : (State.vecInt s f a b r t).Canonical := by
  unfold State.vecInt
  try dsimp only
  with_reducible
    repeat' first
      | assumption | apply State.resultV_canonical

theorem State.vecFloat_canonical (s : State) (f : Fmt → Modes → Nat → Nat → Rounded) (a : Reg) (b : Reg) (r : Option RPfx) (t : Reg) (drops : Nat) (hs : s.Canonical) : (State.vecFloat s f a b r t drops).Canonical := by
  unfold State.vecFloat
  try dsimp only
  with_reducible
    repeat' first
      | assumption | apply State.resultVF_canonical

theorem State.vecBoth_canonical (s : State) (f : IntOp) (g : Fmt → Modes → Nat → Nat → Rounded) (a : Reg) (b : Reg) (r : Option RPfx) (hs : s.Canonical) : (State.vecBoth s f g a b r).Canonical := by
  unfold State.vecBoth
  try dsimp only
  with_reducible
    repeat' first
      | apply canonical_ite | assumption | apply State.typed_canonical | apply State.vecInt_canonical
      | apply State.vecFloat_canonical | (intro _)

theorem State.vecBits_canonical (s : State) (f : VWord → VWord → VWord) (a : Reg) (b : Reg) (r : Option RPfx) (hs : s.Canonical) : (State.vecBits s f a b r).Canonical := by
  unfold State.vecBits
  try dsimp only
  with_reducible
    repeat' first
      | assumption | apply State.resultV_canonical

theorem State.vecShift_canonical (s : State) (f : Nat → Nat → Nat → Nat) (a : Reg) (b : Reg) (r : Option RPfx) (is : IPfx) (hs : s.Canonical) : (State.vecShift s f a b r is).Canonical := by
  unfold State.vecShift
  try dsimp only
  with_reducible
    repeat' first
      | apply canonical_ite | assumption | apply State.typed_canonical | apply State.illegalType_canonical
      | apply State.illegal_canonical | apply State.resultV_canonical | (intro _)

theorem State.vecUnary_canonical (s : State) (f : Fmt → Modes → Nat → Rounded) (a : Reg) (b : Reg) (r : Option RPfx) (drops : Nat) (hs : s.Canonical) : (State.vecUnary s f a b r drops).Canonical := by
  unfold State.vecUnary
  try dsimp only
  with_reducible
    repeat' first
      | assumption | apply State.typed_canonical | apply State.resultVF_canonical | (intro _)

theorem State.vecMap_canonical (s : State) (ts : TypeSet) (f : Nat → Nat → Nat) (g : Fmt → Nat → Nat) (a : Reg) (b : Reg) (r : Option RPfx) (hs : s.Canonical) : (State.vecMap s ts f g a b r).Canonical := by
  unfold State.vecMap
  try dsimp only
  with_reducible
    repeat' first
      | assumption | apply State.typed_canonical | apply State.resultV_canonical | (intro _)

theorem execVadd_canonical (a : Reg) (b : Reg) (r : Option RPfx) (s : State) (hs : s.Canonical) : OutCanonical (execVadd a b r s) := by
  unfold execVadd
  try dsimp only
  with_reducible
    repeat' first
      | assumption | apply State.vecBoth_canonical | apply OutCanonical.next

theorem execVsub_canonical (a : Reg) (b : Reg) (r : Option RPfx) (s : State) (hs : s.Canonical) : OutCanonical (execVsub a b r s) := by
  unfold execVsub
  try dsimp only
  with_reducible
    repeat' first
      | assumption | apply State.vecBoth_canonical | apply OutCanonical.next

theorem execVmul_canonical (a : Reg) (b : Reg) (r : Option RPfx) (s : State) (hs : s.Canonical) : OutCanonical (execVmul a b r s) := by
  unfold execVmul
  try dsimp only
  with_reducible
    repeat' first
      | assumption | apply State.vecBoth_canonical | apply OutCanonical.next

theorem execVmulh_canonical (a : Reg) (b : Reg) (r : Option RPfx) (s : State) (hs : s.Canonical) : OutCanonical (execVmulh a b r s) := by
  unfold execVmulh
  try dsimp only
  with_reducible
    repeat' first
      | assumption | apply State.typed_canonical | apply State.vecInt_canonical | apply OutCanonical.next | (intro _)

theorem execVmin_canonical (a : Reg) (b : Reg) (r : Option RPfx) (s : State) (hs : s.Canonical) : OutCanonical (execVmin a b r s) := by
  unfold execVmin
  try dsimp only
  with_reducible
    repeat' first
      | assumption | apply State.vecBoth_canonical | apply OutCanonical.next

theorem execVmax_canonical (a : Reg) (b : Reg) (r : Option RPfx) (s : State) (hs : s.Canonical) : OutCanonical (execVmax a b r s) := by
  unfold execVmax
  try dsimp only
  with_reducible
    repeat' first
      | assumption | apply State.vecBoth_canonical | apply OutCanonical.next

theorem execVminu_canonical (a : Reg) (b : Reg) (r : Option RPfx) (s : State) (hs : s.Canonical) : OutCanonical (execVminu a b r s) := by
  unfold execVminu
  try dsimp only
  with_reducible
    repeat' first
      | assumption | apply State.typed_canonical | apply State.vecInt_canonical | apply OutCanonical.next | (intro _)

theorem execVmaxu_canonical (a : Reg) (b : Reg) (r : Option RPfx) (s : State) (hs : s.Canonical) : OutCanonical (execVmaxu a b r s) := by
  unfold execVmaxu
  try dsimp only
  with_reducible
    repeat' first
      | assumption | apply State.typed_canonical | apply State.vecInt_canonical | apply OutCanonical.next | (intro _)

theorem execVand_canonical (a : Reg) (b : Reg) (r : Option RPfx) (s : State) (hs : s.Canonical) : OutCanonical (execVand a b r s) := by
  unfold execVand
  try dsimp only
  with_reducible
    repeat' first
      | assumption | apply State.vecBits_canonical | apply OutCanonical.next

theorem execVor_canonical (a : Reg) (b : Reg) (r : Option RPfx) (s : State) (hs : s.Canonical) : OutCanonical (execVor a b r s) := by
  unfold execVor
  try dsimp only
  with_reducible
    repeat' first
      | assumption | apply State.vecBits_canonical | apply OutCanonical.next

theorem execVxor_canonical (a : Reg) (b : Reg) (r : Option RPfx) (s : State) (hs : s.Canonical) : OutCanonical (execVxor a b r s) := by
  unfold execVxor
  try dsimp only
  with_reducible
    repeat' first
      | assumption | apply State.vecBits_canonical | apply OutCanonical.next

theorem execVandn_canonical (a : Reg) (b : Reg) (r : Option RPfx) (s : State) (hs : s.Canonical) : OutCanonical (execVandn a b r s) := by
  unfold execVandn
  try dsimp only
  with_reducible
    repeat' first
      | assumption | apply State.vecBits_canonical | apply OutCanonical.next

theorem execVshl_canonical (a : Reg) (b : Reg) (r : Option RPfx) (s : State) (hs : s.Canonical) : OutCanonical (execVshl a b r s) := by
  unfold execVshl
  try dsimp only
  with_reducible
    repeat' first
      | assumption | apply State.typed_canonical | apply State.vecInt_canonical | apply OutCanonical.next | (intro _)

theorem execVshr_canonical (a : Reg) (b : Reg) (r : Option RPfx) (s : State) (hs : s.Canonical) : OutCanonical (execVshr a b r s) := by
  unfold execVshr
  try dsimp only
  with_reducible
    repeat' first
      | assumption | apply State.typed_canonical | apply State.vecInt_canonical | apply OutCanonical.next | (intro _)

theorem execVsar_canonical (a : Reg) (b : Reg) (r : Option RPfx) (s : State) (hs : s.Canonical) : OutCanonical (execVsar a b r s) := by
  unfold execVsar
  try dsimp only
  with_reducible
    repeat' first
      | assumption | apply State.typed_canonical | apply State.vecInt_canonical | apply OutCanonical.next | (intro _)

theorem execVshli_canonical (a : Reg) (b : Reg) (r : Option RPfx) (is : IPfx) (s : State) (hs : s.Canonical) : OutCanonical (execVshli a b r is s) := by
  unfold execVshli
  try dsimp only
  with_reducible
    repeat' first
      | assumption | apply State.vecShift_canonical | apply OutCanonical.next

theorem execVshri_canonical (a : Reg) (b : Reg) (r : Option RPfx) (is : IPfx) (s : State) (hs : s.Canonical) : OutCanonical (execVshri a b r is s) := by
  unfold execVshri
  try dsimp only
  with_reducible
    repeat' first
      | assumption | apply State.vecShift_canonical | apply OutCanonical.next

theorem execVsari_canonical (a : Reg) (b : Reg) (r : Option RPfx) (is : IPfx) (s : State) (hs : s.Canonical) : OutCanonical (execVsari a b r is s) := by
  unfold execVsari
  try dsimp only
  with_reducible
    repeat' first
      | assumption | apply State.vecShift_canonical | apply OutCanonical.next

theorem State.vecAccumulate_canonical (s : State) (f : Fmt → Modes → Nat → Nat → Nat → Rounded) (a : Reg) (b : Reg) (r : Option RPfx) (hs : s.Canonical) : (State.vecAccumulate s f a b r).Canonical := by
  unfold State.vecAccumulate
  try dsimp only
  with_reducible
    repeat' first
      | assumption | apply State.typed_canonical | apply State.resultVF_canonical | (intro _)

theorem execVfma_canonical (a : Reg) (b : Reg) (r : Option RPfx) (s : State) (hs : s.Canonical) : OutCanonical (execVfma a b r s) := by
  unfold execVfma
  try dsimp only
  with_reducible
    repeat' first
      | assumption | apply State.vecAccumulate_canonical | apply OutCanonical.next

theorem execVfms_canonical (a : Reg) (b : Reg) (r : Option RPfx) (s : State) (hs : s.Canonical) : OutCanonical (execVfms a b r s) := by
  unfold execVfms
  try dsimp only
  with_reducible
    repeat' first
      | assumption | apply State.vecAccumulate_canonical | apply OutCanonical.next

theorem execVdiv_canonical (a : Reg) (b : Reg) (r : Option RPfx) (s : State) (hs : s.Canonical) : OutCanonical (execVdiv a b r s) := by
  unfold execVdiv
  try dsimp only
  with_reducible
    repeat' first
      | assumption | apply State.typed_canonical | apply State.vecFloat_canonical | apply OutCanonical.next | (intro _)

theorem execVsqrt_canonical (a : Reg) (b : Reg) (r : Option RPfx) (s : State) (hs : s.Canonical) : OutCanonical (execVsqrt a b r s) := by
  unfold execVsqrt
  try dsimp only
  with_reducible
    repeat' first
      | assumption | apply State.vecUnary_canonical | apply OutCanonical.next

theorem execVrcp_canonical (a : Reg) (b : Reg) (r : Option RPfx) (s : State) (hs : s.Canonical) : OutCanonical (execVrcp a b r s) := by
  unfold execVrcp
  try dsimp only
  with_reducible
    repeat' first
      | assumption | apply State.vecUnary_canonical | apply OutCanonical.next

theorem execVrsq_canonical (a : Reg) (b : Reg) (r : Option RPfx) (s : State) (hs : s.Canonical) : OutCanonical (execVrsq a b r s) := by
  unfold execVrsq
  try dsimp only
  with_reducible
    repeat' first
      | assumption | apply State.vecUnary_canonical | apply OutCanonical.next

theorem execVexp2_canonical (a : Reg) (b : Reg) (r : Option RPfx) (s : State) (hs : s.Canonical) : OutCanonical (execVexp2 a b r s) := by
  unfold execVexp2
  try dsimp only
  with_reducible
    repeat' first
      | assumption | apply State.vecUnary_canonical | apply OutCanonical.next

theorem execVlog2_canonical (a : Reg) (b : Reg) (r : Option RPfx) (s : State) (hs : s.Canonical) : OutCanonical (execVlog2 a b r s) := by
  unfold execVlog2
  try dsimp only
  with_reducible
    repeat' first
      | assumption | apply State.vecUnary_canonical | apply OutCanonical.next

theorem execVsin_canonical (a : Reg) (b : Reg) (r : Option RPfx) (s : State) (hs : s.Canonical) : OutCanonical (execVsin a b r s) := by
  unfold execVsin
  try dsimp only
  with_reducible
    repeat' first
      | assumption | apply State.vecUnary_canonical | apply OutCanonical.next

theorem execVcos_canonical (a : Reg) (b : Reg) (r : Option RPfx) (s : State) (hs : s.Canonical) : OutCanonical (execVcos a b r s) := by
  unfold execVcos
  try dsimp only
  with_reducible
    repeat' first
      | assumption | apply State.vecUnary_canonical | apply OutCanonical.next

theorem execVabs_canonical (a : Reg) (b : Reg) (r : Option RPfx) (s : State) (hs : s.Canonical) : OutCanonical (execVabs a b r s) := by
  unfold execVabs
  try dsimp only
  with_reducible
    repeat' first
      | assumption | apply State.vecMap_canonical | apply OutCanonical.next

theorem execVneg_canonical (a : Reg) (b : Reg) (r : Option RPfx) (s : State) (hs : s.Canonical) : OutCanonical (execVneg a b r s) := by
  unfold execVneg
  try dsimp only
  with_reducible
    repeat' first
      | assumption | apply State.vecMap_canonical | apply OutCanonical.next

theorem execVceq_canonical (a : Reg) (b : Reg) (r : Option RPfx) (s : State) (hs : s.Canonical) : OutCanonical (execVceq a b r s) := by
  unfold execVceq
  try dsimp only
  with_reducible
    repeat' first
      | assumption | apply State.vecBoth_canonical | apply OutCanonical.next

theorem execVclt_canonical (a : Reg) (b : Reg) (r : Option RPfx) (s : State) (hs : s.Canonical) : OutCanonical (execVclt a b r s) := by
  unfold execVclt
  try dsimp only
  with_reducible
    repeat' first
      | assumption | apply State.vecBoth_canonical | apply OutCanonical.next

theorem execVcltu_canonical (a : Reg) (b : Reg) (r : Option RPfx) (s : State) (hs : s.Canonical) : OutCanonical (execVcltu a b r s) := by
  unfold execVcltu
  try dsimp only
  with_reducible
    repeat' first
      | assumption | apply State.typed_canonical | apply State.vecInt_canonical | apply OutCanonical.next | (intro _)

theorem execVcle_canonical (a : Reg) (b : Reg) (r : Option RPfx) (s : State) (hs : s.Canonical) : OutCanonical (execVcle a b r s) := by
  unfold execVcle
  try dsimp only
  with_reducible
    repeat' first
      | assumption | apply State.vecBoth_canonical | apply OutCanonical.next

theorem execVsel_canonical (a : Reg) (b : Reg) (r : Option RPfx) (s : State) (hs : s.Canonical) : OutCanonical (execVsel a b r s) := by
  unfold execVsel
  try dsimp only
  with_reducible
    repeat' first
      | assumption | apply State.resultV_canonical | apply OutCanonical.next

theorem execVsplat_canonical (a : Reg) (b : Reg) (r : Option RPfx) (s : State) (hs : s.Canonical) : OutCanonical (execVsplat a b r s) := by
  unfold execVsplat
  try dsimp only
  with_reducible
    repeat' first
      | assumption | apply State.typed_canonical | apply State.resultV_canonical | apply OutCanonical.next | (intro _)

theorem State.lanePicked_canonical (s : State) (r : Option RPfx) (k : Reg → Nat → State) (hs : s.Canonical) (hk : ∀ (y0 : Reg) (y1 : Nat), (k y0 y1).Canonical) : (State.lanePicked s r k).Canonical := by
  unfold State.lanePicked
  try dsimp only
  with_reducible
    repeat' first
      | apply canonical_ite | assumption | apply State.typed_canonical | apply State.illegalType_canonical | apply hk
      | (intro _)

theorem execVext_canonical (a : Reg) (b : Reg) (r : Option RPfx) (s : State) (hs : s.Canonical) : OutCanonical (execVext a b r s) := by
  unfold execVext
  try dsimp only
  with_reducible
    repeat' first
      | assumption | apply State.lanePicked_canonical | apply State.result_canonical | apply OutCanonical.next | (intro _ _)

theorem execVins_canonical (a : Reg) (b : Reg) (r : Option RPfx) (s : State) (hs : s.Canonical) : OutCanonical (execVins a b r s) := by
  unfold execVins
  try dsimp only
  with_reducible
    repeat' first
      | assumption | apply State.lanePicked_canonical | apply State.resultV_canonical | apply OutCanonical.next
      | (intro _ _)

theorem execVshuf_canonical (a : Reg) (b : Reg) (r : Option RPfx) (s : State) (hs : s.Canonical) : OutCanonical (execVshuf a b r s) := by
  unfold execVshuf
  try dsimp only
  with_reducible
    repeat' first
      | assumption | apply State.typed_canonical | apply State.resultV_canonical | apply OutCanonical.next | (intro _)

theorem State.vecPair_canonical (s : State) (f : Nat → VWord → VWord → List Nat × List Nat) (a : Reg) (b : Reg) (r : Option RPfx) (hs : s.Canonical) : (State.vecPair s f a b r).Canonical := by
  unfold State.vecPair
  try dsimp only
  with_reducible
    repeat' first
      | apply canonical_ite | assumption | apply State.typed_canonical | apply State.illegal_canonical
      | apply State.resultV_canonical | apply State.wrV_canonical | (intro _)

theorem execVzip_canonical (a : Reg) (b : Reg) (r : Option RPfx) (s : State) (hs : s.Canonical) : OutCanonical (execVzip a b r s) := by
  unfold execVzip
  try dsimp only
  with_reducible
    repeat' first
      | assumption | apply State.vecPair_canonical | apply OutCanonical.next

theorem execVunzip_canonical (a : Reg) (b : Reg) (r : Option RPfx) (s : State) (hs : s.Canonical) : OutCanonical (execVunzip a b r s) := by
  unfold execVunzip
  try dsimp only
  with_reducible
    repeat' first
      | assumption | apply State.vecPair_canonical | apply OutCanonical.next

theorem execVcvt_canonical (a : Reg) (b : Reg) (r : Option RPfx) (s : State) (hs : s.Canonical) : OutCanonical (execVcvt a b r s) := by
  unfold execVcvt
  try dsimp only
  with_reducible
    repeat' first
      | apply canonical_ite | assumption | apply State.typed_canonical | apply State.illegalType_canonical
      | apply State.resultVF_canonical | apply OutCanonical.next | (intro _)

theorem execVred_canonical (a : Reg) (b : Reg) (r : Option RPfx) (s : State) (hs : s.Canonical) : OutCanonical (execVred a b r s) := by
  unfold execVred
  try dsimp only
  with_reducible
    repeat' first
      | apply canonical_ite | assumption | apply State.typed_canonical | apply State.illegalType_canonical
      | apply State.result_canonical | apply State.resultF_canonical | apply OutCanonical.next | (intro _)

theorem execVdot_canonical (a : Reg) (b : Reg) (r : Option RPfx) (s : State) (hs : s.Canonical) : OutCanonical (execVdot a b r s) := by
  unfold execVdot
  try dsimp only
  with_reducible
    repeat' first
      | apply canonical_ite | assumption | apply State.typed_canonical | apply State.resultV_canonical
      | apply State.resultVF_canonical | apply OutCanonical.next | (intro _)

theorem execVpopc_canonical (a : Reg) (b : Reg) (r : Option RPfx) (s : State) (hs : s.Canonical) : OutCanonical (execVpopc a b r s) := by
  unfold execVpopc
  try dsimp only
  with_reducible
    repeat' first
      | assumption | apply State.vecMap_canonical | apply OutCanonical.next

theorem execVmulw_canonical (a : Reg) (b : Reg) (r : Option RPfx) (s : State) (hs : s.Canonical) : OutCanonical (execVmulw a b r s) := by
  unfold execVmulw
  try dsimp only
  with_reducible
    repeat' first
      | apply canonical_ite | assumption | apply State.typed_canonical | apply State.resultV_canonical
      | apply State.resultVF_canonical | apply OutCanonical.next | (intro _)

theorem execVmov_canonical (a : Reg) (b : Reg) (s : State) (hs : s.Canonical) : OutCanonical (execVmov a b s) := by
  unfold execVmov
  try dsimp only
  with_reducible
    repeat' first
      | assumption | apply State.resultV_canonical | apply OutCanonical.next

end Sys2Proof.Machine
end

