-- ==== Sys2Proof/Laws/CanonStack.lean ====
section
/-!
SUPPORT. Sys2Proof/Laws/CanonStack.lean: each operation of Machine/Stack.lean keeps the canonical form of the state.
-/
namespace Sys2Proof.Machine

theorem execSgath_canonical (a : Reg) (b : Reg) (is : IPfx) (s : State) (hs : s.Canonical) : OutCanonical (execSgath a b is s) := by
  unfold execSgath
  try dsimp only
  with_reducible
    repeat' first
      | apply canonical_ite | assumption | apply State.withRec_canonical | apply State.refuseJob_canonical
      | apply State.issueJob_canonical | apply OutCanonical.next | (intro _)

theorem execScvt_canonical (a : Reg) (b : Reg) (is : IPfx) (s : State) (hs : s.Canonical) : OutCanonical (execScvt a b is s) := by
  unfold execScvt
  try dsimp only
  with_reducible
    repeat' first
      | apply canonical_ite | assumption | apply State.withRec_canonical | apply State.refuseJob_canonical
      | apply State.issueJob_canonical | apply OutCanonical.next | (intro _)

theorem execStackJobChunk_canonical (die : Nat) (s : State) (hs : s.Canonical) : OutCanonical (execStackJobChunk die s) := by
  unfold execStackJobChunk
  try dsimp only
  with_reducible
    repeat' first
      | apply canonical_ite | assumption | apply State.nextChunk_canonical | apply OutCanonical.next

theorem execStackJobEnd_canonical (die : Nat) (s : State) (hs : s.Canonical) : OutCanonical (execStackJobEnd die s) := by
  unfold execStackJobEnd
  try dsimp only
  with_reducible
    repeat' first
      | apply canonical_ite | assumption | apply State.jobEnd_canonical | apply OutCanonical.next

theorem State.withCell_canonical (s : State) (va : Word) (need : Need) (k : Target → State) (hs : s.Canonical) (hk : ∀ (y0 : Target), (k y0).Canonical) : (State.withCell s va need k).Canonical := by
  unfold State.withCell
  try dsimp only
  with_reducible
    repeat' first
      | assumption | apply State.trap_canonical | apply State.note14_canonical | apply hk | split

theorem execSredi_canonical (a : Reg) (b : Reg) (is : IPfx) (m : Option MPfx) (s : State) (hs : s.Canonical) : OutCanonical (execSredi a b is m s) := by
  unfold execSredi
  try dsimp only
  with_reducible
    repeat' first
      | assumption | apply State.withCell_canonical | apply State.sendChecked_canonical | apply OutCanonical.next
      | (intro _)

theorem execSredf_canonical (a : Reg) (b : Reg) (is : IPfx) (m : Option MPfx) (s : State) (hs : s.Canonical) : OutCanonical (execSredf a b is m s) := by
  unfold execSredf
  try dsimp only
  with_reducible
    repeat' first
      | assumption | apply State.withCell_canonical | apply State.sendChecked_canonical | apply OutCanonical.next
      | (intro _)

theorem State.postUpdate_canonical (s : State) (u : Update) (hs : s.Canonical) : (State.postUpdate s u).Canonical := by
  unfold State.postUpdate
  try dsimp only
  with_reducible
    repeat' first
      | apply canonical_ite | assumption | apply State.performUpdate_canonical | apply State.enqueue_canonical

theorem State.postUpdates_canonical (s : State) (va : Word) (pa : Nat) (fmt : Nat) (z : List Nat) (hs : s.Canonical) : (State.postUpdates s va pa fmt z).Canonical := by
  induction z generalizing s va pa fmt with
  | nil =>
    unfold State.postUpdates
    try dsimp only
    with_reducible
      repeat' first
        | apply canonical_ite | assumption
  | cons z0 zr ih =>
    unfold State.postUpdates
    try dsimp only
    with_reducible
      repeat' first
        | apply ih | assumption | apply State.postUpdate_canonical

theorem State.reduce_canonical (s : State) (va : Word) (ty : Reg) (xs : List Nat) (hs : s.Canonical) : (State.reduce s va ty xs).Canonical := by
  unfold State.reduce
  try dsimp only
  with_reducible
    repeat' first
      | assumption | apply State.withCell_canonical | apply State.trap_canonical | apply State.retire_canonical
      | apply State.postUpdates_canonical | apply State.drainWords_canonical | (intro _) | split

theorem execSred_canonical (a : Reg) (b : Reg) (r : Option RPfx) (is : IPfx) (s : State) (hs : s.Canonical) : OutCanonical (execSred a b r is s) := by
  unfold execSred
  try dsimp only
  with_reducible
    repeat' first
      | assumption | apply State.reduce_canonical | apply OutCanonical.next

theorem execSredv_canonical (a : Reg) (b : Reg) (r : Option RPfx) (is : IPfx) (s : State) (hs : s.Canonical) : OutCanonical (execSredv a b r is s) := by
  unfold execSredv
  try dsimp only
  with_reducible
    repeat' first
      | apply canonical_ite | assumption | apply State.illegalType_canonical | apply State.reduce_canonical
      | apply OutCanonical.next

end Sys2Proof.Machine
end

