-- ==== Sys2Proof/Laws/CanonStartup.lean ====
section
/-!
SUPPORT. Sys2Proof/Laws/CanonStartup.lean: each operation of Machine/Startup.lean keeps the canonical form of the state.
-/
namespace Sys2Proof.Machine

theorem execModuleReset_canonical (s : State) (hs : s.Canonical) : OutCanonical (execModuleReset s) := by
  have h := State.applyWhere_canonical s (fun _ => true) hs
  exact .next ⟨h.1, rfl, rfl, rfl, rfl, rfl, rfl, rfl⟩

theorem State.atStage_canonical (s : State) (n : Nat) (f : State → State) (hs : s.Canonical) (hf : ∀ (y0 : State), y0.Canonical → (f y0).Canonical) : OutCanonical (State.atStage s n f) := by
  unfold State.atStage
  try dsimp only
  with_reducible
    repeat' first
      | apply canonical_ite | assumption | apply hf | apply OutCanonical.next

theorem execRamovBoot_canonical (s : State) (hs : s.Canonical) : OutCanonical (execRamovBoot s) := by
  unfold execRamovBoot
  try dsimp only
  with_reducible
    repeat' first
      | assumption | apply State.atStage_canonical | (simp only [canonical_mk]; apply canonical_fold)

theorem execFirmwareVerify_canonical (s : State) (hs : s.Canonical) : OutCanonical (execFirmwareVerify s) := by
  unfold execFirmwareVerify
  try dsimp only
  with_reducible
    repeat' first
      | apply canonical_ite | assumption | apply State.atStage_canonical | (intro _ _)
      | (simp only [canonical_mk]; apply canonical_fold)

theorem State.loadImage_canonical (s : State) (pa : Nat) (bs : List Byte) (hs : s.Canonical) : (State.loadImage s pa bs).Canonical := by
  unfold State.loadImage
  try dsimp only
  with_reducible
    repeat' first
      | assumption | apply State.setFulls_canonical | apply State.putBytes_canonical

theorem State.releaseCtl_canonical (s : State) (d : Nat) (hs : s.Canonical) : (State.releaseCtl s d).Canonical := by
  unfold State.releaseCtl
  try dsimp only
  with_reducible
    repeat' first
      | assumption | apply State.loadImage_canonical | apply State.upd_canonical | apply State.startThread_canonical

theorem execControlCoreRelease_canonical (s : State) (hs : s.Canonical) : OutCanonical (execControlCoreRelease s) := by
  unfold execControlCoreRelease
  try dsimp only
  with_reducible
    repeat' first
      | assumption | apply State.atStage_canonical | apply State.releaseCtl_canonical | apply canonical_foldl | (intro _ _)
      | (simp only [canonical_mk]; apply canonical_fold)

theorem execLinkTraining_canonical (s : State) (hs : s.Canonical) : OutCanonical (execLinkTraining s) := by
  unfold execLinkTraining
  try dsimp only
  with_reducible
    repeat' first
      | apply canonical_ite | assumption | apply State.atStage_canonical | apply State.trainLinks_canonical | (intro _ _)
      | (simp only [canonical_mk]; apply canonical_fold)

theorem execPcieEnumerate_canonical (s : State) (hs : s.Canonical) : OutCanonical (execPcieEnumerate s) := by
  unfold execPcieEnumerate
  try dsimp only
  with_reducible
    repeat' first
      | apply outCanonical_ite | assumption | apply State.toHost_canonical | apply State.atStage_canonical
      | apply OutCanonical.next | (simp only [canonical_mk]; apply canonical_fold)

theorem execBootcmdWrite_canonical (fn : Nat) (value : BitVec 64) (s : State) (hs : s.Canonical) : OutCanonical (execBootcmdWrite fn value s) := by
  unfold execBootcmdWrite
  try dsimp only
  with_reducible
    repeat' first
      | assumption | apply State.atStage_canonical | apply State.noteBad_canonical | apply State.acquire_canonical
      | apply State.loadFresh_canonical | apply State.enterCode_canonical | apply OutCanonical.next | (intro _ _) | split
      | (simp only [canonical_mk]; apply canonical_fold)

end Sys2Proof.Machine
end

