-- ==== Sys2Proof/Laws/CanonFetch.lean ====
section
/-!
SUPPORT. Sys2Proof/Laws/CanonFetch.lean: each operation of Machine/Fetch.lean keeps the canonical form of the state.
-/
namespace Sys2Proof.Machine

theorem State.keepFetched_canonical (s : State) (tid : Nat) (pa : Nat) (va : Nat) (w : IWord) (hs : s.Canonical) : (State.keepFetched s tid pa va w).Canonical := by
  unfold State.keepFetched
  try dsimp only
  with_reducible
    repeat' first
      | apply canonical_ite | assumption | apply State.updCore_canonical | apply State.updCluster_canonical

theorem State.fetchWord_canonical (s : State) (tid : Nat) (va : Word) (hs : s.Canonical) : Sys2Proof.Machine.FetchOne.Ok (State.fetchWord s tid va) := by
  unfold State.fetchWord
  try dsimp only
  with_reducible
    repeat' first
      | apply FetchOne.Ok.word | apply FetchOne.Ok.trap | assumption | apply State.keepFetched_canonical | split
      | (simp only [canonical_mk]; apply canonical_fold)

theorem State.fetchFrom_canonical (s : State) (tid : Nat) (g : Gathered) (z : Nat) (hs : s.Canonical) : Sys2Proof.Machine.Fetched.Ok (State.fetchFrom s tid g z) := by
  induction z generalizing s tid g with
  | zero =>
    unfold State.fetchFrom
    try dsimp only
    with_reducible
      repeat' first
        | apply Fetched.ok_ite | apply Fetched.Ok.ok | apply Fetched.Ok.bad | apply Fetched.Ok.trap | apply canonical_ite
        | assumption | apply FetchOne.of_word (e := by assumption) | (intro _)
  | succ z0 ih =>
    unfold State.fetchFrom
    try dsimp only
    with_reducible
      repeat' first
        | apply ih | apply Fetched.Ok.ok | apply Fetched.Ok.bad | apply Fetched.Ok.trap | apply canonical_ite | assumption
        | apply FetchOne.of_word (e := by assumption) | apply State.fetchWord_canonical | split

theorem State.fetchGroup_canonical (s : State) (tid : Nat) (hs : s.Canonical) : Sys2Proof.Machine.Fetched.Ok (State.fetchGroup s tid) := by
  unfold State.fetchGroup
  try dsimp only
  with_reducible
    repeat' first
      | assumption | apply State.fetchFrom_canonical

end Sys2Proof.Machine
end

