-- ==== Sys2Proof/Laws/CanonIssue.lean ====
section
/-!
SUPPORT. Sys2Proof/Laws/CanonIssue.lean: each operation of Machine/Issue.lean keeps the canonical form of the state.
-/
namespace Sys2Proof.Machine

theorem State.boundary_canonical (s : State) (tid : Nat) (hs : s.Canonical) : OptOk (State.boundary s tid) := by
  unfold State.boundary
  try dsimp only
  with_reducible
    repeat' first
      | apply OptOk.ok_ite | apply OptOk.none | apply OptOk.some | assumption | apply State.halt_canonical
      | apply State.packTurn_canonical | apply State.boundaryTrap_canonical

theorem State.popHw_canonical (s : State) (tid : Nat) (hs : s.Canonical) : (State.popHw s tid).Canonical := by
  unfold State.popHw
  try dsimp only
  with_reducible
    repeat' first
      | assumption | apply State.relieveHw_canonical | apply State.upd_canonical | apply State.updHwq_canonical

theorem State.takePlaces_canonical (s : State) (tid : Nat) (n : Nat) (hs : s.Canonical) : (State.takePlaces s tid n).Canonical := by
  unfold State.takePlaces
  try dsimp only
  with_reducible
    repeat' first
      | assumption | apply State.updHwq_canonical

theorem State.parkHw_canonical (s : State) (tid : Nat) (q : Nat) (places : Nat) (hs : s.Canonical) : (State.parkHw s tid q places).Canonical := by
  unfold State.parkHw
  try dsimp only
  with_reducible
    repeat' first
      | apply canonical_ite | assumption | apply State.updCore_canonical | apply State.leaveHw_canonical
      | apply State.parkAgain_canonical

theorem State.claimHw_canonical (s : State) (tid : Nat) (g : Group) (hs : s.Canonical) : (State.claimHw s tid g).1.Canonical := by
  unfold State.claimHw
  try dsimp only
  with_reducible
    repeat' first
      | apply canonical_ite_fst | apply canonical_ite | assumption | apply State.parkHw_canonical
      | apply State.popHw_canonical | apply State.leaveHw_canonical | apply State.takePlaces_canonical

theorem State.claimHw_canonical_eq {s : State} {tid : Nat} {g : Group} (hs : s.Canonical) {s1 : State} {y : _} (heqn : State.claimHw s tid g = (s1, y)) : s1.Canonical := by
  have := State.claimHw_canonical s tid g hs
  rw [heqn] at this
  exact this

theorem State.pendingJob_canonical (s : State) (tid : Nat) (hs : s.Canonical) : OptOk (State.pendingJob s tid) := by
  unfold State.pendingJob
  try dsimp only
  with_reducible
    repeat' first
      | apply OptOk.none | apply OptOk.some | assumption | apply State.upd_canonical | apply State.parkMe_canonical
      | apply State.retire_canonical | apply State.acquire_canonical | apply State.trap_canonical | split

theorem State.askCores_canonical (s : State) (tid : Nat) (g : Group) (hs : s.Canonical) : (State.askCores s tid g).Canonical := by
  unfold State.askCores
  try dsimp only
  with_reducible
    repeat' first
      | apply canonical_ite | assumption | apply State.updCluster_canonical

theorem State.admitGroup_canonical (s : State) (tid : Nat) (i : Instr) (g : Group) (hs : s.Canonical) : Sys2Proof.Machine.Prepared.Ok (State.admitGroup s tid i g) := by
  unfold State.admitGroup
  try dsimp only
  with_reducible
    repeat' first
      | apply Prepared.Ok.done | apply Prepared.Ok.run | assumption | apply State.illegal_canonical
      | apply OptOk.of_some (e := by assumption) | apply State.pendingJob_canonical
      | apply State.claimHw_canonical_eq (heqn := by assumption) | apply State.askCores_canonical | split

theorem State.prepareGroup_canonical (s : State) (tid : Nat) (hs : s.Canonical) : Sys2Proof.Machine.Prepared.Ok (State.prepareGroup s tid) := by
  unfold State.prepareGroup
  try dsimp only
  with_reducible
    repeat' first
      | apply Prepared.Ok.done | assumption | apply State.trap_canonical | apply State.note14_canonical
      | apply Fetched.of_ok (e := by assumption) | apply State.fetchGroup_canonical | apply State.admitGroup_canonical
      | split | (simp only [canonical_mk]; apply canonical_fold)

theorem State.issueGroup_canonical (s : State) (tid : Nat) (hs : s.Canonical) : Sys2Proof.Machine.Prepared.Ok (State.issueGroup s tid) := by
  unfold State.issueGroup
  try dsimp only
  with_reducible
    repeat' first
      | assumption | apply State.updCore_canonical | apply State.upd_canonical | apply State.wake_canonical
      | apply State.prepareGroup_canonical | (simp only [canonical_mk]; apply canonical_fold)

theorem State.prepare_canonical (s : State) (tid : Nat) (hs : s.Canonical) : Sys2Proof.Machine.Prepared.Ok (State.prepare s tid) := by
  unfold State.prepare
  try dsimp only
  with_reducible
    repeat' first
      | apply Prepared.Ok.done | assumption | apply OptOk.of_some (e := by assumption) | apply State.boundary_canonical
      | apply State.quitAgain_canonical | apply State.issueGroup_canonical | split
      | (simp only [canonical_mk]; apply canonical_fold)

end Sys2Proof.Machine
end

