-- ==== Sys2Proof/Laws/PerInstr.lean ====
section
/-!
SUPPORT. Sys2Proof/Laws/PerInstr.lean: statements made of every instruction, one lemma a constructor: an instruction's group leads back
to it through its cell of Table 2.7, which accepts the prefixes that the group carries.
-/
namespace Sys2Proof.Laws

/-- The cell of the instruction's group builds the instruction from the group and accepts its prefixes; ILL has no cell. -/
def Form.Statement (i : Instr) : Prop :=
  ∀ g, i.group = some g →
    match cell g.page g.op with
    | none => g.page = 0 ∧ g.op = 0 ∧ i = .ill g.a g.b
    | some f => f.build g = i ∧ (g.r.isSome = true → f.accR = true) ∧ (g.is ≠ [] → f.accI = true) ∧
        (g.m.isSome = true → f.accM = true)

theorem Form.ill (a b : Reg) : Form.Statement (.ill a b) := by
  intro g h
  cases h
  exact ⟨rfl, rfl, rfl⟩

theorem Form.add (a b : Reg) (r : Option RPfx) : Form.Statement (.add a b r) := by
  intro g h
  cases h
  exact ⟨rfl, fun _ => rfl, fun h => absurd rfl h, (fun h => nomatch h)⟩

theorem Form.sub (a b : Reg) (r : Option RPfx) : Form.Statement (.sub a b r) := by
  intro g h
  cases h
  exact ⟨rfl, fun _ => rfl, fun h => absurd rfl h, (fun h => nomatch h)⟩

theorem Form.and (a b : Reg) (r : Option RPfx) : Form.Statement (.and a b r) := by
  intro g h
  cases h
  exact ⟨rfl, fun _ => rfl, fun h => absurd rfl h, (fun h => nomatch h)⟩

theorem Form.or (a b : Reg) (r : Option RPfx) : Form.Statement (.or a b r) := by
  intro g h
  cases h
  exact ⟨rfl, fun _ => rfl, fun h => absurd rfl h, (fun h => nomatch h)⟩

theorem Form.xor (a b : Reg) (r : Option RPfx) : Form.Statement (.xor a b r) := by
  intro g h
  cases h
  exact ⟨rfl, fun _ => rfl, fun h => absurd rfl h, (fun h => nomatch h)⟩

theorem Form.shl (a b : Reg) (r : Option RPfx) : Form.Statement (.shl a b r) := by
  intro g h
  cases h
  exact ⟨rfl, fun _ => rfl, fun h => absurd rfl h, (fun h => nomatch h)⟩

theorem Form.shr (a b : Reg) (r : Option RPfx) : Form.Statement (.shr a b r) := by
  intro g h
  cases h
  exact ⟨rfl, fun _ => rfl, fun h => absurd rfl h, (fun h => nomatch h)⟩

theorem Form.sar (a b : Reg) (r : Option RPfx) : Form.Statement (.sar a b r) := by
  intro g h
  cases h
  exact ⟨rfl, fun _ => rfl, fun h => absurd rfl h, (fun h => nomatch h)⟩

theorem Form.mul (a b : Reg) (r : Option RPfx) : Form.Statement (.mul a b r) := by
  intro g h
  cases h
  exact ⟨rfl, fun _ => rfl, fun h => absurd rfl h, (fun h => nomatch h)⟩

theorem Form.mov (a b : Reg) : Form.Statement (.mov a b) := by
  intro g h
  cases h
  exact ⟨rfl, (fun h => nomatch h), fun h => absurd rfl h, (fun h => nomatch h)⟩

theorem Form.slt (a b : Reg) (r : Option RPfx) : Form.Statement (.slt a b r) := by
  intro g h
  cases h
  exact ⟨rfl, fun _ => rfl, fun h => absurd rfl h, (fun h => nomatch h)⟩

theorem Form.sltu (a b : Reg) (r : Option RPfx) : Form.Statement (.sltu a b r) := by
  intro g h
  cases h
  exact ⟨rfl, fun _ => rfl, fun h => absurd rfl h, (fun h => nomatch h)⟩

theorem Form.seq (a b : Reg) (r : Option RPfx) : Form.Statement (.seq a b r) := by
  intro g h
  cases h
  exact ⟨rfl, fun _ => rfl, fun h => absurd rfl h, (fun h => nomatch h)⟩

theorem Form.min (a b : Reg) (r : Option RPfx) : Form.Statement (.min a b r) := by
  intro g h
  cases h
  exact ⟨rfl, fun _ => rfl, fun h => absurd rfl h, (fun h => nomatch h)⟩

theorem Form.max (a b : Reg) (r : Option RPfx) : Form.Statement (.max a b r) := by
  intro g h
  cases h
  exact ⟨rfl, fun _ => rfl, fun h => absurd rfl h, (fun h => nomatch h)⟩

theorem Form.addi (a b : Reg) (r : Option RPfx) (is : IPfx) : Form.Statement (.addi a b r is) := by
  intro g h
  cases h
  exact ⟨rfl, fun _ => rfl, fun _ => rfl, (fun h => nomatch h)⟩

theorem Form.andi (a b : Reg) (r : Option RPfx) (is : IPfx) : Form.Statement (.andi a b r is) := by
  intro g h
  cases h
  exact ⟨rfl, fun _ => rfl, fun _ => rfl, (fun h => nomatch h)⟩

theorem Form.ori (a b : Reg) (r : Option RPfx) (is : IPfx) : Form.Statement (.ori a b r is) := by
  intro g h
  cases h
  exact ⟨rfl, fun _ => rfl, fun _ => rfl, (fun h => nomatch h)⟩

theorem Form.xori (a b : Reg) (r : Option RPfx) (is : IPfx) : Form.Statement (.xori a b r is) := by
  intro g h
  cases h
  exact ⟨rfl, fun _ => rfl, fun _ => rfl, (fun h => nomatch h)⟩

theorem Form.shli (a b : Reg) (r : Option RPfx) (is : IPfx) : Form.Statement (.shli a b r is) := by
  intro g h
  cases h
  exact ⟨rfl, fun _ => rfl, fun _ => rfl, (fun h => nomatch h)⟩

theorem Form.shri (a b : Reg) (r : Option RPfx) (is : IPfx) : Form.Statement (.shri a b r is) := by
  intro g h
  cases h
  exact ⟨rfl, fun _ => rfl, fun _ => rfl, (fun h => nomatch h)⟩

theorem Form.sari (a b : Reg) (r : Option RPfx) (is : IPfx) : Form.Statement (.sari a b r is) := by
  intro g h
  cases h
  exact ⟨rfl, fun _ => rfl, fun _ => rfl, (fun h => nomatch h)⟩

theorem Form.slti (a b : Reg) (r : Option RPfx) (is : IPfx) : Form.Statement (.slti a b r is) := by
  intro g h
  cases h
  exact ⟨rfl, fun _ => rfl, fun _ => rfl, (fun h => nomatch h)⟩

theorem Form.seqi (a b : Reg) (r : Option RPfx) (is : IPfx) : Form.Statement (.seqi a b r is) := by
  intro g h
  cases h
  exact ⟨rfl, fun _ => rfl, fun _ => rfl, (fun h => nomatch h)⟩

theorem Form.ldi (a b : Reg) (is : IPfx) : Form.Statement (.ldi a b is) := by
  intro g h
  cases h
  exact ⟨rfl, (fun h => nomatch h), fun _ => rfl, (fun h => nomatch h)⟩

theorem Form.ldix (a b : Reg) (is : IPfx) : Form.Statement (.ldix a b is) := by
  intro g h
  cases h
  exact ⟨rfl, (fun h => nomatch h), fun _ => rfl, (fun h => nomatch h)⟩

theorem Form.ld8 (a b : Reg) (r : Option RPfx) (is : IPfx) (m : Option MPfx) : Form.Statement (.ld8 a b r is m) := by
  intro g h
  cases h
  exact ⟨rfl, fun _ => rfl, fun _ => rfl, fun _ => rfl⟩

theorem Form.ld16 (a b : Reg) (r : Option RPfx) (is : IPfx) (m : Option MPfx) : Form.Statement (.ld16 a b r is m) := by
  intro g h
  cases h
  exact ⟨rfl, fun _ => rfl, fun _ => rfl, fun _ => rfl⟩

theorem Form.ld32 (a b : Reg) (r : Option RPfx) (is : IPfx) (m : Option MPfx) : Form.Statement (.ld32 a b r is m) := by
  intro g h
  cases h
  exact ⟨rfl, fun _ => rfl, fun _ => rfl, fun _ => rfl⟩

theorem Form.ld64 (a b : Reg) (r : Option RPfx) (is : IPfx) (m : Option MPfx) : Form.Statement (.ld64 a b r is m) := by
  intro g h
  cases h
  exact ⟨rfl, fun _ => rfl, fun _ => rfl, fun _ => rfl⟩

theorem Form.ld8s (a b : Reg) (r : Option RPfx) (is : IPfx) (m : Option MPfx) : Form.Statement (.ld8s a b r is m) := by
  intro g h
  cases h
  exact ⟨rfl, fun _ => rfl, fun _ => rfl, fun _ => rfl⟩

theorem Form.ld16s (a b : Reg) (r : Option RPfx) (is : IPfx) (m : Option MPfx) : Form.Statement (.ld16s a b r is m) := by
  intro g h
  cases h
  exact ⟨rfl, fun _ => rfl, fun _ => rfl, fun _ => rfl⟩

theorem Form.ld32s (a b : Reg) (r : Option RPfx) (is : IPfx) (m : Option MPfx) : Form.Statement (.ld32s a b r is m) := by
  intro g h
  cases h
  exact ⟨rfl, fun _ => rfl, fun _ => rfl, fun _ => rfl⟩

theorem Form.st8 (a b : Reg) (r : Option RPfx) (is : IPfx) (m : Option MPfx) : Form.Statement (.st8 a b r is m) := by
  intro g h
  cases h
  exact ⟨rfl, fun _ => rfl, fun _ => rfl, fun _ => rfl⟩

theorem Form.st16 (a b : Reg) (r : Option RPfx) (is : IPfx) (m : Option MPfx) : Form.Statement (.st16 a b r is m) := by
  intro g h
  cases h
  exact ⟨rfl, fun _ => rfl, fun _ => rfl, fun _ => rfl⟩

theorem Form.st32 (a b : Reg) (r : Option RPfx) (is : IPfx) (m : Option MPfx) : Form.Statement (.st32 a b r is m) := by
  intro g h
  cases h
  exact ⟨rfl, fun _ => rfl, fun _ => rfl, fun _ => rfl⟩

theorem Form.st64 (a b : Reg) (r : Option RPfx) (is : IPfx) (m : Option MPfx) : Form.Statement (.st64 a b r is m) := by
  intro g h
  cases h
  exact ⟨rfl, fun _ => rfl, fun _ => rfl, fun _ => rfl⟩

theorem Form.ldv (a b : Reg) (r : Option RPfx) (is : IPfx) (m : Option MPfx) : Form.Statement (.ldv a b r is m) := by
  intro g h
  cases h
  exact ⟨rfl, fun _ => rfl, fun _ => rfl, fun _ => rfl⟩

theorem Form.stv (a b : Reg) (r : Option RPfx) (is : IPfx) (m : Option MPfx) : Form.Statement (.stv a b r is m) := by
  intro g h
  cases h
  exact ⟨rfl, fun _ => rfl, fun _ => rfl, fun _ => rfl⟩

theorem Form.beqz (a b : Reg) (is : IPfx) : Form.Statement (.beqz a b is) := by
  intro g h
  cases h
  exact ⟨rfl, (fun h => nomatch h), fun _ => rfl, (fun h => nomatch h)⟩

theorem Form.bnez (a b : Reg) (is : IPfx) : Form.Statement (.bnez a b is) := by
  intro g h
  cases h
  exact ⟨rfl, (fun h => nomatch h), fun _ => rfl, (fun h => nomatch h)⟩

theorem Form.bltz (a b : Reg) (is : IPfx) : Form.Statement (.bltz a b is) := by
  intro g h
  cases h
  exact ⟨rfl, (fun h => nomatch h), fun _ => rfl, (fun h => nomatch h)⟩

theorem Form.bgez (a b : Reg) (is : IPfx) : Form.Statement (.bgez a b is) := by
  intro g h
  cases h
  exact ⟨rfl, (fun h => nomatch h), fun _ => rfl, (fun h => nomatch h)⟩

theorem Form.beq (a b : Reg) (is : IPfx) : Form.Statement (.beq a b is) := by
  intro g h
  cases h
  exact ⟨rfl, (fun h => nomatch h), fun _ => rfl, (fun h => nomatch h)⟩

theorem Form.bne (a b : Reg) (is : IPfx) : Form.Statement (.bne a b is) := by
  intro g h
  cases h
  exact ⟨rfl, (fun h => nomatch h), fun _ => rfl, (fun h => nomatch h)⟩

theorem Form.blt (a b : Reg) (is : IPfx) : Form.Statement (.blt a b is) := by
  intro g h
  cases h
  exact ⟨rfl, (fun h => nomatch h), fun _ => rfl, (fun h => nomatch h)⟩

theorem Form.bltu (a b : Reg) (is : IPfx) : Form.Statement (.bltu a b is) := by
  intro g h
  cases h
  exact ⟨rfl, (fun h => nomatch h), fun _ => rfl, (fun h => nomatch h)⟩

theorem Form.j (a b : Reg) (is : IPfx) : Form.Statement (.j a b is) := by
  intro g h
  cases h
  exact ⟨rfl, (fun h => nomatch h), fun _ => rfl, (fun h => nomatch h)⟩

theorem Form.call (a b : Reg) (is : IPfx) : Form.Statement (.call a b is) := by
  intro g h
  cases h
  exact ⟨rfl, (fun h => nomatch h), fun _ => rfl, (fun h => nomatch h)⟩

theorem Form.callr (a b : Reg) : Form.Statement (.callr a b) := by
  intro g h
  cases h
  exact ⟨rfl, (fun h => nomatch h), fun h => absurd rfl h, (fun h => nomatch h)⟩

theorem Form.jr (a b : Reg) : Form.Statement (.jr a b) := by
  intro g h
  cases h
  exact ⟨rfl, (fun h => nomatch h), fun h => absurd rfl h, (fun h => nomatch h)⟩

theorem Form.ret (a b : Reg) : Form.Statement (.ret a b) := by
  intro g h
  cases h
  exact ⟨rfl, (fun h => nomatch h), fun h => absurd rfl h, (fun h => nomatch h)⟩

theorem Form.addpc (a b : Reg) (is : IPfx) : Form.Statement (.addpc a b is) := by
  intro g h
  cases h
  exact ⟨rfl, (fun h => nomatch h), fun _ => rfl, (fun h => nomatch h)⟩

theorem Form.rds (a b : Reg) : Form.Statement (.rds a b) := by
  intro g h
  cases h
  exact ⟨rfl, (fun h => nomatch h), fun h => absurd rfl h, (fun h => nomatch h)⟩

theorem Form.wrs (a b : Reg) : Form.Statement (.wrs a b) := by
  intro g h
  cases h
  exact ⟨rfl, (fun h => nomatch h), fun h => absurd rfl h, (fun h => nomatch h)⟩

theorem Form.brk (a b : Reg) (is : IPfx) : Form.Statement (.brk a b is) := by
  intro g h
  cases h
  exact ⟨rfl, (fun h => nomatch h), fun _ => rfl, (fun h => nomatch h)⟩

theorem Form.svc (a b : Reg) (is : IPfx) : Form.Statement (.svc a b is) := by
  intro g h
  cases h
  exact ⟨rfl, (fun h => nomatch h), fun _ => rfl, (fun h => nomatch h)⟩

theorem Form.nop (a b : Reg) : Form.Statement (.nop a b) := by
  intro g h
  cases h
  exact ⟨rfl, (fun h => nomatch h), fun h => absurd rfl h, (fun h => nomatch h)⟩

theorem Form.tret (a b : Reg) : Form.Statement (.tret a b) := by
  intro g h
  cases h
  exact ⟨rfl, (fun h => nomatch h), fun h => absurd rfl h, (fun h => nomatch h)⟩

theorem Form.vadd (a b : Reg) (r : Option RPfx) : Form.Statement (.vadd a b r) := by
  intro g h
  cases h
  exact ⟨rfl, fun _ => rfl, fun h => absurd rfl h, (fun h => nomatch h)⟩

theorem Form.vsub (a b : Reg) (r : Option RPfx) : Form.Statement (.vsub a b r) := by
  intro g h
  cases h
  exact ⟨rfl, fun _ => rfl, fun h => absurd rfl h, (fun h => nomatch h)⟩

theorem Form.vmul (a b : Reg) (r : Option RPfx) : Form.Statement (.vmul a b r) := by
  intro g h
  cases h
  exact ⟨rfl, fun _ => rfl, fun h => absurd rfl h, (fun h => nomatch h)⟩

theorem Form.vmulh (a b : Reg) (r : Option RPfx) : Form.Statement (.vmulh a b r) := by
  intro g h
  cases h
  exact ⟨rfl, fun _ => rfl, fun h => absurd rfl h, (fun h => nomatch h)⟩

theorem Form.vmin (a b : Reg) (r : Option RPfx) : Form.Statement (.vmin a b r) := by
  intro g h
  cases h
  exact ⟨rfl, fun _ => rfl, fun h => absurd rfl h, (fun h => nomatch h)⟩

theorem Form.vmax (a b : Reg) (r : Option RPfx) : Form.Statement (.vmax a b r) := by
  intro g h
  cases h
  exact ⟨rfl, fun _ => rfl, fun h => absurd rfl h, (fun h => nomatch h)⟩

theorem Form.vminu (a b : Reg) (r : Option RPfx) : Form.Statement (.vminu a b r) := by
  intro g h
  cases h
  exact ⟨rfl, fun _ => rfl, fun h => absurd rfl h, (fun h => nomatch h)⟩

theorem Form.vmaxu (a b : Reg) (r : Option RPfx) : Form.Statement (.vmaxu a b r) := by
  intro g h
  cases h
  exact ⟨rfl, fun _ => rfl, fun h => absurd rfl h, (fun h => nomatch h)⟩

theorem Form.vand (a b : Reg) (r : Option RPfx) : Form.Statement (.vand a b r) := by
  intro g h
  cases h
  exact ⟨rfl, fun _ => rfl, fun h => absurd rfl h, (fun h => nomatch h)⟩

theorem Form.vor (a b : Reg) (r : Option RPfx) : Form.Statement (.vor a b r) := by
  intro g h
  cases h
  exact ⟨rfl, fun _ => rfl, fun h => absurd rfl h, (fun h => nomatch h)⟩

theorem Form.vxor (a b : Reg) (r : Option RPfx) : Form.Statement (.vxor a b r) := by
  intro g h
  cases h
  exact ⟨rfl, fun _ => rfl, fun h => absurd rfl h, (fun h => nomatch h)⟩

theorem Form.vandn (a b : Reg) (r : Option RPfx) : Form.Statement (.vandn a b r) := by
  intro g h
  cases h
  exact ⟨rfl, fun _ => rfl, fun h => absurd rfl h, (fun h => nomatch h)⟩

theorem Form.vshl (a b : Reg) (r : Option RPfx) : Form.Statement (.vshl a b r) := by
  intro g h
  cases h
  exact ⟨rfl, fun _ => rfl, fun h => absurd rfl h, (fun h => nomatch h)⟩

theorem Form.vshr (a b : Reg) (r : Option RPfx) : Form.Statement (.vshr a b r) := by
  intro g h
  cases h
  exact ⟨rfl, fun _ => rfl, fun h => absurd rfl h, (fun h => nomatch h)⟩

theorem Form.vsar (a b : Reg) (r : Option RPfx) : Form.Statement (.vsar a b r) := by
  intro g h
  cases h
  exact ⟨rfl, fun _ => rfl, fun h => absurd rfl h, (fun h => nomatch h)⟩

theorem Form.vshli (a b : Reg) (r : Option RPfx) (is : IPfx) : Form.Statement (.vshli a b r is) := by
  intro g h
  cases h
  exact ⟨rfl, fun _ => rfl, fun _ => rfl, (fun h => nomatch h)⟩

theorem Form.vshri (a b : Reg) (r : Option RPfx) (is : IPfx) : Form.Statement (.vshri a b r is) := by
  intro g h
  cases h
  exact ⟨rfl, fun _ => rfl, fun _ => rfl, (fun h => nomatch h)⟩

theorem Form.vsari (a b : Reg) (r : Option RPfx) (is : IPfx) : Form.Statement (.vsari a b r is) := by
  intro g h
  cases h
  exact ⟨rfl, fun _ => rfl, fun _ => rfl, (fun h => nomatch h)⟩

theorem Form.vfma (a b : Reg) (r : Option RPfx) : Form.Statement (.vfma a b r) := by
  intro g h
  cases h
  exact ⟨rfl, fun _ => rfl, fun h => absurd rfl h, (fun h => nomatch h)⟩

theorem Form.vfms (a b : Reg) (r : Option RPfx) : Form.Statement (.vfms a b r) := by
  intro g h
  cases h
  exact ⟨rfl, fun _ => rfl, fun h => absurd rfl h, (fun h => nomatch h)⟩

theorem Form.vdiv (a b : Reg) (r : Option RPfx) : Form.Statement (.vdiv a b r) := by
  intro g h
  cases h
  exact ⟨rfl, fun _ => rfl, fun h => absurd rfl h, (fun h => nomatch h)⟩

theorem Form.vsqrt (a b : Reg) (r : Option RPfx) : Form.Statement (.vsqrt a b r) := by
  intro g h
  cases h
  exact ⟨rfl, fun _ => rfl, fun h => absurd rfl h, (fun h => nomatch h)⟩

theorem Form.vrcp (a b : Reg) (r : Option RPfx) : Form.Statement (.vrcp a b r) := by
  intro g h
  cases h
  exact ⟨rfl, fun _ => rfl, fun h => absurd rfl h, (fun h => nomatch h)⟩

theorem Form.vrsq (a b : Reg) (r : Option RPfx) : Form.Statement (.vrsq a b r) := by
  intro g h
  cases h
  exact ⟨rfl, fun _ => rfl, fun h => absurd rfl h, (fun h => nomatch h)⟩

theorem Form.vexp2 (a b : Reg) (r : Option RPfx) : Form.Statement (.vexp2 a b r) := by
  intro g h
  cases h
  exact ⟨rfl, fun _ => rfl, fun h => absurd rfl h, (fun h => nomatch h)⟩

theorem Form.vlog2 (a b : Reg) (r : Option RPfx) : Form.Statement (.vlog2 a b r) := by
  intro g h
  cases h
  exact ⟨rfl, fun _ => rfl, fun h => absurd rfl h, (fun h => nomatch h)⟩

theorem Form.vsin (a b : Reg) (r : Option RPfx) : Form.Statement (.vsin a b r) := by
  intro g h
  cases h
  exact ⟨rfl, fun _ => rfl, fun h => absurd rfl h, (fun h => nomatch h)⟩

theorem Form.vcos (a b : Reg) (r : Option RPfx) : Form.Statement (.vcos a b r) := by
  intro g h
  cases h
  exact ⟨rfl, fun _ => rfl, fun h => absurd rfl h, (fun h => nomatch h)⟩

theorem Form.vabs (a b : Reg) (r : Option RPfx) : Form.Statement (.vabs a b r) := by
  intro g h
  cases h
  exact ⟨rfl, fun _ => rfl, fun h => absurd rfl h, (fun h => nomatch h)⟩

theorem Form.vneg (a b : Reg) (r : Option RPfx) : Form.Statement (.vneg a b r) := by
  intro g h
  cases h
  exact ⟨rfl, fun _ => rfl, fun h => absurd rfl h, (fun h => nomatch h)⟩

theorem Form.vceq (a b : Reg) (r : Option RPfx) : Form.Statement (.vceq a b r) := by
  intro g h
  cases h
  exact ⟨rfl, fun _ => rfl, fun h => absurd rfl h, (fun h => nomatch h)⟩

theorem Form.vclt (a b : Reg) (r : Option RPfx) : Form.Statement (.vclt a b r) := by
  intro g h
  cases h
  exact ⟨rfl, fun _ => rfl, fun h => absurd rfl h, (fun h => nomatch h)⟩

theorem Form.vcltu (a b : Reg) (r : Option RPfx) : Form.Statement (.vcltu a b r) := by
  intro g h
  cases h
  exact ⟨rfl, fun _ => rfl, fun h => absurd rfl h, (fun h => nomatch h)⟩

theorem Form.vcle (a b : Reg) (r : Option RPfx) : Form.Statement (.vcle a b r) := by
  intro g h
  cases h
  exact ⟨rfl, fun _ => rfl, fun h => absurd rfl h, (fun h => nomatch h)⟩

theorem Form.vsel (a b : Reg) (r : Option RPfx) : Form.Statement (.vsel a b r) := by
  intro g h
  cases h
  exact ⟨rfl, fun _ => rfl, fun h => absurd rfl h, (fun h => nomatch h)⟩

theorem Form.vsplat (a b : Reg) (r : Option RPfx) : Form.Statement (.vsplat a b r) := by
  intro g h
  cases h
  exact ⟨rfl, fun _ => rfl, fun h => absurd rfl h, (fun h => nomatch h)⟩

theorem Form.vext (a b : Reg) (r : Option RPfx) : Form.Statement (.vext a b r) := by
  intro g h
  cases h
  exact ⟨rfl, fun _ => rfl, fun h => absurd rfl h, (fun h => nomatch h)⟩

theorem Form.vins (a b : Reg) (r : Option RPfx) : Form.Statement (.vins a b r) := by
  intro g h
  cases h
  exact ⟨rfl, fun _ => rfl, fun h => absurd rfl h, (fun h => nomatch h)⟩

theorem Form.vshuf (a b : Reg) (r : Option RPfx) : Form.Statement (.vshuf a b r) := by
  intro g h
  cases h
  exact ⟨rfl, fun _ => rfl, fun h => absurd rfl h, (fun h => nomatch h)⟩

theorem Form.vzip (a b : Reg) (r : Option RPfx) : Form.Statement (.vzip a b r) := by
  intro g h
  cases h
  exact ⟨rfl, fun _ => rfl, fun h => absurd rfl h, (fun h => nomatch h)⟩

theorem Form.vunzip (a b : Reg) (r : Option RPfx) : Form.Statement (.vunzip a b r) := by
  intro g h
  cases h
  exact ⟨rfl, fun _ => rfl, fun h => absurd rfl h, (fun h => nomatch h)⟩

theorem Form.vcvt (a b : Reg) (r : Option RPfx) : Form.Statement (.vcvt a b r) := by
  intro g h
  cases h
  exact ⟨rfl, fun _ => rfl, fun h => absurd rfl h, (fun h => nomatch h)⟩

theorem Form.vred (a b : Reg) (r : Option RPfx) : Form.Statement (.vred a b r) := by
  intro g h
  cases h
  exact ⟨rfl, fun _ => rfl, fun h => absurd rfl h, (fun h => nomatch h)⟩

theorem Form.vdot (a b : Reg) (r : Option RPfx) : Form.Statement (.vdot a b r) := by
  intro g h
  cases h
  exact ⟨rfl, fun _ => rfl, fun h => absurd rfl h, (fun h => nomatch h)⟩

theorem Form.vpopc (a b : Reg) (r : Option RPfx) : Form.Statement (.vpopc a b r) := by
  intro g h
  cases h
  exact ⟨rfl, fun _ => rfl, fun h => absurd rfl h, (fun h => nomatch h)⟩

theorem Form.vmulw (a b : Reg) (r : Option RPfx) : Form.Statement (.vmulw a b r) := by
  intro g h
  cases h
  exact ⟨rfl, fun _ => rfl, fun h => absurd rfl h, (fun h => nomatch h)⟩

theorem Form.vmov (a b : Reg) : Form.Statement (.vmov a b) := by
  intro g h
  cases h
  exact ⟨rfl, (fun h => nomatch h), fun h => absurd rfl h, (fun h => nomatch h)⟩

theorem Form.tdef (a b : Reg) (is : IPfx) : Form.Statement (.tdef a b is) := by
  intro g h
  cases h
  exact ⟨rfl, (fun h => nomatch h), fun _ => rfl, (fun h => nomatch h)⟩

theorem Form.tstat (a b : Reg) : Form.Statement (.tstat a b) := by
  intro g h
  cases h
  exact ⟨rfl, (fun h => nomatch h), fun h => absurd rfl h, (fun h => nomatch h)⟩

theorem Form.tready (a b : Reg) : Form.Statement (.tready a b) := by
  intro g h
  cases h
  exact ⟨rfl, (fun h => nomatch h), fun h => absurd rfl h, (fun h => nomatch h)⟩

theorem Form.tempty (a b : Reg) : Form.Statement (.tempty a b) := by
  intro g h
  cases h
  exact ⟨rfl, (fun h => nomatch h), fun h => absurd rfl h, (fun h => nomatch h)⟩

theorem Form.mma (a b : Reg) : Form.Statement (.mma a b) := by
  intro g h
  cases h
  exact ⟨rfl, (fun h => nomatch h), fun h => absurd rfl h, (fun h => nomatch h)⟩

theorem Form.mmaq (a b : Reg) (r : Option RPfx) : Form.Statement (.mmaq a b r) := by
  intro g h
  cases h
  exact ⟨rfl, fun _ => rfl, fun h => absurd rfl h, (fun h => nomatch h)⟩

theorem Form.mmag (a b : Reg) : Form.Statement (.mmag a b) := by
  intro g h
  cases h
  exact ⟨rfl, (fun h => nomatch h), fun h => absurd rfl h, (fun h => nomatch h)⟩

theorem Form.mmagq (a b : Reg) (r : Option RPfx) : Form.Statement (.mmagq a b r) := by
  intro g h
  cases h
  exact ⟨rfl, fun _ => rfl, fun h => absurd rfl h, (fun h => nomatch h)⟩

theorem Form.mzero (a b : Reg) : Form.Statement (.mzero a b) := by
  intro g h
  cases h
  exact ⟨rfl, (fun h => nomatch h), fun h => absurd rfl h, (fun h => nomatch h)⟩

theorem Form.mcvt (a b : Reg) : Form.Statement (.mcvt a b) := by
  intro g h
  cases h
  exact ⟨rfl, (fun h => nomatch h), fun h => absurd rfl h, (fun h => nomatch h)⟩

theorem Form.jwait (a b : Reg) : Form.Statement (.jwait a b) := by
  intro g h
  cases h
  exact ⟨rfl, (fun h => nomatch h), fun h => absurd rfl h, (fun h => nomatch h)⟩

theorem Form.jpoll (a b : Reg) : Form.Statement (.jpoll a b) := by
  intro g h
  cases h
  exact ⟨rfl, (fun h => nomatch h), fun h => absurd rfl h, (fun h => nomatch h)⟩

theorem Form.whint (a b : Reg) : Form.Statement (.whint a b) := by
  intro g h
  cases h
  exact ⟨rfl, (fun h => nomatch h), fun h => absurd rfl h, (fun h => nomatch h)⟩

theorem Form.amaxr (a b : Reg) : Form.Statement (.amaxr a b) := by
  intro g h
  cases h
  exact ⟨rfl, (fun h => nomatch h), fun h => absurd rfl h, (fun h => nomatch h)⟩

theorem Form.amaxc (a b : Reg) : Form.Statement (.amaxc a b) := by
  intro g h
  cases h
  exact ⟨rfl, (fun h => nomatch h), fun h => absurd rfl h, (fun h => nomatch h)⟩

theorem Form.copy (a b : Reg) (is : IPfx) : Form.Statement (.copy a b is) := by
  intro g h
  cases h
  exact ⟨rfl, (fun h => nomatch h), fun _ => rfl, (fun h => nomatch h)⟩

theorem Form.copyh (a b : Reg) : Form.Statement (.copyh a b) := by
  intro g h
  cases h
  exact ⟨rfl, (fun h => nomatch h), fun h => absurd rfl h, (fun h => nomatch h)⟩

theorem Form.hreg (a b : Reg) (is : IPfx) : Form.Statement (.hreg a b is) := by
  intro g h
  cases h
  exact ⟨rfl, (fun h => nomatch h), fun _ => rfl, (fun h => nomatch h)⟩

theorem Form.hfree (a b : Reg) : Form.Statement (.hfree a b) := by
  intro g h
  cases h
  exact ⟨rfl, (fun h => nomatch h), fun h => absurd rfl h, (fun h => nomatch h)⟩

theorem Form.hchk (a b : Reg) : Form.Statement (.hchk a b) := by
  intro g h
  cases h
  exact ⟨rfl, (fun h => nomatch h), fun h => absurd rfl h, (fun h => nomatch h)⟩

theorem Form.stxr (a b : Reg) (is : IPfx) : Form.Statement (.stxr a b is) := by
  intro g h
  cases h
  exact ⟨rfl, (fun h => nomatch h), fun _ => rfl, (fun h => nomatch h)⟩

theorem Form.stxp (a b : Reg) (is : IPfx) : Form.Statement (.stxp a b is) := by
  intro g h
  cases h
  exact ⟨rfl, (fun h => nomatch h), fun _ => rfl, (fun h => nomatch h)⟩

theorem Form.sgath (a b : Reg) (is : IPfx) : Form.Statement (.sgath a b is) := by
  intro g h
  cases h
  exact ⟨rfl, (fun h => nomatch h), fun _ => rfl, (fun h => nomatch h)⟩

theorem Form.sredi (a b : Reg) (is : IPfx) (m : Option MPfx) : Form.Statement (.sredi a b is m) := by
  intro g h
  cases h
  exact ⟨rfl, (fun h => nomatch h), fun _ => rfl, fun _ => rfl⟩

theorem Form.sred (a b : Reg) (r : Option RPfx) (is : IPfx) : Form.Statement (.sred a b r is) := by
  intro g h
  cases h
  exact ⟨rfl, fun _ => rfl, fun _ => rfl, (fun h => nomatch h)⟩

theorem Form.sredv (a b : Reg) (r : Option RPfx) (is : IPfx) : Form.Statement (.sredv a b r is) := by
  intro g h
  cases h
  exact ⟨rfl, fun _ => rfl, fun _ => rfl, (fun h => nomatch h)⟩

theorem Form.sredf (a b : Reg) (is : IPfx) (m : Option MPfx) : Form.Statement (.sredf a b is m) := by
  intro g h
  cases h
  exact ⟨rfl, (fun h => nomatch h), fun _ => rfl, fun _ => rfl⟩

theorem Form.scvt (a b : Reg) (is : IPfx) : Form.Statement (.scvt a b is) := by
  intro g h
  cases h
  exact ⟨rfl, (fun h => nomatch h), fun _ => rfl, (fun h => nomatch h)⟩

theorem Form.cancel (a b : Reg) : Form.Statement (.cancel a b) := by
  intro g h
  cases h
  exact ⟨rfl, (fun h => nomatch h), fun h => absurd rfl h, (fun h => nomatch h)⟩

theorem Form.spawn (a b : Reg) (is : IPfx) : Form.Statement (.spawn a b is) := by
  intro g h
  cases h
  exact ⟨rfl, (fun h => nomatch h), fun _ => rfl, (fun h => nomatch h)⟩

theorem Form.send (a b : Reg) : Form.Statement (.send a b) := by
  intro g h
  cases h
  exact ⟨rfl, (fun h => nomatch h), fun h => absurd rfl h, (fun h => nomatch h)⟩

theorem Form.recv (a b : Reg) : Form.Statement (.recv a b) := by
  intro g h
  cases h
  exact ⟨rfl, (fun h => nomatch h), fun h => absurd rfl h, (fun h => nomatch h)⟩

theorem Form.peek (a b : Reg) (r : Option RPfx) : Form.Statement (.peek a b r) := by
  intro g h
  cases h
  exact ⟨rfl, fun _ => rfl, fun h => absurd rfl h, (fun h => nomatch h)⟩

theorem Form.quit (a b : Reg) : Form.Statement (.quit a b) := by
  intro g h
  cases h
  exact ⟨rfl, (fun h => nomatch h), fun h => absurd rfl h, (fun h => nomatch h)⟩

theorem Form.task (a b : Reg) (r : Option RPfx) (is : IPfx) : Form.Statement (.task a b r is) := by
  intro g h
  cases h
  exact ⟨rfl, fun _ => rfl, fun _ => rfl, (fun h => nomatch h)⟩

theorem Form.launch (a b : Reg) (is : IPfx) : Form.Statement (.launch a b is) := by
  intro g h
  cases h
  exact ⟨rfl, (fun h => nomatch h), fun _ => rfl, (fun h => nomatch h)⟩

theorem Form.joini (a b : Reg) (r : Option RPfx) (is : IPfx) (m : Option MPfx) : Form.Statement (.joini a b r is m) := by
  intro g h
  cases h
  exact ⟨rfl, fun _ => rfl, fun _ => rfl, fun _ => rfl⟩

theorem Form.finit (a b : Reg) (is : IPfx) (m : Option MPfx) : Form.Statement (.finit a b is m) := by
  intro g h
  cases h
  exact ⟨rfl, (fun h => nomatch h), fun _ => rfl, fun _ => rfl⟩

theorem Form.fwait (a b : Reg) (is : IPfx) (m : Option MPfx) : Form.Statement (.fwait a b is m) := by
  intro g h
  cases h
  exact ⟨rfl, (fun h => nomatch h), fun _ => rfl, fun _ => rfl⟩

theorem Form.fput (a b : Reg) (is : IPfx) (m : Option MPfx) : Form.Statement (.fput a b is m) := by
  intro g h
  cases h
  exact ⟨rfl, (fun h => nomatch h), fun _ => rfl, fun _ => rfl⟩

theorem Form.lock (a b : Reg) (is : IPfx) (m : Option MPfx) : Form.Statement (.lock a b is m) := by
  intro g h
  cases h
  exact ⟨rfl, (fun h => nomatch h), fun _ => rfl, fun _ => rfl⟩

theorem Form.unlock (a b : Reg) (is : IPfx) (m : Option MPfx) : Form.Statement (.unlock a b is m) := by
  intro g h
  cases h
  exact ⟨rfl, (fun h => nomatch h), fun _ => rfl, fun _ => rfl⟩

theorem Form.qpush (a b : Reg) (is : IPfx) (m : Option MPfx) : Form.Statement (.qpush a b is m) := by
  intro g h
  cases h
  exact ⟨rfl, (fun h => nomatch h), fun _ => rfl, fun _ => rfl⟩

theorem Form.qpop (a b : Reg) (is : IPfx) (m : Option MPfx) : Form.Statement (.qpop a b is m) := by
  intro g h
  cases h
  exact ⟨rfl, (fun h => nomatch h), fun _ => rfl, fun _ => rfl⟩

theorem Form.amoadd (a b : Reg) (r : Option RPfx) (is : IPfx) (m : Option MPfx) : Form.Statement (.amoadd a b r is m) := by
  intro g h
  cases h
  exact ⟨rfl, fun _ => rfl, fun _ => rfl, fun _ => rfl⟩

theorem Form.amoand (a b : Reg) (r : Option RPfx) (is : IPfx) (m : Option MPfx) : Form.Statement (.amoand a b r is m) := by
  intro g h
  cases h
  exact ⟨rfl, fun _ => rfl, fun _ => rfl, fun _ => rfl⟩

theorem Form.amoor (a b : Reg) (r : Option RPfx) (is : IPfx) (m : Option MPfx) : Form.Statement (.amoor a b r is m) := by
  intro g h
  cases h
  exact ⟨rfl, fun _ => rfl, fun _ => rfl, fun _ => rfl⟩

theorem Form.amoxor (a b : Reg) (r : Option RPfx) (is : IPfx) (m : Option MPfx) : Form.Statement (.amoxor a b r is m) := by
  intro g h
  cases h
  exact ⟨rfl, fun _ => rfl, fun _ => rfl, fun _ => rfl⟩

theorem Form.amomin (a b : Reg) (r : Option RPfx) (is : IPfx) (m : Option MPfx) : Form.Statement (.amomin a b r is m) := by
  intro g h
  cases h
  exact ⟨rfl, fun _ => rfl, fun _ => rfl, fun _ => rfl⟩

theorem Form.amomax (a b : Reg) (r : Option RPfx) (is : IPfx) (m : Option MPfx) : Form.Statement (.amomax a b r is m) := by
  intro g h
  cases h
  exact ⟨rfl, fun _ => rfl, fun _ => rfl, fun _ => rfl⟩

theorem Form.amominu (a b : Reg) (r : Option RPfx) (is : IPfx) (m : Option MPfx) : Form.Statement (.amominu a b r is m) := by
  intro g h
  cases h
  exact ⟨rfl, fun _ => rfl, fun _ => rfl, fun _ => rfl⟩

theorem Form.amomaxu (a b : Reg) (r : Option RPfx) (is : IPfx) (m : Option MPfx) : Form.Statement (.amomaxu a b r is m) := by
  intro g h
  cases h
  exact ⟨rfl, fun _ => rfl, fun _ => rfl, fun _ => rfl⟩

theorem Form.amoswp (a b : Reg) (r : Option RPfx) (is : IPfx) (m : Option MPfx) : Form.Statement (.amoswp a b r is m) := by
  intro g h
  cases h
  exact ⟨rfl, fun _ => rfl, fun _ => rfl, fun _ => rfl⟩

theorem Form.cas (a b : Reg) (r : Option RPfx) (is : IPfx) (m : Option MPfx) : Form.Statement (.cas a b r is m) := by
  intro g h
  cases h
  exact ⟨rfl, fun _ => rfl, fun _ => rfl, fun _ => rfl⟩

theorem Form.vamo (a b : Reg) (r : Option RPfx) (is : IPfx) (m : Option MPfx) : Form.Statement (.vamo a b r is m) := by
  intro g h
  cases h
  exact ⟨rfl, fun _ => rfl, fun _ => rfl, fun _ => rfl⟩

theorem Form.empty (a b : Reg) (is : IPfx) (m : Option MPfx) : Form.Statement (.empty a b is m) := by
  intro g h
  cases h
  exact ⟨rfl, (fun h => nomatch h), fun _ => rfl, fun _ => rfl⟩

theorem Form.bari (a b : Reg) (r : Option RPfx) (is : IPfx) (m : Option MPfx) : Form.Statement (.bari a b r is m) := by
  intro g h
  cases h
  exact ⟨rfl, fun _ => rfl, fun _ => rfl, fun _ => rfl⟩

theorem Form.bar (a b : Reg) (is : IPfx) (m : Option MPfx) : Form.Statement (.bar a b is m) := by
  intro g h
  cases h
  exact ⟨rfl, (fun h => nomatch h), fun _ => rfl, fun _ => rfl⟩

theorem Form.fence (a b : Reg) (m : Option MPfx) : Form.Statement (.fence a b m) := by
  intro g h
  cases h
  exact ⟨rfl, (fun h => nomatch h), fun h => absurd rfl h, fun _ => rfl⟩

theorem Form.qbind (a b : Reg) : Form.Statement (.qbind a b) := by
  intro g h
  cases h
  exact ⟨rfl, (fun h => nomatch h), fun h => absurd rfl h, (fun h => nomatch h)⟩

theorem Form.qres (a b : Reg) (r : Option RPfx) (is : IPfx) (m : Option MPfx) : Form.Statement (.qres a b r is m) := by
  intro g h
  cases h
  exact ⟨rfl, fun _ => rfl, fun _ => rfl, fun _ => rfl⟩

theorem Form.rsv (a b : Reg) : Form.Statement (.rsv a b) := by
  intro g h
  cases h
  exact ⟨rfl, (fun h => nomatch h), fun h => absurd rfl h, (fun h => nomatch h)⟩

theorem Form.rsvw (a b : Reg) : Form.Statement (.rsvw a b) := by
  intro g h
  cases h
  exact ⟨rfl, (fun h => nomatch h), fun h => absurd rfl h, (fun h => nomatch h)⟩

theorem Form.rsvq (a b : Reg) : Form.Statement (.rsvq a b) := by
  intro g h
  cases h
  exact ⟨rfl, (fun h => nomatch h), fun h => absurd rfl h, (fun h => nomatch h)⟩

theorem Form.rwait (a b : Reg) : Form.Statement (.rwait a b) := by
  intro g h
  cases h
  exact ⟨rfl, (fun h => nomatch h), fun h => absurd rfl h, (fun h => nomatch h)⟩

theorem Form.leap (a b : Reg) : Form.Statement (.leap a b) := by
  intro g h
  cases h
  exact ⟨rfl, (fun h => nomatch h), fun h => absurd rfl h, (fun h => nomatch h)⟩

theorem Form.lend (a b : Reg) : Form.Statement (.lend a b) := by
  intro g h
  cases h
  exact ⟨rfl, (fun h => nomatch h), fun h => absurd rfl h, (fun h => nomatch h)⟩

theorem Form.rqry (a b : Reg) : Form.Statement (.rqry a b) := by
  intro g h
  cases h
  exact ⟨rfl, (fun h => nomatch h), fun h => absurd rfl h, (fun h => nomatch h)⟩

theorem Form.mtrq (a b : Reg) : Form.Statement (.mtrq a b) := by
  intro g h
  cases h
  exact ⟨rfl, (fun h => nomatch h), fun h => absurd rfl h, (fun h => nomatch h)⟩

theorem Form.mtrs (a b : Reg) : Form.Statement (.mtrs a b) := by
  intro g h
  cases h
  exact ⟨rfl, (fun h => nomatch h), fun h => absurd rfl h, (fun h => nomatch h)⟩

theorem Form.rdp (a b : Reg) : Form.Statement (.rdp a b) := by
  intro g h
  cases h
  exact ⟨rfl, (fun h => nomatch h), fun h => absurd rfl h, (fun h => nomatch h)⟩

theorem Form.wrp (a b : Reg) : Form.Statement (.wrp a b) := by
  intro g h
  cases h
  exact ⟨rfl, (fun h => nomatch h), fun h => absurd rfl h, (fun h => nomatch h)⟩

theorem Form.stret (a b : Reg) : Form.Statement (.stret a b) := by
  intro g h
  cases h
  exact ⟨rfl, (fun h => nomatch h), fun h => absurd rfl h, (fun h => nomatch h)⟩

theorem Form.tlbi (a b : Reg) : Form.Statement (.tlbi a b) := by
  intro g h
  cases h
  exact ⟨rfl, (fun h => nomatch h), fun h => absurd rfl h, (fun h => nomatch h)⟩

theorem Form.ctxs (a b : Reg) (is : IPfx) : Form.Statement (.ctxs a b is) := by
  intro g h
  cases h
  exact ⟨rfl, (fun h => nomatch h), fun _ => rfl, (fun h => nomatch h)⟩

theorem Form.ctxl (a b : Reg) (is : IPfx) : Form.Statement (.ctxl a b is) := by
  intro g h
  cases h
  exact ⟨rfl, (fun h => nomatch h), fun _ => rfl, (fun h => nomatch h)⟩

theorem Form.preempt (a b : Reg) : Form.Statement (.preempt a b) := by
  intro g h
  cases h
  exact ⟨rfl, (fun h => nomatch h), fun h => absurd rfl h, (fun h => nomatch h)⟩

theorem Form.kill (a b : Reg) : Form.Statement (.kill a b) := by
  intro g h
  cases h
  exact ⟨rfl, (fun h => nomatch h), fun h => absurd rfl h, (fun h => nomatch h)⟩

theorem Form.migr (a b : Reg) : Form.Statement (.migr a b) := by
  intro g h
  cases h
  exact ⟨rfl, (fun h => nomatch h), fun h => absurd rfl h, (fun h => nomatch h)⟩

theorem Form.secm (a b : Reg) (is : IPfx) : Form.Statement (.secm a b is) := by
  intro g h
  cases h
  exact ⟨rfl, (fun h => nomatch h), fun _ => rfl, (fun h => nomatch h)⟩

theorem Form.halt (a b : Reg) : Form.Statement (.halt a b) := by
  intro g h
  cases h
  exact ⟨rfl, (fun h => nomatch h), fun h => absurd rfl h, (fun h => nomatch h)⟩

theorem Form.icinv (a b : Reg) : Form.Statement (.icinv a b) := by
  intro g h
  cases h
  exact ⟨rfl, (fun h => nomatch h), fun h => absurd rfl h, (fun h => nomatch h)⟩

theorem Form.mulh (a b : Reg) (r : Option RPfx) : Form.Statement (.mulh a b r) := by
  intro g h
  cases h
  exact ⟨rfl, fun _ => rfl, fun h => absurd rfl h, (fun h => nomatch h)⟩

theorem Form.mulhu (a b : Reg) (r : Option RPfx) : Form.Statement (.mulhu a b r) := by
  intro g h
  cases h
  exact ⟨rfl, fun _ => rfl, fun h => absurd rfl h, (fun h => nomatch h)⟩

theorem Form.div (a b : Reg) (r : Option RPfx) : Form.Statement (.div a b r) := by
  intro g h
  cases h
  exact ⟨rfl, fun _ => rfl, fun h => absurd rfl h, (fun h => nomatch h)⟩

theorem Form.divu (a b : Reg) (r : Option RPfx) : Form.Statement (.divu a b r) := by
  intro g h
  cases h
  exact ⟨rfl, fun _ => rfl, fun h => absurd rfl h, (fun h => nomatch h)⟩

theorem Form.rem (a b : Reg) (r : Option RPfx) : Form.Statement (.rem a b r) := by
  intro g h
  cases h
  exact ⟨rfl, fun _ => rfl, fun h => absurd rfl h, (fun h => nomatch h)⟩

theorem Form.remu (a b : Reg) (r : Option RPfx) : Form.Statement (.remu a b r) := by
  intro g h
  cases h
  exact ⟨rfl, fun _ => rfl, fun h => absurd rfl h, (fun h => nomatch h)⟩

theorem Form.minu (a b : Reg) (r : Option RPfx) : Form.Statement (.minu a b r) := by
  intro g h
  cases h
  exact ⟨rfl, fun _ => rfl, fun h => absurd rfl h, (fun h => nomatch h)⟩

theorem Form.maxu (a b : Reg) (r : Option RPfx) : Form.Statement (.maxu a b r) := by
  intro g h
  cases h
  exact ⟨rfl, fun _ => rfl, fun h => absurd rfl h, (fun h => nomatch h)⟩

theorem Form.neg (a b : Reg) : Form.Statement (.neg a b) := by
  intro g h
  cases h
  exact ⟨rfl, (fun h => nomatch h), fun h => absurd rfl h, (fun h => nomatch h)⟩

theorem Form.not (a b : Reg) : Form.Statement (.not a b) := by
  intro g h
  cases h
  exact ⟨rfl, (fun h => nomatch h), fun h => absurd rfl h, (fun h => nomatch h)⟩

theorem Form.clz (a b : Reg) : Form.Statement (.clz a b) := by
  intro g h
  cases h
  exact ⟨rfl, (fun h => nomatch h), fun h => absurd rfl h, (fun h => nomatch h)⟩

theorem Form.ctz (a b : Reg) : Form.Statement (.ctz a b) := by
  intro g h
  cases h
  exact ⟨rfl, (fun h => nomatch h), fun h => absurd rfl h, (fun h => nomatch h)⟩

theorem Form.popc (a b : Reg) : Form.Statement (.popc a b) := by
  intro g h
  cases h
  exact ⟨rfl, (fun h => nomatch h), fun h => absurd rfl h, (fun h => nomatch h)⟩

theorem Form.brev (a b : Reg) : Form.Statement (.brev a b) := by
  intro g h
  cases h
  exact ⟨rfl, (fun h => nomatch h), fun h => absurd rfl h, (fun h => nomatch h)⟩

theorem Form.bswap (a b : Reg) : Form.Statement (.bswap a b) := by
  intro g h
  cases h
  exact ⟨rfl, (fun h => nomatch h), fun h => absurd rfl h, (fun h => nomatch h)⟩

theorem Form.sextb (a b : Reg) : Form.Statement (.sextb a b) := by
  intro g h
  cases h
  exact ⟨rfl, (fun h => nomatch h), fun h => absurd rfl h, (fun h => nomatch h)⟩

theorem Form.sexth (a b : Reg) : Form.Statement (.sexth a b) := by
  intro g h
  cases h
  exact ⟨rfl, (fun h => nomatch h), fun h => absurd rfl h, (fun h => nomatch h)⟩

theorem Form.sextw (a b : Reg) : Form.Statement (.sextw a b) := by
  intro g h
  cases h
  exact ⟨rfl, (fun h => nomatch h), fun h => absurd rfl h, (fun h => nomatch h)⟩

theorem Form.rol (a b : Reg) (r : Option RPfx) : Form.Statement (.rol a b r) := by
  intro g h
  cases h
  exact ⟨rfl, fun _ => rfl, fun h => absurd rfl h, (fun h => nomatch h)⟩

theorem Form.ror (a b : Reg) (r : Option RPfx) : Form.Statement (.ror a b r) := by
  intro g h
  cases h
  exact ⟨rfl, fun _ => rfl, fun h => absurd rfl h, (fun h => nomatch h)⟩

theorem Form.bext (a b : Reg) (r : Option RPfx) : Form.Statement (.bext a b r) := by
  intro g h
  cases h
  exact ⟨rfl, fun _ => rfl, fun h => absurd rfl h, (fun h => nomatch h)⟩

theorem Form.bins (a b : Reg) (r : Option RPfx) : Form.Statement (.bins a b r) := by
  intro g h
  cases h
  exact ⟨rfl, fun _ => rfl, fun h => absurd rfl h, (fun h => nomatch h)⟩

theorem Form.fadd (a b : Reg) (r : Option RPfx) : Form.Statement (.fadd a b r) := by
  intro g h
  cases h
  exact ⟨rfl, fun _ => rfl, fun h => absurd rfl h, (fun h => nomatch h)⟩

theorem Form.fsub (a b : Reg) (r : Option RPfx) : Form.Statement (.fsub a b r) := by
  intro g h
  cases h
  exact ⟨rfl, fun _ => rfl, fun h => absurd rfl h, (fun h => nomatch h)⟩

theorem Form.fmul (a b : Reg) (r : Option RPfx) : Form.Statement (.fmul a b r) := by
  intro g h
  cases h
  exact ⟨rfl, fun _ => rfl, fun h => absurd rfl h, (fun h => nomatch h)⟩

theorem Form.fdiv (a b : Reg) (r : Option RPfx) : Form.Statement (.fdiv a b r) := by
  intro g h
  cases h
  exact ⟨rfl, fun _ => rfl, fun h => absurd rfl h, (fun h => nomatch h)⟩

theorem Form.fsqrt (a b : Reg) (r : Option RPfx) : Form.Statement (.fsqrt a b r) := by
  intro g h
  cases h
  exact ⟨rfl, fun _ => rfl, fun h => absurd rfl h, (fun h => nomatch h)⟩

theorem Form.fma (a b : Reg) (r : Option RPfx) : Form.Statement (.fma a b r) := by
  intro g h
  cases h
  exact ⟨rfl, fun _ => rfl, fun h => absurd rfl h, (fun h => nomatch h)⟩

theorem Form.fmin (a b : Reg) (r : Option RPfx) : Form.Statement (.fmin a b r) := by
  intro g h
  cases h
  exact ⟨rfl, fun _ => rfl, fun h => absurd rfl h, (fun h => nomatch h)⟩

theorem Form.fmax (a b : Reg) (r : Option RPfx) : Form.Statement (.fmax a b r) := by
  intro g h
  cases h
  exact ⟨rfl, fun _ => rfl, fun h => absurd rfl h, (fun h => nomatch h)⟩

theorem Form.feq (a b : Reg) (r : Option RPfx) : Form.Statement (.feq a b r) := by
  intro g h
  cases h
  exact ⟨rfl, fun _ => rfl, fun h => absurd rfl h, (fun h => nomatch h)⟩

theorem Form.flt (a b : Reg) (r : Option RPfx) : Form.Statement (.flt a b r) := by
  intro g h
  cases h
  exact ⟨rfl, fun _ => rfl, fun h => absurd rfl h, (fun h => nomatch h)⟩

theorem Form.fle (a b : Reg) (r : Option RPfx) : Form.Statement (.fle a b r) := by
  intro g h
  cases h
  exact ⟨rfl, fun _ => rfl, fun h => absurd rfl h, (fun h => nomatch h)⟩

theorem Form.fcvti (a b : Reg) (r : Option RPfx) : Form.Statement (.fcvti a b r) := by
  intro g h
  cases h
  exact ⟨rfl, fun _ => rfl, fun h => absurd rfl h, (fun h => nomatch h)⟩

theorem Form.fcvtf (a b : Reg) (r : Option RPfx) : Form.Statement (.fcvtf a b r) := by
  intro g h
  cases h
  exact ⟨rfl, fun _ => rfl, fun h => absurd rfl h, (fun h => nomatch h)⟩

theorem Form.fcvt (a b : Reg) (r : Option RPfx) : Form.Statement (.fcvt a b r) := by
  intro g h
  cases h
  exact ⟨rfl, fun _ => rfl, fun h => absurd rfl h, (fun h => nomatch h)⟩

theorem Form.fclass (a b : Reg) (r : Option RPfx) : Form.Statement (.fclass a b r) := by
  intro g h
  cases h
  exact ⟨rfl, fun _ => rfl, fun h => absurd rfl h, (fun h => nomatch h)⟩

theorem Form.rcp (a b : Reg) (r : Option RPfx) : Form.Statement (.rcp a b r) := by
  intro g h
  cases h
  exact ⟨rfl, fun _ => rfl, fun h => absurd rfl h, (fun h => nomatch h)⟩

theorem Form.rsq (a b : Reg) (r : Option RPfx) : Form.Statement (.rsq a b r) := by
  intro g h
  cases h
  exact ⟨rfl, fun _ => rfl, fun h => absurd rfl h, (fun h => nomatch h)⟩

theorem Form.fabs (a b : Reg) (r : Option RPfx) : Form.Statement (.fabs a b r) := by
  intro g h
  cases h
  exact ⟨rfl, fun _ => rfl, fun h => absurd rfl h, (fun h => nomatch h)⟩

theorem Form.fneg (a b : Reg) (r : Option RPfx) : Form.Statement (.fneg a b r) := by
  intro g h
  cases h
  exact ⟨rfl, fun _ => rfl, fun h => absurd rfl h, (fun h => nomatch h)⟩

theorem Form.qd (core : Nat) : Form.Statement (.qd core) := by
  intro g h
  cases h

theorem Form.bd (cluster : Nat) (index : Nat) : Form.Statement (.bd cluster index) := by
  intro g h
  cases h

theorem Form.nd (src : Nat) (dst : Nat) : Form.Statement (.nd src dst) := by
  intro g h
  cases h

theorem Form.cf (cluster : Nat) (line : Nat) : Form.Statement (.cf cluster line) := by
  intro g h
  cases h

theorem Form.ce (cluster : Nat) (line : Nat) : Form.Statement (.ce cluster line) := by
  intro g h
  cases h

theorem Form.ew (unit : Nat) (n : Nat) : Form.Statement (.ew unit n) := by
  intro g h
  cases h

theorem Form.er (unit : Nat) (n : Nat) : Form.Statement (.er unit n) := by
  intro g h
  cases h

theorem Form.pt (tid : Nat) : Form.Statement (.pt tid) := by
  intro g h
  cases h

theorem Form.ms (n : Nat) : Form.Statement (.ms n) := by
  intro g h
  cases h

theorem Form.windowSpill (tid : Nat) : Form.Statement (.windowSpill tid) := by
  intro g h
  cases h

theorem Form.windowFill (tid : Nat) : Form.Statement (.windowFill tid) := by
  intro g h
  cases h

theorem Form.userTrapDelivery (tid : Nat) : Form.Statement (.userTrapDelivery tid) := by
  intro g h
  cases h

theorem Form.supervisorTrapDelivery (tid : Nat) : Form.Statement (.supervisorTrapDelivery tid) := by
  intro g h
  cases h

theorem Form.startMessageAccept (tid : Nat) : Form.Statement (.startMessageAccept tid) := by
  intro g h
  cases h

theorem Form.slotStart (core : Nat) : Form.Statement (.slotStart core) := by
  intro g h
  cases h

theorem Form.launchAccept (tid : Nat) : Form.Statement (.launchAccept tid) := by
  intro g h
  cases h

theorem Form.schedulerPlace (die : Nat) : Form.Statement (.schedulerPlace die) := by
  intro g h
  cases h

theorem Form.joinDecrement (n : Nat) : Form.Statement (.joinDecrement n) := by
  intro g h
  cases h

theorem Form.matrixJobRun (cluster : Nat) (octet : Nat) : Form.Statement (.matrixJobRun cluster octet) := by
  intro g h
  cases h

theorem Form.chainWriteback (cluster : Nat) (octet : Nat) : Form.Statement (.chainWriteback cluster octet) := by
  intro g h
  cases h

theorem Form.mzeroJob (cluster : Nat) (octet : Nat) : Form.Statement (.mzeroJob cluster octet) := by
  intro g h
  cases h

theorem Form.mcvtJob (cluster : Nat) (octet : Nat) : Form.Statement (.mcvtJob cluster octet) := by
  intro g h
  cases h

theorem Form.runAhead (cluster : Nat) (octet : Nat) : Form.Statement (.runAhead cluster octet) := by
  intro g h
  cases h

theorem Form.engineIdleGate (cluster : Nat) (octet : Nat) : Form.Statement (.engineIdleGate cluster octet) := by
  intro g h
  cases h

theorem Form.engineSwitchOn (cluster : Nat) (octet : Nat) : Form.Statement (.engineSwitchOn cluster octet) := by
  intro g h
  cases h

theorem Form.copyChunk (cluster : Nat) (octet : Nat) : Form.Statement (.copyChunk cluster octet) := by
  intro g h
  cases h

theorem Form.copyJobEnd (cluster : Nat) (octet : Nat) : Form.Statement (.copyJobEnd cluster octet) := by
  intro g h
  cases h

theorem Form.stackJobChunk (die : Nat) : Form.Statement (.stackJobChunk die) := by
  intro g h
  cases h

theorem Form.stackJobEnd (die : Nat) : Form.Statement (.stackJobEnd die) := by
  intro g h
  cases h

theorem Form.tableWalk (tid : Nat) (va : Nat) : Form.Statement (.tableWalk tid va) := by
  intro g h
  cases h

theorem Form.tlbiAck (n : Nat) (cluster : Nat) : Form.Statement (.tlbiAck n cluster) := by
  intro g h
  cases h

theorem Form.preemptHalt (tid : Nat) : Form.Statement (.preemptHalt tid) := by
  intro g h
  cases h

theorem Form.killComplete (context : Nat) : Form.Statement (.killComplete context) := by
  intro g h
  cases h

theorem Form.migrationPack (tid : Nat) : Form.Statement (.migrationPack tid) := by
  intro g h
  cases h

theorem Form.tadpoleShip (tid : Nat) : Form.Statement (.tadpoleShip tid) := by
  intro g h
  cases h

theorem Form.tadpolePlace (die : Nat) : Form.Statement (.tadpolePlace die) := by
  intro g h
  cases h

theorem Form.leapcut (tid : Nat) : Form.Statement (.leapcut tid) := by
  intro g h
  cases h

theorem Form.leaptrip (tid : Nat) : Form.Statement (.leaptrip tid) := by
  intro g h
  cases h

theorem Form.pcapWrite (die : Nat) (pond : Nat) (value : BitVec 64) : Form.Statement (.pcapWrite die pond value) := by
  intro g h
  cases h

theorem Form.pdrainWrite (die : Nat) (pond : Nat) (value : BitVec 64) : Form.Statement (.pdrainWrite die pond value) := by
  intro g h
  cases h

theorem Form.rtripWrite (die : Nat) (value : BitVec 64) : Form.Statement (.rtripWrite die value) := by
  intro g h
  cases h

theorem Form.rsenseWrite (die : Nat) (value : BitVec 64) : Form.Statement (.rsenseWrite die value) := by
  intro g h
  cases h

theorem Form.cpqreqWrite (cluster : Nat) (value : BitVec 64) : Form.Statement (.cpqreqWrite cluster value) := by
  intro g h
  cases h

theorem Form.clusterQuiet (cluster : Nat) : Form.Statement (.clusterQuiet cluster) := by
  intro g h
  cases h

theorem Form.save (cluster : Nat) : Form.Statement (.save cluster) := by
  intro g h
  cases h

theorem Form.restore (cluster : Nat) : Form.Statement (.restore cluster) := by
  intro g h
  cases h

theorem Form.saveComplete (cluster : Nat) : Form.Statement (.saveComplete cluster) := by
  intro g h
  cases h

theorem Form.restoreComplete (cluster : Nat) : Form.Statement (.restoreComplete cluster) := by
  intro g h
  cases h

theorem Form.cpcgateWrite (cluster : Nat) (value : BitVec 64) : Form.Statement (.cpcgateWrite cluster value) := by
  intro g h
  cases h

theorem Form.cprailWrite (cluster : Nat) (value : BitVec 64) : Form.Statement (.cprailWrite cluster value) := by
  intro g h
  cases h

theorem Form.railStep (cluster : Nat) : Form.Statement (.railStep cluster) := by
  intro g h
  cases h

theorem Form.stepWaitExpiry (cluster : Nat) : Form.Statement (.stepWaitExpiry cluster) := by
  intro g h
  cases h

theorem Form.cpcoreWrite (cluster : Nat) (value : BitVec 64) : Form.Statement (.cpcoreWrite cluster value) := by
  intro g h
  cases h

theorem Form.cpdivWrite (cluster : Nat) (row : Nat) (value : BitVec 64) : Form.Statement (.cpdivWrite cluster row value) := by
  intro g h
  cases h

theorem Form.wakereq (die : Nat) (cluster : Nat) (value : BitVec 64) : Form.Statement (.wakereq die cluster value) := by
  intro g h
  cases h

theorem Form.vexclWindow (cluster : Nat) : Form.Statement (.vexclWindow cluster) := by
  intro g h
  cases h

theorem Form.phaseFailure (cluster : Nat) (row : Nat) : Form.Statement (.phaseFailure cluster row) := by
  intro g h
  cases h

theorem Form.darkRowExpiry (cluster : Nat) (row : Nat) : Form.Statement (.darkRowExpiry cluster row) := by
  intro g h
  cases h

theorem Form.pwrinUpdate (value : BitVec 64) : Form.Statement (.pwrinUpdate value) := by
  intro g h
  cases h

theorem Form.linkctlWrite (die : Nat) (link : Nat) (value : BitVec 64) : Form.Statement (.linkctlWrite die link value) := by
  intro g h
  cases h

theorem Form.linkWidthChange (die : Nat) (link : Nat) : Form.Statement (.linkWidthChange die link) := by
  intro g h
  cases h

theorem Form.linkRateChange (die : Nat) (link : Nat) : Form.Statement (.linkRateChange die link) := by
  intro g h
  cases h

theorem Form.laneFailure (die : Nat) (link : Nat) : Form.Statement (.laneFailure die link) := by
  intro g h
  cases h

theorem Form.meterApply (n : Nat) : Form.Statement (.meterApply n) := by
  intro g h
  cases h

theorem Form.powerLoss : Form.Statement (.powerLoss) := by
  intro g h
  cases h

theorem Form.register : Form.Statement (.register) := by
  intro g h
  cases h

theorem Form.close : Form.Statement (.close) := by
  intro g h
  cases h

theorem Form.attach : Form.Statement (.attach) := by
  intro g h
  cases h

theorem Form.measure : Form.Statement (.measure) := by
  intro g h
  cases h

theorem Form.unregister : Form.Statement (.unregister) := by
  intro g h
  cases h

theorem Form.getlog : Form.Statement (.getlog) := by
  intro g h
  cases h

theorem Form.getckpt : Form.Statement (.getckpt) := by
  intro g h
  cases h

theorem Form.getkey : Form.Statement (.getkey) := by
  intro g h
  cases h

theorem Form.signedRecordRequest : Form.Statement (.signedRecordRequest) := by
  intro g h
  cases h

theorem Form.unseal (tid : Nat) : Form.Statement (.unseal tid) := by
  intro g h
  cases h

theorem Form.bar2Read (fn : Nat) (offset : Nat) (count : Nat) : Form.Statement (.bar2Read fn offset count) := by
  intro g h
  cases h

theorem Form.bar2Write (fn : Nat) (offset : Nat) (bytes : List (BitVec 8)) : Form.Statement (.bar2Write fn offset bytes) := by
  intro g h
  cases h

theorem Form.qtailWrite (fn : Nat) (queue : Nat) (value : BitVec 64) : Form.Statement (.qtailWrite fn queue value) := by
  intro g h
  cases h

theorem Form.qctlWrite (fn : Nat) (queue : Nat) (value : BitVec 64) (sup : Bool) : Form.Statement (.qctlWrite fn queue value sup) := by
  intro g h
  cases h

theorem Form.hostQueueTake (fn : Nat) (queue : Nat) : Form.Statement (.hostQueueTake fn queue) := by
  intro g h
  cases h

theorem Form.hostCompletion (fn : Nat) (queue : Nat) : Form.Statement (.hostCompletion fn queue) := by
  intro g h
  cases h

theorem Form.bootcmdWrite (fn : Nat) (value : BitVec 64) : Form.Statement (.bootcmdWrite fn value) := by
  intro g h
  cases h

theorem Form.moduleReset : Form.Statement (.moduleReset) := by
  intro g h
  cases h

theorem Form.ramovBoot : Form.Statement (.ramovBoot) := by
  intro g h
  cases h

theorem Form.firmwareVerify : Form.Statement (.firmwareVerify) := by
  intro g h
  cases h

theorem Form.controlCoreRelease : Form.Statement (.controlCoreRelease) := by
  intro g h
  cases h

theorem Form.linkTraining : Form.Statement (.linkTraining) := by
  intro g h
  cases h

theorem Form.pcieEnumerate : Form.Statement (.pcieEnumerate) := by
  intro g h
  cases h

theorem Form.remoteWriteFrame (frame : Frame) : Form.Statement (.remoteWriteFrame frame) := by
  intro g h
  cases h

theorem Form.remoteMessageFrame (frame : Frame) : Form.Statement (.remoteMessageFrame frame) := by
  intro g h
  cases h

theorem Form.acknowledgementFrame (pkg : Nat) (cls : Nat) (upTo : Nat) : Form.Statement (.acknowledgementFrame pkg cls upTo) := by
  intro g h
  cases h

theorem Form.retransmit (pkg : Nat) (cls : Nat) : Form.Statement (.retransmit pkg cls) := by
  intro g h
  cases h

theorem Form.registerWrite (pa : Nat) (value : BitVec 64) : Form.Statement (.registerWrite pa value) := by
  intro g h
  cases h

theorem Form.softError (pa : Nat) (correctable : Bool) : Form.Statement (.softError pa correctable) := by
  intro g h
  cases h

theorem Form.shuntUseChange (cluster : Nat) (sensor : Nat) (value : BitVec 64) : Form.Statement (.shuntUseChange cluster sensor value) := by
  intro g h
  cases h

theorem Form.icinvComplete (n : Nat) : Form.Statement (.icinvComplete n) := by
  intro g h
  cases h

theorem Form.badcodeRequest : Form.Statement (.badcodeRequest) := by
  intro g h
  cases h

end Sys2Proof.Laws
end

