-- ==== Sys2Proof/Laws/Traps.lean ====
section
/-!
SUPPORT. Sys2Proof/Laws/Traps.lean: what a push and a pop do to a window, and what taking an exception leaves.
-/
namespace Sys2Proof.Machine

/-! ### Windows -/

theorem ofFn_get {α : Type} {n : Nat} (f : Fin n → α) (i : Fin n) : (Vector.ofFn f).get i = f i := by
  show (Vector.ofFn f)[i.val] = f i
  simp

theorem Thread.pushed_slidIn (t : Thread) (b : Bool) : t.SlidIn (t.pushed b) := by
  refine ⟨rfl, ⟨t.frame, rfl, fun i => ?_⟩, fun i hi => ?_, fun i => ?_, fun i => ?_⟩
  · simp only [Thread.frame, ofFn_get]
  · simp only [Thread.pushed, slideIn, ofFn_get, hi, dite_true]
  · have h1 : ¬i.val + 8 < 8 := by omega
    have h2 : i.val + 8 < 16 := by omega
    simp only [Thread.pushed, slideIn, ofFn_get, h1, h2, dite_true, dite_false]
  · have h1 : ¬i.val + 16 < 8 := by omega
    have h2 : ¬i.val + 16 < 16 := by omega
    simp only [Thread.pushed, slideIn, ofFn_get, h1, h2, dite_false]

theorem Thread.popped_slidOut (t : Thread) (h : t.frames ≠ []) : t.SlidOut t.popped := by
  unfold Thread.popped
  cases hf : t.frames with
  | nil => exact absurd hf h
  | cons f rest =>
    refine ⟨rfl, ⟨f, hf, fun i => ?_⟩, fun i hi => ?_, fun i => ?_⟩
    · have h1 : ¬i.val + 8 < 8 := by omega
      have h2 : i.val + 8 < 24 := by omega
      simp only [slideOut, ofFn_get, h1, h2, dite_true, dite_false]
      rfl
    · simp only [slideOut, ofFn_get, hi, dite_true]
    · have h1 : ¬i.val + 24 < 8 := by omega
      have h2 : ¬i.val + 24 < 24 := by omega
      simp only [slideOut, ofFn_get, h1, h2, dite_false]
      rfl

/-! ### One slot changed -/

theorem State.upd_only {s : State} (h : Table.wf Thread.free s.threads = true) (n : Nat) (f : Thread → Thread) :
    s.OnlyThread (s.upd n f) n (f (s.thread n)) := by
  refine ⟨?_, rfl, fun m hm => ?_, fun a => rfl⟩
  · rw [State.thread_upd h, if_pos rfl]
  · rw [State.thread_upd h, if_neg hm]

/-! ### What an abandoned group gives back (R33, R176) -/

theorem State.wf_wake {s : State} (h : Table.wf Thread.free s.threads = true) (n : Nat) :
    Table.wf Thread.free (s.wake n).threads = true := by
  unfold State.wake
  split
  · exact h
  · exact State.wf_upd h _ _

/-- A slot that is not parked is as it was when others are woken. -/
theorem State.wake_thread {s : State} (h : Table.wf Thread.free s.threads = true) (n m : Nat) (hm : (s.thread m).park = none) :
    (s.wake n).thread m = s.thread m := by
  unfold State.wake
  split
  · rfl
  · rename_i p hp
    rw [State.thread_upd h]
    split
    · subst_vars
      rw [hm] at hp
      exact nomatch hp
    · rfl

theorem State.wake_byte (s : State) (n a : Nat) : (s.wake n).byte a = s.byte a := by unfold State.wake; split <;> rfl

/-- Waking the waiters of a queue keeps every slot that is not parked, and memory. -/
theorem wakeHw_rest {s : State} (h : Table.wf Thread.free s.threads = true) (q w p m : Nat) (l : List HwWait) :
    Table.wf Thread.free (wakeHw q s w p l).threads = true ∧ (∀ a, (wakeHw q s w p l).byte a = s.byte a) ∧
      ((s.thread m).park = none → (wakeHw q s w p l).thread m = s.thread m) := by
  induction l generalizing s w p with
  | nil => exact ⟨h, fun _ => rfl, fun _ => rfl⟩
  | cons x l ih =>
    have go : ∀ w p, Table.wf Thread.free (wakeHw q (s.wake x.tid) w p l).threads = true ∧
        (∀ a, (wakeHw q (s.wake x.tid) w p l).byte a = s.byte a) ∧
        ((s.thread m).park = none → (wakeHw q (s.wake x.tid) w p l).thread m = s.thread m) := by
      intro w p
      obtain ⟨a, b, c⟩ := ih (State.wf_wake h x.tid) w p
      refine ⟨a, fun z => by rw [b, State.wake_byte], fun hm => ?_⟩
      have e := State.wake_thread h x.tid m hm
      rw [c (by rw [e]; exact hm), e]
    unfold wakeHw
    split
    · exact ih h _ _
    · split
      · split
        · exact ih h _ _
        · exact go _ _
      · split
        · exact go _ _
        · exact ih h _ _

/-- A change of a hardware queue and the waking that follows keep every slot that is not parked, and memory. -/
theorem State.queue_rest {s : State} (h : Table.wf Thread.free s.threads = true) (c q c' q' m : Nat) (f : HwQueue → HwQueue) :
    Table.wf Thread.free ((s.updHwq c q f).relieveHw c' q').threads = true ∧
      (∀ a, ((s.updHwq c q f).relieveHw c' q').byte a = s.byte a) ∧
      ((s.thread m).park = none → ((s.updHwq c q f).relieveHw c' q').thread m = s.thread m) :=
  wakeHw_rest (s := s.updHwq c q f) h _ _ _ _ _

/-- What a group gives back changes of a slot that is not parked only the word it popped, and no memory. -/
theorem State.unclaim_rest {s : State} (h : Table.wf Thread.free s.threads = true) (n m : Nat) :
    Table.wf Thread.free (s.unclaim n).threads = true ∧ (∀ a, (s.unclaim n).byte a = s.byte a) ∧
      ((s.thread n).park = none → (s.thread m).park = none →
        (s.unclaim n).thread m = if m = n then { s.thread n with g6 := none } else s.thread m) := by
  unfold State.unclaim
  dsimp only
  generalize hv : (if (s.thread n).g7en = true then _ else s) = v
  have v1 : ∀ m, Table.wf Thread.free v.threads = true ∧ (∀ a, v.byte a = s.byte a) ∧
      ((s.thread m).park = none → v.thread m = s.thread m) := by
    intro m
    rw [← hv]
    split
    · exact State.queue_rest h _ _ _ _ m _
    · exact ⟨h, fun _ => rfl, fun _ => rfl⟩
  cases hg : (s.thread n).g6 with
  | none =>
    refine ⟨(v1 m).1, (v1 m).2.1, fun _ hm => ?_⟩
    show v.thread m = _
    rw [(v1 m).2.2 hm]
    split
    · subst_vars
      rw [← hg]
    · rfl
  | some x =>
    dsimp only
    generalize hw : (if (s.thread n).g6en = true then _ else v) = w
    have w1 : ∀ m, Table.wf Thread.free w.threads = true ∧ (∀ a, w.byte a = s.byte a) ∧
        ((s.thread m).park = none → w.thread m = s.thread m) := by
      intro m
      rw [← hw]
      split
      · obtain ⟨a, b, c⟩ := State.queue_rest (v1 m).1 _ _ _ _ m _
        refine ⟨a, fun z => by rw [b, (v1 m).2.1], fun hm => ?_⟩
        have e := (v1 m).2.2 hm
        rw [c (by rw [e]; exact hm), e]
      · exact v1 m
    refine ⟨State.wf_upd (w1 m).1 _ _, fun a => (w1 m).2.1 a, fun hn hm => ?_⟩
    rw [State.thread_upd (w1 m).1, (w1 n).2.2 hn, (w1 m).2.2 hm]
    rfl

/-- A slot that leaves the waits of its core's queues keeps every slot that is not parked, and memory. -/
theorem State.leaveHw_rest {s : State} (h : Table.wf Thread.free s.threads = true) (n m : Nat) :
    Table.wf Thread.free (s.leaveHw n).threads = true ∧ (∀ a, (s.leaveHw n).byte a = s.byte a) ∧
      ((s.thread m).park = none → (s.leaveHw n).thread m = s.thread m) := by
  unfold State.leaveHw
  dsimp only
  split
  · exact ⟨h, fun _ => rfl, fun _ => rfl⟩
  · have go : ∀ (l : List HwWait) (v : State), Table.wf Thread.free v.threads = true →
        Table.wf Thread.free (l.foldl (fun s w => s.relieveHw (coreOf n) w.q) v).threads = true ∧
          (∀ a, (l.foldl (fun s w => s.relieveHw (coreOf n) w.q) v).byte a = v.byte a) ∧
          ((v.thread m).park = none → (l.foldl (fun s w => s.relieveHw (coreOf n) w.q) v).thread m = v.thread m) := by
      intro l
      induction l with
      | nil => exact fun v hv => ⟨hv, fun _ => rfl, fun _ => rfl⟩
      | cons x l ih =>
        intro v hv
        obtain ⟨a, b, c⟩ := wakeHw_rest hv x.q (v.hwq (coreOf n) x.q).poppable (16 - (v.hwq (coreOf n) x.q).words.length) m
          (v.core (coreOf n)).hwWait
        obtain ⟨a', b', c'⟩ := ih _ a
        refine ⟨a', fun z => (b' z).trans (b z), fun hm => ?_⟩
        have e := c hm
        exact (c' (by rw [e]; exact hm)).trans e
    exact go _ _ h

/-- What an abandoned group gives back changes of a slot that is not parked only the word it popped, and no memory. -/
theorem State.givenBack_rest {s : State} (h : Table.wf Thread.free s.threads = true) (hp : s.me.park = none) :
    Table.wf Thread.free s.givenBack.threads = true ∧ (∀ a, s.givenBack.byte a = s.byte a) ∧
      s.givenBack.thread s.cur = { s.me with g6 := none } ∧
      ∀ m, m ≠ s.cur → (s.thread m).park = none → s.givenBack.thread m = s.thread m := by
  have one : ∀ m, (s.thread m).park = none → s.givenBack.thread m = if m = s.cur then { s.me with g6 := none } else s.thread m := by
    intro m hm
    obtain ⟨a, _, c⟩ := State.unclaim_rest h s.cur m
    have e := c hp hm
    have pm : ((s.unclaim s.cur).thread m).park = none := by
      rw [e]
      split
      · exact hp
      · exact hm
    exact ((State.leaveHw_rest a s.cur m).2.2 pm).trans e
  obtain ⟨a, b, _⟩ := State.unclaim_rest h s.cur s.cur
  obtain ⟨a', b', _⟩ := State.leaveHw_rest a s.cur s.cur
  exact ⟨a', fun z => (b' z).trans (b z), (one s.cur hp).trans (if_pos rfl), fun m hm hq => (one m hq).trans (if_neg hm)⟩

/-! ### Taking an exception -/

theorem Thread.toUser_iff (t : Thread) (c : Nat) : t.toUser c = true ↔ t.ForUser c := by
  simp only [Thread.toUser, Thread.ForUser, userCause, Thread.busy, Bool.and_eq_true, Bool.not_eq_true', decide_eq_true_eq,
    List.contains_iff_mem, and_assoc]

theorem Thread.orDepth_eq (t : Thread) (tr : Trap) : t.orDepth tr = t.inPlace tr := rfl

/-- Delivery to the supervisor, of a slot whose group has given back what it took: the entry, or the stop. -/
theorem State.deliverSup_in {s : State} (h : Table.wf Thread.free s.threads = true) (n : Nat) (t : Thread)
    (ht : s.thread n = { t with g6 := none }) (tr : Trap) :
    (t.SupervisorReady (t.inPlace tr).cause → ∃ u, t.InSupervisor u n (t.inPlace tr) ∧ s.OnlyThread (s.deliverSup n tr) n u) ∧
      (¬t.SupervisorReady (t.inPlace tr).cause → s.deliverSup n tr = s.stopSlot n (t.inPlace tr).cause) := by
  have o : ({ t with g6 := none } : Thread).orDepth tr = t.inPlace tr := rfl
  have p : ({ t with g6 := none } : Thread).placeFree = t.placeFree := rfl
  have b : ({ t with g6 := none } : Thread).sbusy = t.privst.getLsbD 1 := rfl
  generalize t.inPlace tr = x at o
  constructor
  · rintro ⟨r1, r2⟩
    have r2' : ¬((decide (x.cause = 18) || !t.placeFree) && t.reserve.isSome) = true := by
      rcases r2 with r2 | ⟨r2, r3⟩
      · simp [r2]
      · simp [r2, r3]
    apply Exists.intro
    apply And.symm
    constructor
    · unfold State.deliverSup
      dsimp only
      rw [ht]
      simp only [o, p, b]
      rw [r1, if_neg (by simp), if_neg r2']
      exact State.upd_only h n _
    · rw [ht]
      refine ⟨?_, ?_⟩
      · obtain ⟨k1, k2, k3, k4, k5⟩ := Thread.pushed_slidIn t (decide (x.cause = 18) || !t.placeFree)
        exact ⟨k1, k2, k3, k4, k5⟩
      · simp only [Thread.pushed]
        cases t.placeFree <;> by_cases hc : x.cause = 18 <;> simp [hc, Thread.sinfoOf, Thread.tinfoOf]
  · intro hr
    unfold State.deliverSup
    dsimp only
    rw [ht]
    simp only [o, p, b]
    by_cases hb : t.privst.getLsbD 1 = true
    · rw [if_pos hb]
    · have : ((decide (x.cause = 18) || !t.placeFree) && t.reserve.isSome) = true := by
        refine Classical.byContradiction fun hc => hr ⟨by simpa using hb, ?_⟩
        cases hq : t.reserve with
        | none => exact .inl rfl
        | some z =>
          rw [hq] at hc
          simp at hc
          exact .inr ⟨hc.2, hc.1⟩
      rw [if_neg hb, if_pos this]

/-- TAKING AN EXCEPTION leaves what `Trapped` says. -/
theorem State.deliver_trapped {s : State} (h : s.Canonical) (tr : Trap) : s.Trapped tr (s.deliver s.cur tr) := by
  intro hp
  obtain ⟨hv, _, e, _⟩ := State.givenBack_rest h.threads hp
  have d : s.deliver s.cur tr =
      if s.me.toUser tr.cause then s.givenBack.deliverUser s.cur tr else s.givenBack.deliverSup s.cur tr := by
    show (if (s.givenBack.thread s.cur).toUser tr.cause = true then s.givenBack.deliverUser s.cur tr
      else s.givenBack.deliverSup s.cur tr) = _
    rw [e]
    rfl
  obtain ⟨k1, k2⟩ := State.deliverSup_in hv s.cur s.me e tr
  refine ⟨fun hu hf hd => ?_, fun hu hr => ?_, fun hu hr => ?_⟩
  · rw [d, if_pos ((Thread.toUser_iff s.me tr.cause).2 hu)]
    apply Exists.intro
    apply And.symm
    constructor
    · unfold State.deliverUser
      dsimp only
      rw [e]
      have pp : ({ s.me with g6 := none } : Thread).pushPlace = .free := by
        show s.me.pushPlace = .free
        unfold Thread.pushPlace
        rw [if_neg (by omega), if_pos hf]
      rw [pp]
      exact State.upd_only hv s.cur _
    · rw [e]
      refine ⟨?_, ?_⟩
      · obtain ⟨k1, k2, k3, k4, k5⟩ := Thread.pushed_slidIn s.me false
        exact ⟨k1, k2, k3, k4, k5⟩
      · simp [Thread.pushed, Thread.tinfoOf, Thread.tvecAddr]
  · rw [d, if_neg fun hh => hu ((Thread.toUser_iff s.me tr.cause).1 hh)]
    exact k1 hr
  · rw [d, if_neg fun hh => hu ((Thread.toUser_iff s.me tr.cause).1 hh)]
    exact k2 hr

end Sys2Proof.Machine
end

