-- ==== Sys2Proof/Tests/Slice0.lean ====
section
/-!
SUPPORT. Sys2Proof/Tests/Slice0.lean: tests of single words, steps and well-formedness checks, and for every statement with
hypotheses a state and operands that meet them. The words decoded are those that the spec's tables print beside their instructions;
expected results are worked by hand from the rules named.
-/
namespace Sys2Proof.Tests
open Sys2Proof.Machine
set_option Elab.async false

/-! ### Small states -/

/-- Registers that hold zero but for those listed. -/
def regs (l : List (Nat × Word)) : Vector Word 32 := l.foldl (fun v e => v.setIfInBounds e.1 e.2) (Vector.replicate 32 0)

/-- Vector registers that hold zero but for those listed. -/
def vregs (l : List (Nat × VWord)) : Vector VWord 32 := l.foldl (fun v e => v.setIfInBounds e.1 e.2) (Vector.replicate 32 0)

/-- A thread at user level. -/
def user : Thread := { Thread.free with state := .running, pc := 0x100000000 }

/-- A thread at supervisor level. -/
def sup : Thread := { user with tsr := ⟨true, false, false, false, false, false⟩ }

/-- A machine whose slot 0 issues a group of one word. -/
def one (t : Thread) : State := { State.reset with threads := [(0, t)], ir := [0x0609], now := 100 }

/-- An instruction answers a next state with a property. -/
def runs (i : Instr) (s : State) (p : State → Bool) : Bool :=
  match exec i s with
  | .next t => p t
  | _ => false

/-- A general register of slot 0 afterwards. -/
def reg (n : Nat) (t : State) : Word := ((t.thread 0).regs[n]?).getD 0

/-- A vector register of slot 0 afterwards. -/
def vec (n : Nat) (t : State) : VWord := ((t.thread 0).vregs[n]?).getD 0

/-- Words of memory. -/
def put (s : State) (l : List (Nat × Word)) : State := l.foldl (fun s e => s.setWord e.1 e.2) s

/-- Words of memory left empty. -/
def hollow (s : State) (l : List Nat) : State := l.foldl (fun s a => s.setFull a false) s

/-- The words of TCM at offset 0x100 of core 0. -/
def t100 : Nat := tcmPa 0 0x100

/-- The target that offset 0x100 of the local memory gives. -/
def local100 : Target := Target.window t100 0 false

/-- The tables at 0x10000 and 0x20000, which map the page at 2^32 to 2^30 for every level: readable, writable, executable. -/
def mapped (s : State) : State := put s [(0x10000, 0x20001), (0x20020, 0x4000003F)]

/-- A context with those tables, its task table at 2^32 + 0x8000 with four entries, its record table at 2^32 + 0x9000 with two. -/
def ctx5 : Ctx := { Ctx.zero with
  id := 5
  ptbase := 0x10000
  ttbase := 0x100008000
  ttsize := 4
  rtbase := 0x100009000
  rtsize := 2
  rankset := 7
  tiles := 0x800
  ringmask := 1 }

/-- The physical address of an offset in that page, and its target. -/
def dev (n : Nat) : Nat := 0x40000000 + n
def devT (n : Nat) : Target := ⟨dev n, 0, 0, 15, false, false, dev 0, 0x40000000⟩

/-- A machine with one slot in use. -/
theorem alone (s : State) (t : Thread) (h : s.threads = [(0, t)]) (n : Nat) : (s.thread n).park = if n = 0 then t.park else none := by
  unfold State.thread
  rw [h]
  by_cases hn : n = 0
  · subst hn; rfl
  · rw [if_neg hn]
    simp [Table.get, hn, Thread.free]

/-- The state that a meaning answers. -/
def after : Out → State
  | .next t => t
  | _ => State.reset

/-! ### Well-formed instructions: an ill-formed term for each check -/

theorem test_wf_ok : (Instr.addi 16 4 none [3]).wf = true := by decide

/-- R39: at most four prefixes. -/
theorem test_wf_five_prefixes : (Instr.ld64 16 9 (some ⟨0, 17⟩) [0, 1, 2, 3] (some ⟨1, 0, 0, 0⟩)).wf = false := by decide

/-- Table 2.5: a scope code above 4. -/
theorem test_wf_scope : (Instr.ld64 16 9 none [] (some ⟨1, 5, 0, 0⟩)).wf = false := by decide

/-- A field rule: WRS of a register that cannot be written (R92). -/
theorem test_wf_field : (Instr.wrs 16 0).wf = false := by decide

/-- A field rule: RDS of a register number that is not assigned. -/
theorem test_wf_rds : (Instr.rds 16 31).wf = false := by decide

/-! ### Decoding: words printed in the spec -/

theorem test_decode_page0 :
    decode [0x0609] = .ok (.add 16 9 none) 1 ∧ decode [0x421D] = .ok (.addi 16 29 none []) 1 ∧
    decode [0xF004, 0x6620] = .ok (.ldi 17 0 [4]) 2 ∧ decode [0xF411, 0x7678] = .ok (.ld32 19 24 (some ⟨0, 17⟩) [] none) 2 ∧
    decode [0xFE40, 0xF010, 0x7A08] = .ok (.ld64 16 8 none [16] (some ⟨2, 2, 0, 0⟩)) 3 ∧
    decode [0xFC08, 0x7A09] = .ok (.ld64 16 9 none [] (some ⟨0, 0, 0, 2⟩)) 2 ∧
    decode [0xF600, 0x5223] = .ok (.shli 17 3 (some ⟨16, 0⟩) []) 2 ∧ decode [0xF01F, 0x4A1F] = .ok (.ori 16 31 none [31]) 2 ∧
    decode [0xF3FF, 0x7E2A] = .ok (.ld8s 17 10 none [1023] none) 2 ∧ decode [0xFC0C, 0x9678] = .ok (.st64 19 24 none [] (some ⟨0, 0, 0, 3⟩)) 2 ∧
    decode [0xF020, 0x9850] = .ok (.ldv 2 16 none [32] none) 2 ∧ decode [0xDA00] = .ok (.rds 16 0) 1 ∧ decode [0xDE2B] = .ok (.wrs 17 11) 1 := by
  decide +kernel

theorem test_decode_page7 :
    decode [0xF807, 0xF640, 0x0E11] = .ok (.div 16 17 (some ⟨18, 0⟩)) 3 ∧ decode [0xF807, 0x2E11] = .ok (.clz 16 17) 2 ∧
    decode [0xF807, 0xF640, 0x5A11] = .ok (.bins 16 17 (some ⟨18, 0⟩)) 3 ∧ decode [0xF807, 0x5E11] = .ok (.fadd 16 17 none) 2 ∧
    decode [0xF807, 0xF54B, 0x9211] = .ok (.fcvt 16 17 (some ⟨10, 11⟩)) 3 ∧
    decode [0xF807, 0xF420, 0x8A11] = .ok (.fcvti 16 17 (some ⟨1, 0⟩)) 3 ∧ decode [0xF807, 0xA610] = .ok (.fneg 16 16 none) 2 := by
  decide +kernel

theorem test_decode_page1 :
    decode [0xF801, 0xF423, 0x0422] = .ok (.vadd 1 2 (some ⟨1, 3⟩)) 3 ∧
    decode [0xF801, 0xF422, 0x4023] = .ok (.vshli 1 3 (some ⟨1, 2⟩) []) 3 ∧ decode [0xF801, 0xF480, 0x8C22] = .ok (.vsel 1 2 (some ⟨4, 0⟩)) 3 ∧
    decode [0xF801, 0xF40B, 0x90B2] = .ok (.vsplat 5 18 (some ⟨0, 11⟩)) 3 ∧ decode [0xF801, 0xF443, 0x9601] = .ok (.vext 16 1 (some ⟨2, 3⟩)) 3 ∧
    decode [0xF801, 0xF44B, 0xAE07] = .ok (.vred 16 7 (some ⟨2, 11⟩)) 3 ∧ decode [0xF801, 0xF4C1, 0xB022] = .ok (.vdot 1 2 (some ⟨6, 1⟩)) 3 ∧
    decode [0xF801, 0xBC22] = .ok (.vmov 1 2) 2 := by
  decide +kernel

theorem test_decode_page4 :
    decode [0xF804, 0x0721] = .ok (.spawn 25 1 []) 2 ∧ decode [0xF804, 0x0930] = .ok (.send 9 16) 2 ∧ decode [0xF804, 0x0E80] = .ok (.recv 20 0) 2 ∧
    decode [0xF804, 0xF620, 0x1200] = .ok (.peek 16 0 (some ⟨17, 0⟩)) 3 ∧ decode [0xF804, 0x1640] = .ok (.quit 18 0) 2 ∧
    decode [0xF804, 0x1E08] = .ok (.launch 16 8 []) 2 ∧ decode [0xF804, 0xF412, 0x2238] = .ok (.joini 17 24 (some ⟨0, 18⟩) [] none) 3 ∧
    decode [0xF804, 0x2638] = .ok (.finit 17 24 [] none) 2 ∧ decode [0xF804, 0xF010, 0x2A08] = .ok (.fwait 16 8 [16] none) 3 ∧
    decode [0xF804, 0x2E08] = .ok (.fput 16 8 [] none) 2 ∧ decode [0xF804, 0x3219] = .ok (.lock 16 25 [] none) 2 ∧
    decode [0xFF20, 0xF804, 0x3619] = .ok (.unlock 16 25 [] (some ⟨3, 1, 0, 0⟩)) 3 ∧ decode [0xF804, 0x3E4A] = .ok (.qpop 18 10 [] none) 2 ∧
    decode [0xF804, 0xF640, 0x4228] = .ok (.amoadd 17 8 (some ⟨18, 0⟩) [] none) 3 ∧
    decode [0xFE40, 0xF804, 0x6218] = .ok (.amoswp 16 24 none [] (some ⟨2, 2, 0, 0⟩)) 3 ∧
    decode [0xF804, 0xF411, 0x6618] = .ok (.cas 16 24 (some ⟨0, 17⟩) [] none) 3 ∧
    decode [0xF804, 0xF463, 0xF010, 0x6870] = .ok (.vamo 3 16 (some ⟨3, 3⟩) [16] none) 4 ∧
    decode [0xF804, 0x6E30] = .ok (.empty 17 16 [] none) 2 ∧ decode [0xFF20, 0xF804, 0x7800] = .ok (.fence 0 0 (some ⟨3, 1, 0, 0⟩)) 3 ∧
    decode [0xF804, 0x7E00] = .ok (.qbind 16 0) 2 ∧ decode [0xF804, 0xF411, 0x826A] = .ok (.qres 19 10 (some ⟨0, 17⟩) [] none) 3 := by
  decide +kernel

theorem test_decode_pages2_3 :
    decode [0xF802, 0x0608] = .ok (.tdef 16 8 []) 2 ∧ decode [0xF802, 0x1600] = .ok (.mma 16 0) 2 ∧ decode [0xF802, 0x1E03] = .ok (.mmag 16 3) 2 ∧
    decode [0xF802, 0x2EF6] = .ok (.jwait 23 22) 2 ∧ decode [0xF802, 0x3A11] = .ok (.amaxr 16 17) 2 ∧
    decode [0xF803, 0x0E38] = .ok (.hreg 17 24 []) 2 ∧ decode [0xF803, 0x1AB4] = .ok (.stxr 21 20 []) 2 ∧
    decode [0xF803, 0x3A11] = .ok (.cancel 16 17) 2 ∧ decode [0xF803, 0x2638] = .ok (.sredi 17 24 [] none) 2 ∧
    decode [0xF803, 0xF40A, 0x2A38] = .ok (.sred 17 24 (some ⟨0, 10⟩) []) 3 ∧
    decode [0xF803, 0xF40A, 0x2C58] = .ok (.sredv 2 24 (some ⟨0, 10⟩) []) 3 ∧ decode [0xF803, 0x3608] = .ok (.scvt 16 8 []) 2 := by
  decide +kernel

theorem test_decode_pages5_6 :
    decode [0xF805, 0x0611] = .ok (.rsv 16 17) 2 ∧ decode [0xF805, 0x1600] = .ok (.leap 16 0) 2 ∧ decode [0xF805, 0x2251] = .ok (.mtrq 18 17) 2 ∧
    decode [0xF805, 0x2611] = .ok (.mtrs 16 17) 2 ∧ decode [0xF806, 0x0A23] = .ok (.wrp 17 3) 2 ∧ decode [0xF806, 0x0C00] = .ok (.stret 0 0) 2 ∧
    decode [0xF806, 0xF100, 0x1611] = .ok (.ctxs 16 17 [256]) 3 ∧ decode [0xF806, 0x2C00] = .ok (.halt 0 0) 2 := by
  decide +kernel

/-- R39, R40: five prefixes, a repeated PFX.R, and an unassigned cell are refused by name. -/
theorem test_decode_refused :
    decode [0xF001, 0xF002, 0xF003, 0xF004, 0xF005, 0x4204] = .bad ⟨0xF005, 4, .fifthPfx⟩ ∧
    decode [0xF640, 0xF640, 0x0609] = .bad ⟨0xF640, 1, .repeated⟩ ∧ decode [0xF809, 0x0609] = .bad ⟨0xF809, 0, .page⟩ ∧
    decode [0xF807, 0xEC00] = .bad ⟨0xEC00, 1, .cell⟩ ∧ decode [0xF640, 0x2A00] = .bad ⟨0xF640, 0, .notAccepted⟩ := by
  decide +kernel

/-! ### Scalar results -/

/-- A user thread with 5, 3 and the least negative word in l0, l1, l2. -/
def scalars : State := one { user with regs := regs [(16, 5), (17, 3), (18, 0x8000000000000000), (19, 0xFFFFFFFFFFFFFFFF)] }

theorem witness_IntegerArithmetic : scalars.Canonical ∧ ¬scalars.me.pushes (destOf 16 none) ∧ ¬scalars.me.pushes (destOf 16 (some ⟨0, 0⟩)) := by
  simp only [State.Canonical, Thread.pushes]; decide +kernel

theorem witness_MovesAndConstants : scalars.Canonical ∧ ¬scalars.me.pushes 16 := by
  simp only [State.Canonical, Thread.pushes]; decide +kernel

theorem witness_IntegerUnit : scalars.Canonical ∧ ¬scalars.me.pushes 16 ∧ ¬scalars.me.pushes (dOf (some ⟨18, 0⟩)) := by
  simp only [State.Canonical, Thread.pushes]; decide +kernel

theorem test_add_wraps : runs (.add 18 19 none) scalars (fun t => reg 18 t == 0x7FFFFFFFFFFFFFFF && (t.thread 0).pc == 0x100000002) = true := by
  decide +kernel
theorem test_add_to_zero : runs (.add 16 17 (some ⟨0, 0⟩)) scalars (fun t => reg 0 t == 0 && reg 16 t == 5) = true := by decide +kernel
theorem test_sub : runs (.sub 16 17 (some ⟨20, 0⟩)) scalars (fun t => reg 20 t == 2 && reg 16 t == 5) = true := by decide +kernel
theorem test_and : runs (.and 16 17 none) scalars (reg 16 · == 1) = true := by decide +kernel
theorem test_or : runs (.or 16 17 none) scalars (reg 16 · == 7) = true := by decide +kernel
theorem test_xor : runs (.xor 16 17 none) scalars (reg 16 · == 6) = true := by decide +kernel
theorem test_shl : runs (.shl 16 19 none) scalars (reg 16 · == 0x8000000000000000) = true := by decide +kernel
theorem test_shr : runs (.shr 18 17 none) scalars (reg 18 · == 0x1000000000000000) = true := by decide +kernel
theorem test_sar : runs (.sar 18 17 none) scalars (reg 18 · == 0xF000000000000000) = true := by decide +kernel
theorem test_mul : runs (.mul 16 19 none) scalars (reg 16 · == 0xFFFFFFFFFFFFFFFB) = true := by decide +kernel
theorem test_mov : runs (.mov 20 18) scalars (reg 20 · == 0x8000000000000000) = true := by decide +kernel
theorem test_slt : runs (.slt 18 16 none) scalars (reg 18 · == 1) = true := by decide +kernel
theorem test_sltu : runs (.sltu 18 16 none) scalars (reg 18 · == 0) = true := by decide +kernel
theorem test_seq : runs (.seq 16 16 none) scalars (reg 16 · == 1) = true := by decide +kernel
theorem test_min : runs (.min 18 16 none) scalars (reg 18 · == 0x8000000000000000) = true := by decide +kernel
theorem test_max : runs (.max 18 16 none) scalars (reg 18 · == 5) = true := by decide +kernel

theorem test_addi_negative : runs (.addi 16 29 none []) scalars (reg 16 · == 2) = true := by decide +kernel
theorem test_addi_100 : runs (.addi 16 4 none [3]) scalars (reg 16 · == 105) = true := by decide +kernel
theorem test_andi : runs (.andi 16 24 none []) scalars (reg 16 · == 0) = true := by decide +kernel
theorem test_ori : runs (.ori 16 31 none [31]) scalars (reg 16 · == 0x3FF) = true := by decide +kernel
theorem test_xori : runs (.xori 16 31 none []) scalars (reg 16 · == 26) = true := by decide +kernel
theorem test_shli : runs (.shli 17 3 (some ⟨16, 0⟩) []) scalars (reg 16 · == 24) = true := by decide +kernel
theorem test_shri : runs (.shri 18 31 none [1]) scalars (reg 18 · == 1) = true := by decide +kernel
theorem test_sari : runs (.sari 18 31 none [1]) scalars (reg 18 · == 0xFFFFFFFFFFFFFFFF) = true := by decide +kernel
theorem test_slti : runs (.slti 16 31 none []) scalars (reg 16 · == 0) = true := by decide +kernel
theorem test_seqi : runs (.seqi 16 5 none []) scalars (reg 16 · == 1) = true := by decide +kernel
theorem test_ldi : runs (.ldi 17 0 [4]) scalars (reg 17 · == 128) = true := by decide +kernel
theorem test_ldix : runs (.ldix 16 0 [0, 2]) scalars (reg 16 · == 5 * 2 ^ 25 + 64) = true := by decide +kernel
theorem test_addpc : runs (.addpc 16 31 []) scalars (reg 16 · == 0x100000001) = true := by decide +kernel
theorem test_nop : runs (.nop 16 17) scalars (fun t => reg 16 t == 5 && (t.thread 0).pc == 0x100000002) = true := by decide +kernel

theorem test_mulh : runs (.mulh 18 19 none) scalars (reg 18 · == 0) = true := by decide +kernel
theorem test_mulhu : runs (.mulhu 18 16 none) scalars (reg 18 · == 2) = true := by decide +kernel
theorem test_div_corner : runs (.div 18 19 none) scalars (reg 18 · == 0x8000000000000000) = true := by decide +kernel
theorem test_divu_zero : runs (.divu 16 0 none) scalars (reg 16 · == 0xFFFFFFFFFFFFFFFF) = true := by decide +kernel
theorem test_rem : runs (.rem 16 17 none) scalars (reg 16 · == 2) = true := by decide +kernel
theorem test_remu_zero : runs (.remu 16 0 none) scalars (reg 16 · == 5) = true := by decide +kernel
theorem test_minu : runs (.minu 18 16 none) scalars (reg 18 · == 5) = true := by decide +kernel
theorem test_maxu : runs (.maxu 18 16 none) scalars (reg 18 · == 0x8000000000000000) = true := by decide +kernel
theorem test_neg : runs (.neg 16 17) scalars (reg 16 · == 0xFFFFFFFFFFFFFFFD) = true := by decide +kernel
theorem test_not : runs (.not 16 17) scalars (reg 16 · == 0xFFFFFFFFFFFFFFFC) = true := by decide +kernel
theorem test_clz_ctz : runs (.clz 16 17) scalars (reg 16 · == 62) = true ∧ runs (.ctz 16 18) scalars (reg 16 · == 63) = true := by decide +kernel
theorem test_clz_zero : runs (.clz 16 0) scalars (reg 16 · == 64) = true ∧ runs (.ctz 16 0) scalars (reg 16 · == 64) = true := by decide +kernel
theorem test_popc : runs (.popc 16 19) scalars (reg 16 · == 64) = true := by decide +kernel
theorem test_brev : runs (.brev 16 17) scalars (reg 16 · == 0xC000000000000000) = true := by decide +kernel
theorem test_bswap : runs (.bswap 16 16) scalars (reg 16 · == 0x0500000000000000) = true := by decide +kernel
theorem test_sext : runs (.sextb 20 19) scalars (reg 20 · == 0xFFFFFFFFFFFFFFFF) = true ∧ runs (.sexth 20 16) scalars (reg 20 · == 5) = true ∧
    runs (.sextw 20 18) scalars (reg 20 · == 0) = true := by decide +kernel
theorem test_rol : runs (.rol 18 17 none) scalars (reg 18 · == 4) = true := by decide +kernel
theorem test_ror : runs (.ror 17 16 none) scalars (reg 17 · == 0x1800000000000000) = true := by decide +kernel
/-- A 4-bit field from bit 1 of 5, and into bit 60 of ones. -/
theorem test_bext : runs (.bext 16 20 none) (one { user with regs := regs [(16, 5), (20, 0x101)] }) (reg 16 · == 2) = true := by decide +kernel
theorem test_bins : runs (.bins 16 20 (some ⟨18, 0⟩)) (one { user with regs := regs [(16, 5), (18, 0xFFFFFFFFFFFFFFFF), (20, 0x13C)] })
    (reg 18 · == 0x5FFFFFFFFFFFFFFF) = true := by decide +kernel

/-! ### Branches, calls, returns -/

theorem witness_BranchesAndJumps : scalars.Canonical ∧ (scalars.r 16 = 5) ∧ (scalars.nextPc + 2 * immS [] 31).getLsbD 0 = false ∧
    (scalars.nextPc + 2 * immS [] 31).extractLsb' 48 16 = 0#16 ∧ (scalars.r 18).extractLsb' 48 16 ≠ 0#16 ∧ (scalars.r 17).getLsbD 0 = true := by
  simp only [State.Canonical]; decide +kernel
/-- The last even address of the address space is a target, and one past it is not. -/
theorem witness_Branches_edge :
    (0x0000FFFFFFFFFFFE : Word).extractLsb' 48 16 = 0#16 ∧ (0x0001000000000000 : Word).extractLsb' 48 16 ≠ 0#16 := by decide

theorem test_beqz : runs (.beqz 16 31 []) scalars (fun t => (t.thread 0).pc == 0x100000002) = true ∧
    runs (.beqz 0 31 []) scalars (fun t => (t.thread 0).pc == 0x100000000) = true := by decide +kernel
theorem test_bnez : runs (.bnez 16 31 []) scalars (fun t => (t.thread 0).pc == 0x100000000) = true := by decide +kernel
theorem test_bltz_bgez : runs (.bltz 18 4 []) scalars (fun t => (t.thread 0).pc == 0x10000000A) = true ∧
    runs (.bgez 18 4 []) scalars (fun t => (t.thread 0).pc == 0x100000002) = true := by decide +kernel
theorem test_beq_bne : runs (.beq 16 17 [4]) scalars (fun t => (t.thread 0).pc == 0x100000002) = true ∧
    runs (.bne 16 17 [4]) scalars (fun t => (t.thread 0).pc == 0x10000000A) = true := by decide +kernel
theorem test_blt_bltu : runs (.blt 18 16 [4]) scalars (fun t => (t.thread 0).pc == 0x10000000A) = true ∧
    runs (.bltu 18 16 [4]) scalars (fun t => (t.thread 0).pc == 0x100000002) = true := by decide +kernel
theorem test_j_jr : runs (.j 0 4 []) scalars (fun t => (t.thread 0).pc == 0x10000000A) = true ∧
    runs (.jr 0 20) (one { user with regs := regs [(20, 0x200000000)] }) (fun t => (t.thread 0).pc == 0x200000000) = true := by decide +kernel
/-- R89: an odd target raises cause 3; without a handler the slot's supervisor gets it. -/
theorem test_jr_odd : runs (.jr 0 17) scalars (fun t => (t.thread 0).scause == 3 && (t.thread 0).saddr == 3 && (t.thread 0).tsr.priv) = true := by
  decide +kernel

/-- A thread one call deep, its frame resident. -/
def deep : Thread := { user with frames := [Vector.replicate 16 7], depth := 1, wsp := 0x200, regs := regs [(15, 0x100000100), (16, 9)] }
def full : Thread := { deep with frames := List.replicate 7 (Vector.replicate 16 7), depth := 7 }

theorem witness_CallsAndReturns : (one deep).Canonical ∧ (one deep).me.placeFree = true ∧ (one deep).me.depth < 2 ^ 32 - 1 ∧
    (one deep).r 15 = 0x100000100 ∧ (one deep).me.frames ≠ [] ∧ (one { deep with tsr := sup.tsr, sepc := 3 }).me.tsr.priv = true := by
  simp only [State.Canonical]; decide +kernel
/-- No place free, with frames to spill and without; the greatest depth; a frame that is not resident. -/
theorem witness_CallsAndReturns_stuck : (one full).me.placeFree = false ∧ (one full).me.wsp ≠ 0 ∧ (one full).me.frames ≠ [] ∧
    (one full).me.depth < 2 ^ 32 - 1 ∧ (one { full with wsp := 0 }).me.placeFree = false ∧
    2 ^ 32 - 1 ≤ (one { deep with depth := 2 ^ 32 - 1 }).me.depth ∧ (one { deep with frames := [] }).me.depth ≠ 0 ∧
    (one user).me.depth = 0 := by
  decide +kernel

/-- R63, R88: the old p and l are saved, q7 with the return point becomes p7, l and q are zero. -/
theorem test_call : runs (.call 0 4 []) (one deep) (fun t => reg 15 t == 0x100000002 && reg 16 t == 0 && (t.thread 0).depth == 2 &&
    (t.thread 0).frames.length == 2 && (t.thread 0).pc == 0x10000000A) = true := by decide +kernel
theorem test_callr : runs (.callr 0 15) (one deep) (fun t => (t.thread 0).pc == 0x100000100 && reg 15 t == 0x100000002) = true := by decide +kernel
theorem test_ret : runs (.ret 0 0) (one deep) (fun t => reg 8 t == 7 && reg 23 t == 7 && reg 31 t == 0x100000100 && (t.thread 0).depth == 0 &&
    (t.thread 0).pc == 0x100000100) = true := by decide +kernel
theorem test_tret : runs (.tret 0 0) (one { deep with tepc := 0x100000200, tvec := 0x301 }) (fun t => (t.thread 0).pc == 0x100000200 &&
    (t.thread 0).tvec == 0x300 && (t.thread 0).depth == 0) = true := by decide +kernel
theorem test_stret : runs (.stret 0 0) (one { deep with sepc := 0x100000200, privst := 2, tsr := sup.tsr }) (fun t =>
    (t.thread 0).pc == 0x100000200 && !(t.thread 0).tsr.priv && (t.thread 0).privst == 0) = true := by decide +kernel

/-! ### Exceptions and special registers -/

/-- A user thread with a handler at 0x300. -/
def handled : Thread := { user with tvec := 0x300, regs := regs [(16, 9)] }

theorem witness_TakingAnException : (one handled).Canonical ∧ (one handled).me.park = none ∧ (one handled).me.ForUser 8 ∧
    ¬(one handled).me.ForUser 9 ∧ (one handled).me.SupervisorReady 9 ∧ (one handled).me.placeFree = true ∧ (one handled).me.depth < 2 ^ 32 - 1 ∧
    goodTid (one handled).cur = true := by
  simp only [State.Canonical, Thread.ForUser, Thread.SupervisorReady]; decide +kernel
/-- A push that waits, one that nothing can free, one past the greatest depth, and a supervisor that cannot be entered. -/
def stuckThread : Thread := { full with tvec := 0x300 }
theorem witness_TakingAnException_stuck : (one stuckThread).me.ForUser 8 ∧ (one stuckThread).me.placeFree = false ∧ (one stuckThread).me.wsp ≠ 0 ∧
    (one stuckThread).me.frames ≠ [] ∧ (one { stuckThread with wsp := 0 }).me.SupervisorReady 18 ∧
    (one { handled with depth := 2 ^ 32 - 1 }).me.SupervisorReady 18 ∧ ¬(one { stuckThread with privst := 2 }).me.SupervisorReady 18 := by
  simp only [Thread.ForUser, Thread.SupervisorReady]; decide +kernel

/-- R76, R77: BRK enters the user handler with the next group as return point; SVC goes to the supervisor. -/
theorem test_brk : runs (.brk 0 5 []) (one handled) (fun t => let u := t.thread 0
    u.pc == 0x300 && u.tepc == 0x100000002 && u.tcause == 8 && u.tinfo == 5 && u.tvec == 0x301 && u.depth == 1) = true := by decide +kernel
theorem test_svc : runs (.svc 0 5 []) (one handled) (fun t => let u := t.thread 0
    u.sepc == 0x100000002 && u.scause == 9 && u.tsr.priv && u.privst == 2 && u.depth == 1) = true := by decide +kernel
theorem test_ill : runs (.ill 0 0) (one handled) (fun t => (t.thread 0).scause == 1 && (t.thread 0).sepc == 0x100000000) = true := by decide +kernel
/-- R321: a trap while SBUSY is 1 stops the slot; no supervisor slot is named, so DROPS counts. -/
theorem test_stop : runs (.ill 0 0) (one { handled with privst := 2 }) (fun t => (t.thread 0).state == .stopped && (t.die 0).drops == 1) = true := by
  decide +kernel

theorem witness_RequestedAndPrivilegeTraps : (one user).Canonical ∧ (one user).ir = [0x0609] ∧ (one user).ir.getLast? = some 0x0609 ∧ (one user).me.tsr.priv = false := by
  simp only [State.Canonical]; decide +kernel
theorem test_privilege : ([Instr.rdp 16 0, .wrp 16 2, .stret 0 0, .tlbi 16 17, .ctxs 16 17 [], .ctxl 16 17 [], .preempt 16 17, .kill 16 17, .migr 16 17,
    .secm 16 17 [], .halt 0 0, .icinv 16 17].all fun i => runs i (one user) (fun t => (t.thread 0).scause == 2)) = true := by decide +kernel

def reader : Thread := { sup with rank := 3, wsp := 0x200, tepc := 0x44, pondid := 9, ctx := { Ctx.zero with id := 5, ptbase := 0x10000 } }
theorem witness_RegisterReads : (one reader).Canonical ∧ ¬(one reader).me.pushes 16 ∧ (one reader).me.tsr.priv = true := by
  simp only [State.Canonical, Thread.pushes]; decide +kernel
theorem test_rds : runs (.rds 16 1) (one reader) (reg 16 · == 0x20) = true ∧ runs (.rds 16 9) (one reader) (reg 16 · == 3) = true ∧
    runs (.rds 16 11) (one reader) (reg 16 · == 0x200) = true := by decide +kernel
theorem test_rdp : runs (.rdp 16 0) (one reader) (reg 16 · == 5) = true ∧ runs (.rdp 16 3) (one reader) (reg 16 · == 0x10000) = true ∧
    runs (.rdp 16 2) (one reader) (reg 16 · == 9) = true := by decide +kernel

def writer : Thread := { sup with regs := regs [(16, 0xFFFFFFFFFFFFFFFF), (17, 0x280), (18, 2), (19, 6)] }
theorem witness_RegisterWrites : (one writer).Canonical ∧ (one writer).me.tsr.priv = true ∧ ((one writer).r 18).extractLsb' 0 5 ∈ [1#5, 2#5, 3#5] ∧
    ((one writer).r 17).extractLsb' 48 16 = 0#16 ∧ ((one writer).r 17).extractLsb' 0 7 = 0#7 ∧ ((one writer).r 16).extractLsb' 48 16 ≠ 0#16 ∧
    ((one writer).r 18).getLsbD 2 = false ∧ ((one writer).r 19).getLsbD 2 = true := by
  simp only [State.Canonical]; decide +kernel
theorem test_wrs : runs (.wrs 16 2) (one writer) (fun t => (t.thread 0).fctl == 0x1F7) = true ∧
    runs (.wrs 17 11) (one writer) (fun t => (t.thread 0).wsp == 0x280) = true ∧ runs (.wrs 18 3) (one writer) (fun t => (t.thread 0).vtype == 2) = true ∧
    runs (.wrs 16 11) (one writer) (fun t => (t.thread 0).scause == 3) = true := by decide +kernel
theorem test_wrp : runs (.wrp 16 3) (one writer) (fun t => (t.thread 0).ctx.ptbase == 0x000FFFFFFFFFF000) = true ∧
    runs (.wrp 18 9) (one writer) (fun t => (t.thread 0).privst == 2) = true ∧
    runs (.wrp 19 9) (one writer) (fun t => ((t.thread 0).park.map (·.why)) == some .unseal) = true := by decide +kernel

/-! ### Floating point -/

/-- FP64: 1, 2, 0.5, infinity, NaN, 3, and -4 in l0 to l6; FP32: 1 and 2 in p0 and p1. -/
def floats : State := one { user with regs := regs [(16, 0x3FF0000000000000), (17, 0x4000000000000000), (18, 0x3FE0000000000000),
  (19, 0x7FF0000000000000), (20, 0x7FF8000000000000), (21, 0x4008000000000000), (22, 0xC010000000000000), (8, 0x3F800000), (9, 0x40000000)] }

theorem witness_ScalarFloat : floats.Canonical ∧ ¬floats.me.pushes 16 ∧ (decodeF .fp64 0x7FF0000000000000) = .inf false ∧
    (decodeF .fp64 0x7FF8000000000000).isNan = true ∧ (∃ e, decodeF .fp64 0 = .fin false 0 e) ∧
    (∃ m e, decodeF .fp64 0x3FF0000000000000 = .fin false m e ∧ m ≠ 0 ∧ 2 ^ Fmt.fp64.man ≤ m) := by
  simp only [State.Canonical, Thread.pushes]
  exact ⟨by decide +kernel, by decide +kernel, by decide +kernel, by decide +kernel, ⟨_, rfl⟩, ⟨_, _, rfl, by decide +kernel, by decide +kernel⟩⟩
/-- The numbers 1.0 and -2.0 and the smallest subnormal, as elements of f32. -/
theorem witness_ScalarFloat_values : let p := inF .fp32 ⟨.rne, false⟩ 0x3F800000
    let q := inF .fp32 ⟨.rne, false⟩ 0xC0000000
    p.finite ∧ q.finite ∧ p.rat = 1 ∧ q.rat = -2 ∧ (decodeF .fp32 1).finite ∧ (decodeF .fp32 1).rat = 2 ^ (-149 : Int) ∧
      (inF .fp32 ⟨.rne, true⟩ 1).rat = 0 ∧ (decodeF .fp32 0x3F800000).neg = false := by
  refine ⟨trivial, trivial, ?_, ?_, trivial, ?_, ?_, rfl⟩ <;> decide +kernel
/-- The values of a format code that is no integer's, and both ends of a range that holds 0. -/
theorem witness_ScalarFloat_conversions : Fmt.e4m3.isInt = false ∧ (0 : Int) ≤ 255 ∧ (inF .fp16 ⟨.rtz, false⟩ 0xFC00) = .inf true ∧
    (inF .fp16 ⟨.rtz, false⟩ 0x7E00).isNan = true ∧ (inF .fp16 ⟨.rtz, false⟩ 0x3C00).isNan = false := by decide +kernel

theorem test_fadd : runs (.fadd 16 17 none) floats (reg 16 · == 0x4008000000000000) = true := by decide +kernel
theorem test_fadd_f32 : runs (.fadd 8 9 (some ⟨10, 10⟩)) floats (reg 10 · == 0x40400000) = true := by decide +kernel
theorem test_fsub : runs (.fsub 16 17 none) floats (reg 16 · == 0xBFF0000000000000) = true := by decide +kernel
theorem test_fmul : runs (.fmul 17 18 none) floats (reg 17 · == 0x3FF0000000000000) = true := by decide +kernel
/-- 1/3 rounds to nearest even and is inexact (R120, R126). -/
theorem test_fdiv : runs (.fdiv 16 21 none) floats (fun t => reg 16 t == 0x3FD5555555555555 && (t.thread 0).fctl == 0x10#64) = true := by decide +kernel
theorem test_fsqrt : runs (.fsqrt 16 17 none) floats (reg 16 · == 0x3FF6A09E667F3BCD) = true := by decide +kernel
theorem test_fma : runs (.fma 17 21 (some ⟨16, 0⟩)) floats (reg 16 · == 0x401C000000000000) = true := by decide +kernel
theorem test_fmin_fmax : runs (.fmin 16 22 none) floats (reg 16 · == 0xC010000000000000) = true ∧
    runs (.fmax 16 20 none) floats (reg 16 · == 0x3FF0000000000000) = true := by decide +kernel
theorem test_feq_flt_fle : runs (.feq 16 16 none) floats (reg 16 · == 1) = true ∧ runs (.flt 16 20 none) floats (reg 16 · == 0) = true ∧
    runs (.fle 16 17 none) floats (reg 16 · == 1) = true := by decide +kernel
theorem test_fcvti : runs (.fcvti 16 22 none) floats (reg 16 · == 0xFFFFFFFFFFFFFFFC) = true ∧
    runs (.fcvti 16 19 none) floats (reg 16 · == 0x7FFFFFFFFFFFFFFF) = true := by decide +kernel
theorem test_fcvtf : runs (.fcvtf 16 17 none) (one { user with regs := regs [(17, 3)] }) (reg 16 · == 0x4008000000000000) = true := by decide +kernel
theorem test_fcvt : runs (.fcvt 16 21 (some ⟨10, 0⟩)) floats (reg 16 · == 0x40400000) = true := by decide +kernel
theorem test_fclass : runs (.fclass 16 19 none) floats (reg 16 · == 128) = true := by decide +kernel
theorem test_rcp : runs (.rcp 16 17 none) floats (reg 16 · == 0x3FE0000000000000) = true := by decide +kernel
theorem test_rsq : runs (.rsq 16 16 none) floats (reg 16 · == 0x3FF0000000000000) = true := by decide +kernel
theorem test_fabs_fneg : runs (.fabs 16 22 none) floats (reg 16 · == 0x4010000000000000) = true ∧
    runs (.fneg 16 22 none) floats (reg 16 · == 0x4010000000000000) = true := by decide +kernel

/-! ### Vectors -/

/-- I32 lanes 1, 2, 3, -4 in v1 and 5, 6, 7, 2 in v2; FP32 lanes 1, 2, 0, 0 in v3. -/
def vectors : State := one { user with
  regs := regs [(16, 0xFFFFFFFFFFFFFFFE)]
  vregs := vregs [(1, 0xFFFFFFFC000000030000000200000001), (2, 0x00000002000000070000000600000005), (3, 0x00000000000000004000000040800000)]
  vtype := 3 }

theorem witness_VectorIntegerLanes : vectors.Canonical ∧ vectors.elem (eOf none) ∈ [1#5, 2#5, 3#5, 4#5] ∧
    vectors.elem (eOf (some ⟨0, 1⟩)) ∈ [1#5, 2#5, 3#5, 4#5] ∧ immShift [] 7 < laneWidth (vectors.elem (eOf (some ⟨0, 1⟩))) := by
  simp only [State.Canonical]; decide +kernel
theorem witness_VectorFloatLanes : vectors.Canonical ∧ vectors.elem (eOf (some ⟨0, 10⟩)) ∈ [8#5, 9#5, 10#5, 11#5] := by
  simp only [State.Canonical]; decide +kernel
theorem witness_VectorMovesAndWidening : vectors.Canonical ∧ dOf (some ⟨4, 3⟩) ≠ 1 ∧ (3 : Reg).toNat < 128 / laneWidth 3 ∧ ¬vectors.me.pushes 16 ∧
    vectors.elem (dOf (some ⟨2, 3⟩)) ∈ [1#5, 2#5, 3#5, 4#5, 8#5, 9#5, 10#5, 11#5] ∧ (7 : Reg).toNat < 8 := by
  simp only [State.Canonical, Thread.pushes]; decide +kernel
/-- Inputs of the special functions: 1.5 between integers, powers of two and quarter turns, 0.25, which is a quarter turn, 1.0, -2.0, and no numbers. -/
theorem witness_VectorFloatLanes_special : let v (x : Nat) : FVal := inF .fp32 ⟨.rne, false⟩ x
    (v 0x3FC00000).finite ∧ (1 : Rat) < (v 0x3FC00000).rat ∧ (v 0x3FC00000).rat < 2 ∧ 4 * (v 0x3FC00000).rat = 6 ∧ 4 * (v 0x3E800000).rat = 1 ∧
    (1 : Rat) < 4 * (v 0x3EC00000).rat ∧ 4 * (v 0x3EC00000).rat < 2 ∧ (v 0x3F800000).rat = 1 ∧ (v 0xC0000000).finite ∧ (v 0xC0000000).rat < 0 ∧
    (v 0).finite ∧ (v 0).rat = 0 ∧ v 0xFF800000 = .inf true ∧ (v 0x7FC00000).isNan = true := by
  refine ⟨trivial, ?_, ?_, ?_, ?_, ?_, ?_, ?_, trivial, ?_, trivial, ?_, ?_, ?_⟩ <;> decide +kernel
theorem witness_VectorMovesAndWidening_tree : (List.replicate 8 0).length = 8 ∧ treeOf (fun x y : Nat => x + y) 4 (List.replicate 8 1) = [8] := by decide
/-- Terms of a dot product: numbers, infinity times zero, both infinities, a NaN alone and one infinity alone. -/
theorem witness_VectorMovesAndWidening_values : let v (x : Nat) : FVal := inF .fp16 ⟨.rne, false⟩ x
    (v 0x3C00).finite ∧ (inF .fp32 ⟨.rne, false⟩ 0x3F800000).finite ∧ ¬(v 0x7C00).finite ∧ (v 0x7C00).isNan = false ∧ (v 0).isZero = true ∧
    ((v 0x7C00).neg != (v 0x3C00).neg) = false ∧ ((v 0xFC00).neg != (v 0x3C00).neg) = true ∧ (v 0x3C00).isZero = false ∧
    (v 0x7E00).isNan = true ∧ Fmt.fp16 ≠ .fp32 := by
  refine ⟨trivial, trivial, id, ?_⟩; decide +kernel
theorem witness_VectorTypeTrap : (one user).Canonical ∧ (one user).ir[(one user).ir.length - 1]? = some 0x0609 ∧
    (one user).elem (eOf none) ∉ [1#5, 2#5, 3#5, 4#5, 8#5, 9#5, 10#5, 11#5] ∧
    ([0xF801, 0xF463, 0x0422] : List IWord).findIdx? (fun x => x.toNat / 1024 == 61) = some 1 ∧ vectors.elem (eOf (some ⟨0, 4⟩)) ∉ [1#5, 2#5, 8#5, 9#5] := by
  simp only [State.Canonical]; decide +kernel

theorem test_vadd : runs (.vadd 1 2 none) vectors (vec 1 · == 0xFFFFFFFE0000000A0000000800000006) = true := by decide +kernel
theorem test_vsub : runs (.vsub 1 2 (some ⟨4, 0⟩)) vectors (vec 4 · == 0xFFFFFFFAFFFFFFFCFFFFFFFCFFFFFFFC) = true := by decide +kernel
theorem test_vmul : runs (.vmul 1 2 none) vectors (vec 1 · == 0xFFFFFFF8000000150000000C00000005) = true := by decide +kernel
theorem test_vmulh : runs (.vmulh 1 2 none) vectors (vec 1 · == 0xFFFFFFFF000000000000000000000000) = true := by decide +kernel
theorem test_vmin_vmax : runs (.vmin 1 2 none) vectors (vec 1 · == 0xFFFFFFFC000000030000000200000001) = true ∧
    runs (.vmax 1 2 none) vectors (vec 1 · == 0x00000002000000070000000600000005) = true := by decide +kernel
theorem test_vminu_vmaxu : runs (.vminu 1 2 none) vectors (vec 1 · == 0x00000002000000030000000200000001) = true ∧
    runs (.vmaxu 1 2 none) vectors (vec 1 · == 0xFFFFFFFC000000070000000600000005) = true := by decide +kernel
theorem test_vlogic : runs (.vand 1 2 none) vectors (vec 1 · == 0x00000000000000030000000200000001) = true ∧
    runs (.vor 1 2 none) vectors (vec 1 · == 0xFFFFFFFE000000070000000600000005) = true ∧
    runs (.vxor 1 1 none) vectors (vec 1 · == 0) = true ∧
    runs (.vandn 1 2 none) vectors (vec 1 · == 0xFFFFFFFC000000000000000000000000) = true := by decide +kernel
theorem test_vshifts : runs (.vshl 1 2 none) vectors (vec 1 · == 0xFFFFFFF0000001800000008000000020) = true ∧
    runs (.vshr 1 2 none) vectors (vec 1 · == 0x3FFFFFFF000000000000000000000000) = true ∧
    runs (.vsar 1 2 none) vectors (vec 1 · == 0xFFFFFFFF000000000000000000000000) = true := by decide +kernel
theorem test_vshifts_imm : runs (.vshli 1 4 none []) vectors (vec 1 · == 0xFFFFFFC0000000300000002000000010) = true ∧
    runs (.vshri 1 4 none []) vectors (vec 1 · == 0x0FFFFFFF000000000000000000000000) = true ∧
    runs (.vsari 1 4 none []) vectors (vec 1 · == 0xFFFFFFFF000000000000000000000000) = true := by decide +kernel
theorem test_vfma : runs (.vfma 3 3 (some ⟨3, 10⟩)) vectors (vec 3 · == 0x000000000000000040C0000041A00000) = true := by decide +kernel
theorem test_vdiv_vsqrt : runs (.vdiv 3 3 (some ⟨4, 10⟩)) vectors (fun t => (vec 4 t).extractLsb' 0 64 == 0x3F8000003F800000) = true ∧
    runs (.vsqrt 4 3 (some ⟨0, 10⟩)) vectors (fun t => (vec 4 t).extractLsb' 0 32 == 0x40000000) = true := by decide +kernel
theorem test_vrcp : runs (.vrcp 4 3 (some ⟨0, 10⟩)) vectors (fun t => (vec 4 t).extractLsb' 0 32 == 0x3E800000) = true := by decide +kernel
/-- R141: the powers of two are exact, and the sine of zero is zero. -/
theorem test_vexp2 : runs (.vexp2 4 3 (some ⟨0, 10⟩)) vectors (vec 4 · == 0x3F8000003F8000004080000041800000) = true := by decide +kernel
theorem test_vsin_vcos : runs (.vsin 4 0 (some ⟨0, 10⟩)) vectors (vec 4 · == 0) = true ∧
    runs (.vcos 4 0 (some ⟨0, 10⟩)) vectors (vec 4 · == 0x3F8000003F8000003F8000003F800000) = true := by decide +kernel
theorem test_vabs_vneg : runs (.vabs 4 1 none) vectors (vec 4 · == 0x00000004000000030000000200000001) = true ∧
    runs (.vneg 4 1 none) vectors (vec 4 · == 0x00000004FFFFFFFDFFFFFFFEFFFFFFFF) = true := by decide +kernel
theorem test_vcompares : runs (.vceq 1 1 none) vectors (vec 1 · == BitVec.allOnes 128) = true ∧
    runs (.vclt 1 2 none) vectors (vec 1 · == BitVec.allOnes 128) = true ∧
    runs (.vcltu 1 2 none) vectors (vec 1 · == 0x00000000FFFFFFFFFFFFFFFFFFFFFFFF) = true ∧ runs (.vcle 2 1 none) vectors (vec 2 · == 0) = true := by
  decide +kernel
theorem test_vsel : runs (.vsel 1 2 (some ⟨4, 0⟩)) vectors (vec 4 · == 0x00000002000000070000000600000005) = true := by decide +kernel
theorem test_vsplat : runs (.vsplat 4 16 none) vectors (vec 4 · == 0xFFFFFFFEFFFFFFFEFFFFFFFEFFFFFFFE) = true := by decide +kernel
theorem test_vext : runs (.vext 20 1 (some ⟨3, 0⟩)) vectors (reg 20 · == 0xFFFFFFFFFFFFFFFC) = true := by decide +kernel
theorem test_vins : runs (.vins 1 16 (some ⟨1, 0⟩)) vectors (vec 1 · == 0xFFFFFFFC00000003FFFFFFFE00000001) = true := by decide +kernel
theorem test_vshuf : runs (.vshuf 2 1 none) vectors (vec 2 · == 0x00000000000000020000000700000006) = true := by decide +kernel
theorem test_vzip : runs (.vzip 1 2 (some ⟨4, 0⟩)) vectors (fun t => vec 4 t == 0x00000006000000020000000500000001 &&
    vec 1 t == 0x00000002FFFFFFFC0000000700000003) = true := by decide +kernel
theorem test_vunzip : runs (.vunzip 1 2 (some ⟨4, 0⟩)) vectors (fun t => vec 4 t == 0x00000007000000050000000300000001 &&
    vec 1 t == 0x0000000200000006FFFFFFFC00000002) = true := by decide +kernel
theorem test_vcvt : runs (.vcvt 4 1 (some ⟨10, 3⟩)) vectors (vec 4 · == 0xC080000040400000400000003F800000) = true := by decide +kernel
theorem test_vred : runs (.vred 20 1 (some ⟨0, 3⟩)) vectors (reg 20 · == 2) = true := by decide +kernel
/-- Bytes 1, 0, 0, 0 against 5, 0, 0, 0 in lane 0. -/
theorem test_vdot : runs (.vdot 1 2 (some ⟨6, 1⟩)) vectors (fun t => (vec 6 t).extractLsb' 0 32 == 5) = true := by decide +kernel
theorem test_vpopc : runs (.vpopc 4 1 none) vectors (vec 4 · == 0x0000001E000000020000000100000001) = true := by decide +kernel
theorem test_vmulw : runs (.vmulw 1 2 (some ⟨4, 3⟩)) vectors (vec 4 · == 0x000000000000000C0000000000000005) = true := by decide +kernel
theorem test_vmov : runs (.vmov 4 2) vectors (vec 4 · == 0x00000002000000070000000600000005) = true := by decide +kernel

/-! ### Memory -/

/-- A user thread: l0 holds 0x100, l1 a value, q0 holds 0x100000040; words at those places. -/
def holder : Thread := { user with
  ctx := ctx5
  taskh := 0x0007100000000002
  regs := regs [(16, 0x100), (17, 0x1122334455667788), (24, 0x100000040), (18, 0xFFFFFFFFFFFFFFFF)]
  vregs := vregs [(1, 0x0F0E0D0C0B0A09080706050403020100)] }
def memory : State := mapped (put (one holder) [(t100, 0x8877665544332211), (t100 + 8, 0xFFEEDDCCBBAA9988), (dev 0x40, 41)])
/-- The same with the two words in TCM empty. -/
def emptied : State := hollow memory [t100, t100 + 8]

def fe (n : BitVec 2) : Option MPfx := some ⟨0, 0, 0, n⟩
def relaxed : Option MPfx := some ⟨1, 0, 0, 0⟩

theorem witness_LoadsAndStores : memory.Canonical ∧ memory.Idle ∧ memory.Reaches (memory.ea 16 none [] 16) 16 .read local100 ∧
    memory.AllAre (wordsTouched t100 16) true ∧ ¬memory.me.pushes 18 ∧ memory.Reaches (memory.ea 16 none [] 8) 8 .write local100 ∧
    emptied.AllAre (wordsTouched t100 8) false ∧ emptied.guarded t100 16 = false ∧ feOf (fe 3) = 3 ∧ orderOf relaxed ≠ 0 := by
  simp only [State.Canonical, State.Idle, State.Reaches, State.AllAre, Thread.pushes]; decide +kernel
/-- The same on a page in device memory, at its last bytes. -/
theorem witness_LoadsAndStores_page : memory.Reaches 0x13FFFFFF0 16 .read (devT 0x3FFFFFF0) ∧
    memory.check 0 memory.me.ctx false 0x140000000 8 .read = .trap 4 0x140000000 := by
  simp only [State.Reaches]; decide +kernel

theorem test_ld8 : runs (.ld8 20 16 none [7] none) memory (reg 20 · == 0x88) = true ∧
    runs (.ld8s 20 16 none [7] none) memory (reg 20 · == 0xFFFFFFFFFFFFFF88) = true := by decide +kernel
theorem test_ld16 : runs (.ld16 20 16 none [] none) memory (reg 20 · == 0x2211) = true ∧
    runs (.ld16s 20 16 none [6] none) memory (reg 20 · == 0xFFFFFFFFFFFF8877) = true := by decide +kernel
theorem test_ld32 : runs (.ld32 20 16 none [4] none) memory (reg 20 · == 0x88776655) = true ∧
    runs (.ld32s 20 16 none [4] none) memory (reg 20 · == 0xFFFFFFFF88776655) = true := by decide +kernel
theorem test_ld64 : runs (.ld64 20 24 none [] none) memory (reg 20 · == 41) = true := by decide +kernel
theorem test_ld64_take : runs (.ld64 20 16 none [] (fe 2)) memory (fun t => reg 20 t == 0x8877665544332211 && !t.full t100 && t.full (t100 + 8)) = true := by
  decide +kernel
theorem test_ldv : runs (.ldv 2 16 none [] none) memory (vec 2 · == 0xFFEEDDCCBBAA99888877665544332211) = true := by decide +kernel
theorem test_st8 : runs (.st8 17 16 none [1] none) memory (fun t => t.word t100 == 0x8877665544338811) = true := by decide +kernel
theorem test_st16 : runs (.st16 17 16 none [2] none) memory (fun t => t.word t100 == 0x8877665577882211) = true := by decide +kernel
theorem test_st32 : runs (.st32 17 16 none [4] none) memory (fun t => t.word t100 == 0x5566778844332211) = true := by decide +kernel
theorem test_st64_fill : runs (.st64 17 16 none [] (fe 3)) emptied (fun t => t.word t100 == 0x1122334455667788 && t.full t100 && !t.full (t100 + 8)) = true := by
  decide +kernel
theorem test_st64_relaxed : runs (.st64 17 16 none [] relaxed) memory (fun t => t.word t100 == 0x8877665544332211 && (t.core 0).q.length == 1) = true := by
  decide +kernel
theorem test_stv : runs (.stv 1 16 none [] none) memory (fun t => t.word t100 == 0x0706050403020100 && t.word (t100 + 8) == 0x0F0E0D0C0B0A0908) = true := by
  decide +kernel

/-- An atomic's take and its put: the pair of steps, the second of them in the state that the first leaves. -/
def taken (i : Instr) (s : State) : State :=
  match exec i s with
  | .next t => t
  | _ => s

theorem witness_TakesAndWaits : memory.Canonical ∧ memory.Idle ∧ atomicTarget local100 = true ∧ memory.elem (eOf (some ⟨3, 3⟩)) ∈ [1#5, 2#5, 3#5, 4#5] ∧
    memory.Reaches (memory.addrOf 16 []) 8 .rmw local100 ∧ memory.AllAre (wordsTouched t100 8) true ∧ local100.pa % 16 = 0 ∧
    ¬emptied.AllAre (wordsTouched t100 8) true ∧ ¬memory.AllAre (wordsTouched t100 8) false := by
  simp only [State.Canonical, State.Idle, State.Reaches, State.AllAre]; decide +kernel
theorem witness_TakeReplies : let s := taken (.amoadd 17 16 (some ⟨20, 0⟩) [] none) memory
    s.Canonical ∧ s.waits = [] ∧ s.seals = [] ∧ s.bad = [] ∧ (s.cluster 0).lines = [] ∧ homeDie t100 = dieOf 0 ∧ s.guarded t100 8 = false ∧
    ((s.thread 0).park.any fun p => match p.why with | .granted x _ => x.tid == 0 && x.size == 8 | _ => false) = true := by
  simp only [State.Canonical]; decide +kernel

theorem test_amoadd_take : runs (.amoadd 17 16 (some ⟨20, 0⟩) [] none) memory (fun t => !t.full t100 && t.held t100 && (t.thread 0).park.isSome) = true := by
  decide +kernel
theorem test_amoadd : runs (.pt 0) (taken (.amoadd 17 16 (some ⟨20, 0⟩) [] none) memory) (fun t => reg 20 t == 0x8877665544332211 &&
    t.word t100 == 0x9999999999999999 && t.full t100 && !t.held t100 && (t.thread 0).park.isNone && (t.thread 0).pc == 0x100000002) = true := by
  decide +kernel
theorem test_amologic : (([(Instr.amoand 17 16 none [] none, (0x0022224444222200 : Word)), (.amoor 17 16 none [] none, 0x9977775555777799),
    (.amoxor 17 16 none [] none, 0x9955551111555599), (.amomin 17 16 none [] none, 0x8877665544332211), (.amomax 17 16 none [] none, 0x1122334455667788),
    (.amominu 17 16 none [] none, 0x1122334455667788), (.amomaxu 17 16 none [] none, 0x8877665544332211),
    (.amoswp 17 16 none [] none, 0x1122334455667788)] : List (Instr × Word)).all fun e =>
      runs (.pt 0) (taken e.1 memory) (fun t => t.word t100 == e.2 && reg 17 t == 0x8877665544332211)) = true := by decide +kernel
theorem test_cas : runs (.pt 0) (taken (.cas 20 16 (some ⟨0, 17⟩) [] none) memory) (fun t => t.word t100 == 0x8877665544332211) = true ∧
    runs (.pt 0) (taken (.cas 20 16 (some ⟨0, 17⟩) [] none) (memory.setWord t100 0)) (fun t => t.word t100 == 0x1122334455667788 && reg 20 t == 0) = true := by
  decide +kernel
theorem test_vamo : runs (.pt 0) (taken (.vamo 1 16 (some ⟨3, 1⟩) [] none) memory) (fun t => vec 1 t == 0xFFEEDDCCBBAA99888877665544332211 &&
    t.word t100 == 0x8F7D6B5947352311 && t.word (t100 + 8) == 0x0EFCEAD8C6B4A290) = true := by decide +kernel
theorem test_amo_waits : runs (.amoadd 17 16 none [] none) emptied (fun t => t.waits.length == 1 && (t.thread 0).park.isSome) = true := by decide +kernel

/-- A cell, a lock, and their owner words. -/
theorem witness_CellsAndLocks : memory.Canonical ∧ memory.Idle ∧ atomicTarget local100 = true ∧
    memory.Reaches (memory.addrOf 16 []) 16 .rmw local100 ∧ memory.Reaches (memory.addrOf 16 []) 8 .write local100 ∧ t100 % 16 = 0 ∧
    memory.AllAre [t100] true ∧ emptied.AllAre [t100] false ∧ memory.guarded t100 4096 = false ∧ ¬memory.me.pushes 20 ∧ (memory.r 0).toNat = 0 ∧
    (memory.addrOf 16 []).extractLsb' 12 36 = (memory.addrOf 16 [] + BitVec.ofNat 64 (8 * 2 - 1)).extractLsb' 12 36 := by
  simp only [State.Canonical, State.Idle, State.Reaches, State.AllAre, Thread.pushes]; decide +kernel
/-- Owner words: no handle, the slot's own task, a DONE and a FAILED task. -/
def owned (h st : Word) : State := put (hollow memory [t100]) [(t100 + 8, h), (dev 0x8000 + 32, 0x0007000000000000 + st)]
theorem witness_WaitsOnOwners : (owned 0 4).Canonical ∧ (owned 0 4).AllAre [t100] false ∧ (owned 0 4).me.ctx.validHandle 0 = false ∧
    (owned 0 4).me.ownTask 0x0007100000000002 = some 0 ∧ (owned 0 4).me.ctx.validHandle 0x0007100000000001 = true ∧
    (owned 0 4).me.ownTask 0x0007100000000001 = none ∧ (owned 0 4).taskPa ctx5 1 = some (dev 0x8020) ∧
    taskStateOf ((owned 0 4).word (dev 0x8020)) = .done ∧ taskStateOf ((owned 0 5).word (dev 0x8020)) = .failed := by
  simp only [State.Canonical, State.AllAre]; decide +kernel

/-- A cell whose owner is a task that waits in the queue of core 0, and a helper with room for an adoption frame at 0x1000. -/
def packet1 : Packet := ⟨#v[0x100000100, 11, 12, 13, 14, 7, 8, 0], 0x0007100000000001, 0, ctx5, 0, 3, none, 3⟩
def adopter : State := (put (hollow (memory.updMe fun x => { x with wsp := 0x1000, fctl := 0x31, tvec := 0x300 }) [t100])
  [(t100 + 8, 0x0007100000000001), (dev 0x8020, 0x0007000000000301), (dev 0x8028, 0x1000000000000000)]).updCore 0 fun c =>
    { c with taskq := [.packet packet1] }
/-- The same machine after the adoption, the stores of the frame performed. -/
def adopted : State := put ((after (exec (.fwait 20 16 [] none) adopter)).updCore 0 fun c => { c with q := [] })
  ((adopter.me.adoptionFrame.zipIdx).map fun e => (tcmPa 0 0x1000 + 8 * e.2, e.1))
theorem witness_Adoption : adopter.Canonical ∧ adopter.Idle ∧ adopter.Reaches (adopter.addrOf 16 []) 16 .read local100 ∧ adopter.AllAre [t100] false ∧
    adopter.me.ctx.validHandle (adopter.word (t100 + 8)) = true ∧ adopter.me.ownTask (adopter.word (t100 + 8)) = none ∧
    adopter.liveEntry adopter.me.ctx (adopter.word (t100 + 8)) = some (dev 0x8020) ∧ taskStateOf (adopter.word (dev 0x8020)) = .unstarted ∧
    bits (adopter.word (dev 0x8028)) 50 48 = dieOf adopter.cur ∧ adopter.me.adepth < 4 ∧
    adopter.packetOfTask (adopter.word (dev 0x8028)) (adopter.word (t100 + 8)) 5 = some packet1 ∧ adopter.me.frames = [] ∧
    adopter.frameLoc 0 0x1000 .write = some ⟨tcmPa 0 0x1000, 128, 0⟩ ∧ adopter.me.pendTrap = none ∧ adopter.me.qbnd = 0 ∧
    adopter.me.preempts = [] ∧ adopter.me.migr = none ∧ adopter.guarded (dev 0x8020) 16 = false := by
  simp only [State.Canonical, State.Idle, State.Reaches, State.AllAre]; decide +kernel
/-- A frame beyond the local windows cannot be stored, and depth 4 is the last. -/
theorem witness_Adoption_refused : adopter.frameLoc 0 0x18000000 .write = none ∧ (adopter.updMe fun x => { x with wsp := 0 }).me.wsp = 0 ∧
    4 ≤ (adopter.updMe fun x => { x with adepth := 4 }).me.adepth := by decide +kernel
theorem test_adopt : runs (.fwait 20 16 [] none) adopter (fun u => (u.thread 0).pc == 0x100000100 && reg 8 u == 11 && (u.thread 0).wsp == 0x1400 &&
    (u.thread 0).tsr.adopted && (u.thread 0).adepth == 1 && u.word (dev 0x8020) == 0x0007000000000382 && u.word (dev 0x8028) == 0x3000000000000000) = true := by
  decide +kernel

theorem test_finit : runs (.finit 17 16 [] none) memory (fun t => t.word t100 == 0 && !t.full t100 && t.word (t100 + 8) == 0x1122334455667788) = true := by
  decide +kernel
theorem test_fwait : runs (.fwait 20 16 [] none) memory (reg 20 · == 0x8877665544332211) = true := by decide +kernel
theorem test_fwait_done : runs (.fwait 20 16 [] none) (owned 0x0007100000000001 4) (fun t => (t.thread 0).scause == 12) = true ∧
    runs (.fwait 20 16 [] none) (owned 0x0007100000000002 4) (fun t => (t.thread 0).scause == 19) = true := by decide +kernel
theorem test_fput : runs (.fput 17 16 [] none) emptied (fun t => t.word t100 == 0x1122334455667788 && t.full t100) = true := by decide +kernel
theorem test_lock : runs (.lock 20 16 [] none) memory (fun t => reg 20 t == 0x8877665544332211 && !t.full t100 && t.word (t100 + 8) == 0x0007100000000002) = true := by
  decide +kernel
theorem test_unlock : runs (.unlock 17 16 [] none) (hollow memory [t100]) (fun t => t.word t100 == 0x1122334455667788 && t.full t100 && t.word (t100 + 8) == 0) = true := by
  decide +kernel
theorem test_empty : runs (.empty 21 16 [] none) (memory.updMe fun x => { x with regs := x.regs.set 21 2 }) (fun t => !t.full t100 && !t.full (t100 + 8) &&
    t.full (t100 + 16)) = true := by decide +kernel
theorem test_empty_513 : runs (.empty 21 16 [] none) (memory.updMe fun x => { x with regs := x.regs.set 21 513 }) (fun t => (t.thread 0).scause == 3) = true := by
  decide +kernel

/-- A queue object of two entries in TCM: head 0, tail 1, its entry 0 full. -/
def queue (head tail : Word) : State := put memory [(t100, head), (t100 + 8, tail), (t100 + 16, 2), (t100 + 24, 0), (t100 + 32, 77), (t100 + 40, 0)]
theorem witness_QueueObjects : (queue 0 1).Canonical ∧ (queue 0 1).Idle ∧ atomicTarget local100 = true ∧
    (queue 0 1).Reaches ((queue 0 1).addrOf 16 []) 32 .rmw local100 ∧ (queue 0 1).me.g6 = none ∧ (queue 0 1).me.g7en = false ∧ t100 % 32 = 0 ∧
    (queue 0 1).AllAre [t100 + 32] true := by
  simp only [State.Canonical, State.Idle, State.Reaches, State.AllAre]; decide +kernel
/-- The entry that an access of the slot reaches, whatever its other fields. -/
def probe : Access := ⟨0, 0x100, t100, 32, 0, .qpop 20, [], none, false, none, 5⟩
theorem witness_queueEntry (x : Access) (h : x.tid = 0) (h' : x.va = 0x100) (h'' : x.pa = t100) :
    (queue 0 1).queueEntry x 0 = .ok (Target.window (t100 + 32) 0 false) := by
  have e : (queue 0 1).queueEntry x 0 = (queue 0 1).queueEntry probe 0 := by
    simp only [State.queueEntry, State.oneHome, h, h', h'']; rfl
  rw [e]; decide +kernel
theorem test_qpush : runs (.qpush 17 16 [] none) (queue 0 1) (fun t => t.word (t100 + 48) == 0x1122334455667788 && t.word (t100 + 8) == 2 && t.word (t100 + 56) == 0) = true := by
  decide +kernel
theorem test_qpush_full : runs (.qpush 17 16 [] none) (queue 0 2) (fun t => (t.thread 0).park.isSome && t.waits.length == 1) = true := by decide +kernel
theorem test_qpop : runs (.qpop 20 16 [] none) (queue 0 1) (fun t => reg 20 t == 77 && t.word t100 == 1 && !t.full (t100 + 32)) = true := by decide +kernel
theorem test_qres : runs (.qres 20 16 none [] none) (queue 0 1) (fun t => reg 20 t == 0x130 && !t.full (t100 + 48) && t.word (t100 + 56) == 0x0007100000000002) = true := by
  decide +kernel
theorem test_queue_cap_0 : runs (.qpop 20 16 [] none) ((queue 0 1).setWord (t100 + 16) 0) (fun t => (t.thread 0).scause == 7) = true := by decide +kernel

theorem witness_QueueBindings : (one user).Canonical ∧ ((one user).hwq 0 3).owner = none ∧
    (∀ q, q < 8 → ((one user).hwq 0 q).owner = none) := by
  simp only [State.Canonical]; decide +kernel
theorem test_qbind : runs (.qbind 16 0) (one { user with regs := regs [(16, 0x9A)] }) (fun t => (t.thread 0).qbnd == 0x9A && (t.hwq 0 2).owner == some 0 &&
    (t.hwq 0 1).owner == some 0 && (t.hwq 0 0).owner == none) = true := by decide +kernel

def barrier (w0 w1 w2 : Word) : State := put memory [(t100, w0), (t100 + 8, w1), (t100 + 16, w2), (t100 + 24, 0x20000000003)]
theorem witness_CountersAndBarriers : (barrier 1 0 4).Canonical ∧ (barrier 1 0 4).Idle ∧ (barrier 1 0 4).Reaches ((barrier 1 0 4).addrOf 16 []) 32 .rmw local100 ∧
    t100 % 32 = 0 ∧ (barrier 1 0 4).barWaiters t100 = [] ∧ (barrier 1 0 4).me.barWait = none ∧ (barrier 1 0 4).word t100 = 1 ∧
    (barrier 2 0 4).word t100 ≠ 0 ∧ (barrier 0 0 4).word t100 = 0 ∧ (barrier 1 0 4).Reaches ((barrier 1 0 4).addrOf 16 []) 16 .write local100 := by
  simp only [State.Canonical, State.Idle, State.Reaches]; decide +kernel
theorem test_joini : runs (.joini 16 16 (some ⟨0, 17⟩) [] none) memory (fun t => t.word t100 == 0x100 && t.word (t100 + 8) == 0x1122334455667788) = true := by
  decide +kernel
theorem test_bari : runs (.bari 16 16 (some ⟨0, 0⟩) [] none) memory (fun t => t.word t100 == 0x100 && t.word (t100 + 8) == 0 && t.word (t100 + 16) == 0 &&
    t.word (t100 + 24) == 0x100) = true := by decide +kernel
/-- The last arrival of phase 4 starts phase 5 with the counts of word 3 and writes 4. -/
theorem test_bar_last : runs (.bar 20 16 [] none) (barrier 1 0 4) (fun t => reg 20 t == 4 && t.word t100 == 3 && t.word (t100 + 8) == 2 && t.word (t100 + 16) == 5) = true := by
  decide +kernel
theorem test_bar_waits : runs (.bar 20 16 [] none) (barrier 2 0 4) (fun t => t.word t100 == 1 && (t.thread 0).park.isSome) = true := by decide +kernel

/-- A reduction cell in device memory with emax 0. -/
def cell (w0 : Word) : State := put (one { holder with regs := regs [(16, 0x100000080), (17, 0x3FF0000000000000), (18, 0x7FF0000000000000), (19, 0)] }
  |> mapped) [(dev 0x80, w0), (dev 0x88, 0), (dev 0x90, 0), (dev 0x98, 0)]
theorem witness_ReductionCells : (cell 0).Canonical ∧ (cell 0).Idle ∧ (cell 0).Reaches ((cell 0).addrOf 16 []) 32 .rmw (devT 0x80) ∧
    storageOf (devT 0x80).pa = .device ∧ (devT 0x80).pa % 32 = 0 ∧ (cell 0).guarded (devT 0x80).pa 32 = false ∧ floatType (eOf none) = 11 ∧
    (cell 0).elem (eOf (some ⟨0, 10⟩)) ∈ [8#5, 9#5, 10#5, 11#5] ∧ ¬(cell 0).me.pushes 20 ∧ (cell 0).Reaches ((cell 0).addrOf 16 []) 32 .write (devT 0x80) := by
  simp only [State.Canonical, State.Idle, State.Reaches, Thread.pushes]; decide +kernel
theorem test_sredi : runs (.sredi 19 16 [] none) (cell 9) (fun t => t.word (dev 0x80) == 0) = true := by decide +kernel
/-- 1.0 is 2^107 units of 2^(0 - 107); the count stands in bits 63-32. -/
theorem test_sred : runs (.sred 17 16 none []) (cell 0) (fun t => t.word (dev 0x80) == 0x100000000 && t.word (dev 0x98) == 2 ^ 43 && t.word (dev 0x90) == 0) = true := by
  decide +kernel
theorem test_sred_inf : runs (.sred 18 16 none []) (cell 0) (fun t => t.word (dev 0x80) == 0x10000) = true := by decide +kernel
theorem test_sredf : runs (.sredf 20 16 [] none) ((cell 0x100000000).setWord (dev 0x98) (2 ^ 43)) (reg 20 · == 0x3FF0000000000000) = true ∧
    runs (.sredf 20 16 [] none) (cell 0x10000) (reg 20 · == 0x7FF8000000000000) = true := by decide +kernel
theorem test_sredv : runs (.sredv 1 16 (some ⟨0, 10⟩) []) ((cell 0).updMe fun x => { x with vregs := x.vregs.set 1 0x3F8000003F8000003F8000003F800000 })
    (fun t => t.word (dev 0x80) == 0x400000000 && t.word (dev 0x98) == 2 ^ 45) = true := by decide +kernel

/-! ### Address checks, walks, buffers, fences -/

/-- The checks at the edges of their ranges: alignment, 2^48, the last bytes of TCM, a hole, the last bytes of the shared SRAM, an unmapped
page, a walk's leaf. -/
theorem witness_AddressChecksAndWalks :
    let c (va : Word) (n : Nat) (need : Need) := memory.check 0 memory.me.ctx false va n need
    memory.Canonical ∧ memory.bad = [] ∧ c 0x101 8 .read = .trap 3 0x101 ∧ c 0x1000000000000 8 .read = .trap 3 0x1000000000000 ∧
    c 0x1BFF8 8 .write = .ok (Target.window (tcmPa 0 0x1BFF8) 0 false) ∧ c 0x1C000 8 .write = .trap 5 0x1C000 ∧ c 0x100 2 .fetch = .trap 5 0x100 ∧
    c 0xDFFFF8 8 .read = .trap 5 0xDFFFF8 ∧ c 0x800000 8 .read = .ok (Target.window (tcmPa 0 0) 0 false) ∧
    c 0x1FFFFF8 8 .read = .ok (Target.window (spadPa 0 0xFFFFF8) 0 false) ∧ c 0x2000000 8 .read = .trap 5 0x2000000 ∧
    c 0x17FFFFF8 8 .read = .ok (Target.window (sramPa 0 0x7FFFFF8) 0 false) ∧ c 0x18000000 8 .read = .trap 5 0x18000000 ∧
    c 0xFFFFFFF8 8 .read = .trap 5 0xFFFFFFF8 ∧ c 0x100000000 8 .read = .ok (devT 0) ∧ c 0x140000000 8 .read = .trap 4 0x140000000 ∧
    memory.walk 0x10000 0x13FFFFFFF = .leaf 0x4000003F (2 ^ 30) ∧ memory.walk 0x10000 0x140000000 = .absent := by
  simp only [State.Canonical]; decide +kernel
/-- Three and four levels: a pointer at 0x30000, a leaf of 2^21 bytes, and one of 2^16 bytes behind another pointer. -/
theorem witness_walk_deep :
    let s := put State.reset [(0x10000, 0x20001), (0x20020, 0x30001), (0x30000, 0x4000003F), (0x30008, 0x40001), (0x40000, 0x5000001F)]
    s.walk 0x10000 0x1001FFFFF = .leaf 0x4000003F (2 ^ 21) ∧ s.walk 0x10000 0x10020FFFF = .leaf 0x5000001F (2 ^ 16) ∧
    s.walk 0x10000 0x100210000 = .absent := by decide +kernel
/-- An uncorrectable table entry ends a walk, and an access to such a word raises cause 14. -/
theorem test_walk_bad : ({ memory with bad := [(0x20020, true)] } : State).walk 0x10000 0x100000000 = .bad 0x20020 := by decide +kernel
theorem test_ld64_misaligned : runs (.ld64 20 16 none [1] none) memory (fun t => (t.thread 0).scause == 3 && (t.thread 0).saddr == 0x101) = true := by
  decide +kernel

/-- A store of one word of device memory, from slot 0's context. -/
def stored (pa : Nat) (v : Word) : Store := ⟨BitVec.ofNat 64 (pa + 0xC0000000), pa, (bytesOf v.toNat 8).map some, 5, 0, [0], []⟩
/-- The store queue of core 0 holds one store, the write buffer of its cluster another, older one of the same word. -/
def buffered : State := (memory.updCore 0 fun c => { c with q := [stored (dev 0x40) 7] }).updCluster 0 fun c => { c with w := [stored (dev 0x40) 6] }
/-- A read-cache line of that word's 128 bytes. -/
def cached : State := memory.updCluster 0 fun c => { c with lines := [⟨dev 0, List.replicate 128 9, 5, 0x100000000⟩] }

theorem witness_BuffersAndFences : buffered.Canonical ∧ isCtl buffered.cur = false ∧ buffered.waits = [] ∧ buffered.seals = [] ∧ buffered.bad = [] ∧
    orderOf relaxed = 1 ∧ buffered.Reaches (buffered.ea 24 none [] 8) 8 .read (devT 0x40) ∧ ¬buffered.me.pushes 20 ∧
    (buffered.core 0).q = [stored (dev 0x40) 7] ∧ (buffered.cluster 0).w[0]? = some (stored (dev 0x40) 6) ∧ homeDie (dev 0x40) = 0 ∧
    (stored (dev 0x40) 7).saved = [] ∧ (stored (dev 0x40) 7).at (dev 0x40) = some 7 ∧ (stored (dev 0x40) 7).at (dev 0x48) = none ∧
    buffered.guarded (dev 0x40) 8 = false ∧ buffered.chans = [] ∧ buffered.streams = [] ∧ buffered.regions = [] ∧ buffered.codes = [] := by
  simp only [State.Canonical, State.Reaches, Thread.pushes]; decide +kernel
/-- A store whose home is another die's goes to the channel; the route between dies 0 and 1 is open. -/
def afar : State := (memory.updCluster 0 fun c => { c with w := [stored (2 ^ 44 + 0x40) 6] })
theorem witness_channel : homeDie (2 ^ 44 + 0x40) ≠ 0 ∧ (taken (.bd 0 0) afar).routeOpen 0 1 = true ∧
    Table.get [] (taken (.bd 0 0) afar).chans 1 = [.store (stored (2 ^ 44 + 0x40) 6)] := by decide +kernel

theorem test_forward : runs (.ld64 20 24 none [] relaxed) buffered (reg 20 · == 7) = true ∧
    runs (.ld64 20 24 none [] relaxed) (buffered.updCore 0 fun c => { c with q := [] }) (reg 20 · == 6) = true := by decide +kernel
theorem test_qd : runs (.qd 0) buffered (fun t => (t.core 0).q == [] && youngest (dev 0x40) (t.cluster 0).w == some 7 && t.word (dev 0x40) == 41) = true := by
  decide +kernel
theorem test_bd : runs (.bd 0 0) buffered (fun t => t.word (dev 0x40) == 6 && (t.cluster 0).w == [] && (t.core 0).q.length == 1) = true := by decide +kernel
theorem test_nd : runs (.nd 0 1) (taken (.bd 0 0) afar) (fun t => t.word (2 ^ 44 + 0x40) == 6 && t.chans == []) = true := by decide +kernel
theorem test_ce : runs (.ce 0 (dev 0 / 128)) cached (fun t => (t.cluster 0).lines == []) = true := by decide +kernel
theorem test_fence_release : runs (.fence 0 0 (some ⟨3, 2, 0, 0⟩)) buffered (fun t => (t.core 0).q == [] && (t.cluster 0).w == [] && t.word (dev 0x40) == 7 &&
    (t.thread 0).pc == 0x100000002) = true := by decide +kernel
theorem test_fence_acquire : runs (.fence 0 0 (some ⟨2, 2, 0, 0⟩)) cached (fun t => (t.cluster 0).lines == []) = true := by decide +kernel
/-- R210: on an RC page the cluster's TLB holds, a line is filled from its home. -/
def rcTlb : State := memory.updCluster 0 fun c => { c with tlb := [⟨5, 0x100000000, 2 ^ 30, 0x4000007F⟩] }
theorem witness_cf : rcTlb.rcPage 0 (dev 0 / 128 * 128) = some (5, 0x100000000) ∧ rcTlb.lineFree 0 (dev 0 / 128 * 128) = true := by decide +kernel
theorem test_cf : runs (.cf 0 (dev 0 / 128)) rcTlb (fun t => (t.cluster 0).lines.map (fun l => (l.pa, l.bytes[0x40]?)) == [(dev 0, some 41)]) = true := by
  decide +kernel

/-- R232: a frame of the thread's context toward package 3 that is not acknowledged. -/
def unacked : State := { memory with streams := [(12, ⟨1, [⟨⟨false, 0, 1, 3, 0, 0, 0, 0, 5, [], 0⟩, 0, 0⟩], false, 0⟩)] }
theorem witness_Fence_frames : unacked.Canonical ∧ Machine.orderOf (some ⟨0, 0, 0, 0⟩) ≠ 2 ∧ scopeOfM (some ⟨3, 4, 0, 0⟩) = 4 ∧ (unacked.core 0).q = [] ∧
    (unacked.cluster 0).w = [] ∧ unacked.chans = [] ∧ ∃ e ∈ unacked.streams, ∃ f ∈ e.2.unacked, f.frame.cls = 0 ∧ f.frame.ctx = unacked.me.ctx.id.toNat := by
  simp only [State.Canonical]; decide +kernel
theorem test_fence_frames : runs (.fence 0 0 (some ⟨3, 4, 0, 0⟩)) unacked (fun t => (t.thread 0).park.isSome) = true := by decide +kernel

/-! ### Threads and messages -/

/-- A sender: p0 names slot 1 with class bits, l0 to l3 a payload. -/
def sender : State := mapped { one { user with ctx := ctx5, rank := 2, regs := regs [(8, 0x0000000500000001), (9, 0x8003000000000001), (16, 11), (17, 12), (18, 13), (19, 14),
    (24, 0x21), (25, 22), (10, 0x300)] } with pkgid := 1, peers := [(0, ⟨0x8000000000000003, 0⟩)] }
def filled (n : Nat) : State := sender.updCore 0 fun c => { c with mailbox := List.replicate n ⟨2, 0, #v[0, 0, 0, 0], 1⟩ }
def mail (d : Nat) : Msg := ⟨d, 0x77, #v[1, 2, 3, 4], 1⟩
def inbox : State := sender.updCore 0 fun c => { c with mailbox := [mail 1, mail 0, mail 0] }

theorem witness_Messages : sender.Canonical ∧ sender.Idle ∧ (sender.thread 1).park = none ∧ ((sender.r 8).extractLsb' 0 17).toNat = 1 ∧ (sender.r 8).getLsbD 63 = false ∧
    (sender.r 9).getLsbD 63 = true ∧ (sender.peerOf 3).isSome = true ∧ sender.peerOf 4 = none ∧ sender.pkgid ≠ 0x7FFF#15 ∧
    (sender.core 0).sysq = [] ∧ (filled 24).core 0 ≠ sender.core 0 ∧ ((filled 24).core 0).mailbox.length + 8 ≤ 32 ∧
    ¬((filled 25).core 0).mailbox.length + 8 ≤ 32 ∧ ¬(((sender.r 10).extractLsb' 0 17).toNat / 16 % 64 < 48 ∧ ((sender.r 10).extractLsb' 0 17).toNat / 1024 % 16 < 12) := by
  simp only [State.Canonical, State.Idle]; decide +kernel
theorem witness_Receives : inbox.Canonical ∧ (inbox.core 0).mailbox = [mail 1] ++ mail 0 :: [mail 0] ∧ (mail 1).dest ≠ inbox.cur ∧ (20 : Reg).toNat % 4 = 0 ∧
    isCtl inbox.cur = false ∧ (inbox.core 0).sysq = [] ∧ ¬inbox.me.pushes 20 ∧ (mail 1).dest < 2 ^ 56 := by
  simp only [State.Canonical, Thread.pushes]; decide +kernel

/-- The route of a die to itself is open, and so is that to die 7 of a port that is up; messages of kind 0 and 4 and a full mailbox. -/
theorem witness_Messages_routes : sender.routeOpen 0 0 = true ∧ sender.routeOpen 0 7 = true ∧ (mail 1).header.extractLsb' 44 3 = 0#3 ∧
    (header 0 4 0 1).extractLsb' 44 3 = 4#3 ∧ ((filled 32).core 0).mailbox.length = 32 ∧ ((filled 32).core 0).sysq.length < 16 ∧
    (({ sender with threads := [(0, sender.me), (1, { user with park := some ⟨.mailbox, 0, 0, false⟩ })] } : State).thread 1).park = some ⟨.mailbox, 0, 0, false⟩ := by
  decide +kernel
theorem test_send : runs (.send 8 16) sender (fun t => (t.core 0).mailbox == [⟨1, 0x0000000000050000, #v[11, 12, 13, 14], 0⟩] || (t.core 0).mailbox ==
    [⟨1, 0x0000000000050000, #v[11, 12, 13, 14], 1⟩]) = true ∧ runs (.send 8 16) (filled 25) (fun t => (t.thread 0).park.isSome) = true := by decide +kernel
theorem test_send_remote : runs (.send 9 16) sender (fun t => t.sent.map (fun f => (f.srcPkg, f.dstPkg, f.cls, f.words.length, f.bytes)) == [(1, 3, 1, 5, 40)]) = true := by
  decide +kernel
theorem test_send_nowhere : runs (.send 10 16) sender (fun t => (t.thread 0).scause == 5) = true := by decide +kernel
theorem test_recv : runs (.recv 20 0) inbox (fun t => reg 20 t == 1 && reg 23 t == 4 && (t.thread 0).mhdr == 0x77 && (t.core 0).mailbox == [mail 1, mail 0]) = true ∧
    runs (.recv 20 0) sender (fun t => (t.thread 0).park.isSome) = true := by decide +kernel
theorem test_peek : runs (.peek 20 0 (some ⟨21, 0⟩)) inbox (fun t => reg 20 t == 2 && reg 21 t == 0x77) = true := by decide +kernel
theorem test_ms : runs (.ms 0) { sender with outbox := [mail 1] } (fun t => (t.core 0).mailbox == [mail 1] && t.outbox == []) = true := by decide +kernel

theorem witness_Spawns : sender.Canonical ∧ sender.Idle ∧ sender.darkCore 2 = false ∧ (sender.core 2).startq.length < 8 ∧ (sender.cluster 0).qreq = false := by
  simp only [State.Canonical, State.Idle]; decide +kernel
/-- A start queue of eight, a quiesced cluster, a dark core, and a core that does not exist. -/
theorem witness_Spawns_waits : sender.routeOpen 0 0 = true ∧
    8 ≤ ((sender.updCore 2 fun c => { c with startq := List.replicate 8 ⟨9, 1, none, #v[5, 6, 7, 8], ctx5, 0, 0, 3, 1, 1⟩ }).core 2).startq.length ∧
    ((sender.updCluster 0 fun c => { c with qreq := true }).cluster 0).qreq = true ∧
    (one { user with park := some ⟨.backPressure, 0x100000002, 0, false⟩ }).me.park = some ⟨.backPressure, 0x100000002, 0, false⟩ := by decide +kernel
theorem test_spawn : runs (.spawn 24 1 []) sender (fun t => (t.core 2).startq.map (fun m => (m.sender, m.index, m.regs.get 1, m.rank)) == [(0, 1, 22, 2)] &&
    (t.thread 0).pc == 0x100000002) = true := by decide +kernel
theorem test_start_accept : runs (.startMessageAccept 0) (one { user with park := some ⟨.backPressure, 0x100000002, 0, false⟩ }) (fun t => (t.thread 0).park.isNone) = true := by
  decide +kernel

/-- A start message with a handler, a packet for the task in entry 1, and the two in front of core 0. -/
def starter : StartMsg := ⟨9, 1, some 0x100000200, #v[5, 6, 7, 8], ctx5, 0, 0, 3, 1, 1⟩
def handle1 : Word := 0x0007100000000001
def packet (r : BitVec 3) : Packet := ⟨#v[0x100000300, 1, 2, 3, 4, 0, 0, 0], handle1, 9, ctx5, 3, r, none, 1⟩
def pending (q : List StartMsg) (ts : List TaskItem) : State :=
  (put (mapped { State.reset with now := 100 }) [(dev 0x8020, 0x0007000000000101), (dev 0x8028, 0)]).updCore 0 fun c => { c with startq := q, taskq := ts }
theorem witness_SlotStarts : let s := pending [starter] [.packet (packet 0), .packet (packet 1)]
    s.Canonical ∧ goodTid 0 = true ∧ s.coreTakes 0 = true ∧ s.forTadpole 0 = false ∧ (s.freeSlots 0).head? = some 0 ∧ starter.entry = some 0x100000200 ∧
    s.rankOf (.packet (packet 0)) < s.rankOf (.packet (packet 1)) ∧ s.liveEntry ctx5 handle1 = some (dev 0x8020) ∧
    (s.word (dev 0x8020)).extractLsb' 0 3 = 1#3 ∧ ((pending [] []).setWord (dev 0x8020) 0x0007000000000102).word (dev 0x8020) ≠ 0 := by
  simp only [State.Canonical]; decide +kernel
theorem test_start_message : runs (.slotStart 0) (pending [starter] [.packet (packet 0)]) (fun t => (t.thread 0).pc == 0x100000200 && reg 8 t == 5 && reg 11 t == 8 &&
    (t.thread 0).state == .running && (t.core 0).startq == [] && (t.core 0).taskq.length == 1) = true := by decide +kernel
theorem test_start_packet : runs (.slotStart 0) (pending [] [.packet (packet 0), .packet (packet 1)]) (fun t => (t.thread 0).pc == 0x100000300 && reg 8 t == 1 &&
    (t.thread 0).taskh == handle1 && (t.thread 0).rank == 1 && t.word (dev 0x8020) == 0x0007000000000102 && t.word (dev 0x8028) == 0x3000000000000000) = true := by
  decide +kernel

/-- A thread that runs the task in entry 1 and quits with a counter in TCM. -/
def quitter : State := put (mapped (one { user with ctx := ctx5, taskh := handle1, regs := regs [(18, 0x100)] })) [(dev 0x8020, 0x0007000000000002)]
theorem witness_Quits : quitter.Canonical ∧ quitter.Idle ∧ quitter.check 0 ctx5 false 0x100 16 .write = .ok local100 ∧ quitter.jobsOut 0 0 = false ∧
    quitter.me.tsr.adopted = false ∧ quitter.me.leaph.state = .none ∧ quitter.me.unit = none ∧ quitter.outbox = [] ∧
    quitter.liveEntry ctx5 handle1 = some (dev 0x8020) ∧ quitter.check 0 ctx5 false 0x108 16 .write = .trap 3 0x108 := by
  simp only [State.Canonical, State.Idle]; decide +kernel
theorem witness_Quits_more : quitter.me.tsr.leap = false ∧ quitter.me.preempts = [] ∧ quitter.me.migr = none ∧ quitter.me.qbnd = 0 ∧
    (quitter.core 0).sysq = [] ∧ (quitter.pond 0 0).admitted = [] ∧ quitter.guarded (dev 0x8020) 16 = false := by decide +kernel
/-- Jobs of the slot that have not ended: one of the octet's engine. -/
theorem witness_Quits_jobs : (quitter.updEngine 0 0 fun e => { e with queue := [⟨1, ⟨0, 0, ctx5, 0, false, none, false, 0⟩, .mzero, 0, 0, 0, 0, 0, false, none, false, none⟩] }).jobsOut 0 0 = true := by
  decide +kernel
/-- What the device keeps of the helper below the adopted task. -/
def helper : Level := ⟨0x100000000, 0x0007100000000002, none, none, LeapH.zero, false, false, none, false, false⟩
/-- A thread that ends an adopted task. -/
structure EndsAdopted (s : State) (n : Nat) (l : Level) (rest : List Level) (pa : Nat) : Prop where
  levels : (s.thread n).levels = l :: rest
  plain : (s.thread n).leaph.state = .none ∧ (s.thread n).tsr.leap = false ∧ (s.thread n).unit = none ∧ (s.thread n).qbnd = 0 ∧
    (s.thread n).depth = (s.thread n).frames.length ∧ (s.thread n).taskh ≠ 0 ∧ 0 < (s.thread n).adepth ∧ (s.thread n).tsr.adopted = true
  entry : s.liveEntry (s.thread n).ctx (s.thread n).taskh = some pa ∧ s.guarded pa 16 = false
  quiet : (s.core (coreOf n)).q = [] ∧ (s.cluster (clusterOf n)).w = [] ∧ isCtl n = false ∧ s.chans = [] ∧ s.bad = []
theorem witness_Quits_adopted : adopted.Canonical ∧ adopted.Idle ∧ adopted.jobsOut 0 adopted.me.adepth = false ∧ EndsAdopted adopted 0 helper [] (dev 0x8020) := by
  simp only [State.Canonical, State.Idle]
  exact ⟨by decide +kernel, by decide +kernel, by decide +kernel, ⟨by decide +kernel, by decide +kernel, by decide +kernel, by decide +kernel⟩⟩
/-- Its frame lies at WSP - 1,024, and stays where it is whatever memory holds; with WSP beyond the local windows there is none. -/
theorem witness_Quits_frame : adopted.frameLoc 0 (adopted.me.wsp - 1024) .read = some ⟨tcmPa 0 0x1000, 128, 0⟩ ∧ homeDie (tcmPa 0 0x1000) = 0 ∧
    (adopted.word (tcmPa 0 0x1000 + 72)).extractLsb' 0 8 = 0#8 ∧ dev 0x8020 + 16 ≤ tcmPa 0 0x1000 ∧
    ({ adopted with threads := [(0, { adopted.me with wsp := 0x3000000 })] } : State).frameLoc 0 (0x3000000 - 1024) .read = none ∧
    adopted.me.privst.getLsbD 1 = false := by decide +kernel
theorem local_span (s : State) (c : Ctx) (q : Bool) :
    s.checkSpan 0 c q 4096#64 1024 128 .read = .ok (Target.window (tcmPa 0 0x1000) 0 false) := by
  simp [State.checkSpan, State.check, localPa, isCtl, ctlBase, coreOf, tcmPa, Target.window]
theorem frame_stays (s : State) (m : List Host.Cell) :
    ({ s with mem := m } : State).frameLoc 0 0x1000 .read = s.frameLoc 0 0x1000 .read := by
  have p : ∀ c v, ({ s with mem := m } : State).policy c v = s.policy c v := fun _ _ => rfl
  have t : ({ s with mem := m } : State).thread 0 = s.thread 0 := rfl
  simp [State.frameLoc, State.framePa, local_span, p, t]
theorem witness_Quits_kept (x : State) (h : x = { adopted with mem := x.mem }) :
    x.frameLoc 0 (adopted.me.wsp - 1024) .read = adopted.frameLoc 0 (adopted.me.wsp - 1024) .read := by
  rw [h, show adopted.me.wsp - 1024 = 0x1000 by decide +kernel]; exact frame_stays adopted x.mem
/-- The supervisor about to handle a fault of the adopted task. -/
def faulted : State := adopted.updMe fun x => { x with privst := 0xA, tsr := { x.tsr with priv := true }, pc := 0 }
theorem witness_Quits_default : (faulted.thread 0).state = .running ∧ (faulted.thread 0).privst.getLsbD 1 = true ∧ (faulted.thread 0).privst.getLsbD 3 = true ∧
    (faulted.thread 0).privst.getLsbD 0 = false ∧ (faulted.thread 0).tsr.priv = true ∧ (faulted.thread 0).park = none ∧ 0 < (faulted.thread 0).adepth ∧
    (faulted.thread 0).pc = (faulted.thread 0).ctx.stvec &&& 0x0000FFFFFFFFFFFE := by decide +kernel
theorem test_quit_adopted : runs (.quit 0 0) adopted (fun u => (u.thread 0).pc == 0x100000000 && reg 16 u == 0x100 && (u.thread 0).wsp == 0x1000 &&
    (u.thread 0).adepth == 0 && !(u.thread 0).tsr.adopted && u.word (dev 0x8020) == 0x0007000000000304) = true := by decide +kernel
theorem test_default_action : runs (.supervisorTrapDelivery 0) faulted (fun u => (u.thread 0).pc == 0x100000000 && (u.thread 0).adepth == 0 &&
    u.word (dev 0x8020) == 0x0007000000000305 && u.joins == []) = true := by decide +kernel

theorem test_quit : runs (.quit 18 0) quitter (fun t => (t.thread 0).state == .free && t.word (dev 0x8020) == 0x0007000000000004 &&
    t.joins.map (fun j => (j.ctr.addr, j.die)) == [(0x100, 0)]) = true := by decide +kernel
theorem test_quit_misaligned : runs (.quit 18 0) (quitter.updMe fun x => { x with regs := x.regs.set 18 0x108 }) (fun t => (t.thread 0).scause == 3) = true := by
  decide +kernel

/-- A packet in TCM, and an entry of the task table: 0 RUNNING, 1 DONE of generation 7. -/
def tasker : State := put (mapped (one { user with ctx := ctx5, regs := regs [(16, 0x140), (17, 0x20), (18, 0x148), (19, 0x300)] }))
  [(tcmPa 0 0x140, 0x100000300), (tcmPa 0 0x148, 9), (tcmPa 0 0x178, 5), (dev 0x8000, 0x0001000000000002), (dev 0x8020, 0x0007000000000004)]
def local140 : Target := Target.window (tcmPa 0 0x140) 0 false
theorem witness_Tasks : tasker.Canonical ∧ tasker.Idle ∧ tasker.Reaches (tasker.addrOf 16 []) 64 .read local140 ∧ ((tasker.addrOf 16 []).toNat % 64 = 0) ∧
    ((tasker.addrOf 18 []).toNat % 64 ≠ 0) ∧ tasker.darkCore 2 = false ∧ (tasker.core 2).taskq.length < 64 ∧ (tasker.die 0).packets < 8192 ∧
    (tasker.cluster 0).qreq = false ∧ ¬tasker.me.pushes 20 ∧ tasker.taskPa ctx5 0 = some (dev 0x8000) ∧ tasker.taskPa ctx5 1 = some (dev 0x8020) ∧
    (tasker.word (dev 0x8000)).extractLsb' 0 3 ∉ [0#3, 4#3, 5#3] ∧ (tasker.word (dev 0x8020)).extractLsb' 0 3 ∈ [0#3, 4#3, 5#3] ∧ (ctx5.ttsize.extractLsb' 0 25).toNat = 4 := by
  simp only [State.Canonical, State.Idle, State.Reaches, Thread.pushes]; decide +kernel
theorem witness_Tasks_room : tasker.routeOpen 0 0 = true ∧ tasker.guarded (dev 0x8020) 24 = false ∧
    64 ≤ ((tasker.updCore 2 fun c => { c with taskq := List.replicate 64 (.unit 0 0 0) }).core 2).taskq.length ∧
    ((tasker.updCluster 0 fun c => { c with qreq := true }).cluster 0).qreq = true ∧
    ({ ctx5 with ttsize := 1 }.ttsize.extractLsb' 0 25).toNat = 1 := by decide +kernel
theorem test_task_core : runs (.task 20 16 (some ⟨0, 17⟩) []) tasker (fun t => reg 20 t == 0x0008100000000001 && t.word (dev 0x8020) == 0x0008000000000501 &&
    t.word (dev 0x8028) == 0x1000000000000020 && (t.core 2).taskq.length == 1) = true := by decide +kernel
theorem test_task_die : runs (.task 20 16 none []) tasker (fun t => reg 20 t == 0x0008100000000001 && t.word (dev 0x8028) == 0x2000000000000000 &&
    (t.die 0).packets == 1) = true := by decide +kernel
theorem test_task_traps : runs (.task 20 18 none []) tasker (fun t => (t.thread 0).scause == 3) = true ∧
    runs (.task 20 16 (some ⟨0, 19⟩) []) tasker (fun t => (t.thread 0).scause == 5) = true := by decide +kernel

/-- A launch block in TCM: four units, block mode, on the die whose bit of word 2 is set. -/
def launcher (w1 w2 : Word) : State := put (mapped (one { user with ctx := ctx5, regs := regs [(16, 0x140), (18, 0x148)] }))
  [(tcmPa 0 0x140, 0x100000300), (tcmPa 0 0x148, w1), (tcmPa 0 0x150, w2)]
theorem witness_Launches : (launcher 4 0x100).Canonical ∧ (launcher 4 0x100).Idle ∧ (launcher 4 0x100).Reaches ((launcher 4 0x100).addrOf 16 []) 64 .read local140 ∧
    ((launcher 4 0x100).die 0).launchesUsed < 64 ∧ Table.get none ((launcher 4 0x100).die 0).launches 0 = none ∧ (launcher 4 0x100).routeOpen 0 0 = true ∧ ¬(launcher 4 0x100).me.pushes 20 ∧
    (∀ e, e < 8 → ((0x100 : Word).getLsbD (8 + e) = true ↔ e = 0)) ∧ (allDies.filter fun d => (0x8100 : Word).getLsbD (8 + d)) = [0, 7] := by
  simp only [State.Canonical, State.Idle, State.Reaches, Thread.pushes]; decide +kernel
theorem test_launch : runs (.launch 20 16 []) (launcher 4 0x100) (fun t => reg 20 t == 0 && (t.die 0).launches.map (fun e => (e.1, e.2.map (·.toPlace))) ==
    [(0, some [0, 1, 2, 3])] && (t.die 0).fifos.get 0 == [.launch 0]) = true := by decide +kernel
theorem test_launch_codes : runs (.launch 20 16 []) (launcher (2 ^ 32 + 1) 0x100) (reg 20 · == 1) = true ∧
    runs (.launch 20 16 []) (launcher 4 0) (reg 20 · == 2) = true ∧ runs (.launch 20 16 []) (launcher 4 0x103) (reg 20 · == 3) = true := by decide +kernel
/-- R389, Table 6.6: of five units on dies 0 and 7, block mode gives 0 and 1 to the first and the rest to the second; cyclic mode alternates. -/
theorem test_units : (launcher 0 0).unitsOf ctx5 #v[0, 5, 0x8100, 0, 0, 0, 0, 0] 0 = [0, 1] ∧
    (launcher 0 0).unitsOf ctx5 #v[0, 5, 0x8101, 0, 0, 0, 0, 0] 1 = [1, 3] := by decide +kernel
def parkedLaunch : State := one { user with park := some ⟨.launch [0x100000300, 4, 0x300, 0, 0, 0, 0, 0] 0x140 [0, 1] [] 20, 0x100000002, 1, false⟩ }
theorem witness_launchAccept : (parkedLaunch.thread 0).park = some ⟨.launch [0x100000300, 4, 0x300, 0, 0, 0, 0, 0] 0x140 [0, 1] [] 20, 0x100000002, 1, false⟩ := by
  decide +kernel
/-- Its last die, the record of the first held. -/
def heldLaunch : State := (one { user with park := some ⟨.launch [0x100000300, 4, 0x300, 0, 0, 0, 0, 0] 0x140 [1] [(0, 0)] 20, 0x100000002, 1, false⟩ }).updDie 0 fun d =>
  { d with launches := [(0, some ⟨#v[0x100000300, 4, 0x300, 0, 0, 0, 0, 0], 0x140, Ctx.zero, 0, 0, false, [], 0, none, 0, none⟩)] }
theorem witness_launchAccept_last : heldLaunch.Canonical ∧ heldLaunch.routeOpen 0 1 = true ∧ (heldLaunch.die 1).launchesUsed < 64 ∧
    Table.get none (heldLaunch.die 1).launches 0 = none ∧
    Table.get none (heldLaunch.die 0).launches 0 = some ⟨vec8 [0x100000300, 4, 0x300, 0, 0, 0, 0, 0], 0x140, Ctx.zero, 0, 0, false, [], 0, none, 0, none⟩ ∧
    heldLaunch.unitsOf Ctx.zero (vec8 [0x100000300, 4, 0x300, 0, 0, 0, 0, 0]) 0 = [0, 1] ∧
    heldLaunch.unitsOf Ctx.zero (vec8 [0x100000300, 4, 0x300, 0, 0, 0, 0, 0]) 1 = [2, 3] ∧ ¬(heldLaunch.thread 0).pushes 20 := by
  simp only [State.Canonical, Thread.pushes]; decide +kernel
theorem test_launch_accept : runs (.launchAccept 0) parkedLaunch (fun t => (t.die 0).launches.length == 1 && (t.die 1).launches.length == 1 && (t.thread 0).park.isNone) = true := by
  decide +kernel

/-- A packet, or a launch of two units, in the scheduler of die 0. -/
def scheduled (x : SchedItem) : State := (pending [] []).updDie 0 fun d => { d with
  fifos := d.fifos.set 1 [x]
  launches := [(0, some ⟨#v[0, 0, 0, 0, 0, 0, 0, 0], 0, ctx5, 9, 1, true, [0, 1], 2, none, 3, none⟩)] }
theorem witness_SchedulerPlaces : (scheduled (.packet (packet 1))).Canonical ∧ (scheduled (.packet (packet 1))).chooseCore 0 = some 0 ∧
    ((scheduled (.packet (packet 1))).die 0).fifos.get 1 = [.packet (packet 1)] ∧
    (∀ q : Fin 8, 1 < q → ((scheduled (.packet (packet 1))).die 0).fifos.get q = []) ∧
    (scheduled (.packet (packet 1))).liveEntry ctx5 handle1 = some (dev 0x8020) ∧
    ((scheduled (.packet (packet 1))).word (dev 0x8020)).extractLsb' 0 3 = 1#3 := by
  simp only [State.Canonical]; decide +kernel
theorem test_place_packet : runs (.schedulerPlace 0) (scheduled (.packet (packet 1))) (fun t => (t.core 0).taskq == [.packet (packet 1)] &&
    (t.die 0).fifos.get 1 == [] && t.word (dev 0x8028) == 0x1000000000000000) = true := by decide +kernel
theorem test_place_unit : runs (.schedulerPlace 0) (scheduled (.launch 0)) (fun t => (t.core 0).taskq == [.unit 0 0 0] && (t.die 0).fifos.get 1 == [.launch 0]) = true := by
  decide +kernel

/-- A decrement of a counter in device memory. -/
def bound (va : Word) : Bound := ⟨va, 9, ctx5, false, 0⟩
def counted (k packet : Word) : State := put (mapped { State.reset with joins := [⟨0, bound 0x100000060, 0, .pending⟩] })
  [(dev 0x60, k), (dev 0x68, packet), (dev 0x140, 0x100000300), (dev 0x178, 2), (dev 0x8000, 0x0001000000000002)]
theorem witness_JoinDecrements : (counted 1 0x100000140).Canonical ∧ (counted 1 0x100000140).joins[0]? = some ⟨0, bound 0x100000060, 0, .pending⟩ ∧
    (counted 1 0x100000140).reach (bound 0x100000060) 16 .rmw = .home (devT 0x60) ∧ dev 0x60 % 16 = 0 ∧ (counted 1 0x100000140).bad = [] ∧
    (counted 1 0x100000140).seals = [] ∧ (counted 1 0x100000140).waits = [] ∧ (counted 1 0x100000140).guarded (dev 0x60) 8 = false ∧
    (counted 1 0x100000140).full (dev 0x60) = true ∧ (counted 1 0x100000140).held (dev 0x60) = false ∧ ((counted 1 0x100000140).die 0).packets < 8192 ∧
    (counted 1 0x100000140).reach (bound 0x100000140) 64 .read = .home (devT 0x140) ∧ (counted 1 0).word (dev 0x68) = 0 ∧
    (counted 1 0).reach (bound 0x140000000) 16 .rmw = .cause 4 ∧ (hollow (counted 1 0) [dev 0x60]).full (dev 0x60) = false := by
  simp only [State.Canonical]; decide +kernel
/-- The entries of the task table: the first runs a task, the second is free. -/
theorem witness_JoinDecrements_entries : (ctx5.ttsize.extractLsb' 0 25).toNat = 4 ∧ (counted 1 0x100000140).taskPa ctx5 0 = some (dev 0x8000) ∧
    ((counted 1 0x100000140).word (dev 0x8000)).extractLsb' 0 3 ∉ [0#3, 4#3, 5#3] ∧ (counted 1 0x100000140).taskPa ctx5 1 = some (dev 0x8020) ∧
    ((counted 1 0x100000140).word (dev 0x8020)).extractLsb' 0 3 ∈ [0#3, 4#3, 5#3] ∧ (counted 1 0x100000140).guarded (dev 0x8020) 24 = false := by decide +kernel
theorem test_decrement : runs (.joinDecrement 0) (counted 5 0) (fun t => t.word (dev 0x60) == 4 && t.joins == []) = true ∧
    runs (.joinDecrement 0) (counted 0 0) (fun t => t.word (dev 0x60) == 0 && t.joins == [] && (t.die 0).drops == 1) = true := by decide +kernel
theorem test_continuation : runs (.joinDecrement 0) (counted 1 0x100000140) (fun t => t.word (dev 0x60) == 0 && t.joins == [] && (t.die 0).packets == 1 &&
    t.word (dev 0x8020) == 0x0001000000000201) = true := by decide +kernel

/-- A thread with frames of which one is to be spilled to TCM at 0x200, and one whose return waits for a fill. -/
def spiller : State := one { full with wsp := 0x200, ctx := ctx5 }
def filler : State := put (one { user with wsp := 0x280, depth := 1, park := some ⟨.frameFill 0x100000010 .ret, 0x100000002, 0, false⟩ })
  [(tcmPa 0 0x200, 0x55), (tcmPa 0 0x278, 0x66)]
theorem witness_WindowSpillsAndFills : spiller.Canonical ∧ (spiller.thread 0).state = .running ∧ (spiller.thread 0).wsp ≠ 0 ∧ 6 ≤ (spiller.thread 0).placesUsed ∧
    isCtl 0 = false ∧ (spiller.thread 0).spillBad = false ∧ spiller.framePa 0 0x200 128 .write = some (tcmPa 0 0x200) ∧
    (spiller.thread 0).frames = List.replicate 6 (Vector.replicate 16 7) ++ [Vector.replicate 16 7] ∧ (spiller.thread 0).park = none ∧
    filler.Canonical ∧ (filler.thread 0).park = some ⟨.frameFill 0x100000010 .ret, 0x100000002, 0, false⟩ ∧ (filler.thread 0).frames = [] ∧
    0 < (filler.thread 0).depth ∧ (filler.thread 0).wsp ≠ 0 ∧ filler.framePa 0 (0x280 - 128) 128 .read = some (tcmPa 0 0x200) ∧
    homeDie (tcmPa 0 0x200) = 0 ∧ filler.bad = [] ∧ (filler.core 0).q = [] ∧ (filler.cluster 0).w = [] ∧
    ({ spiller with threads := [(0, { full with wsp := 0x140000000, ctx := ctx5 })] } : State).framePa 0 0x140000000 128 .write = none ∧
    (one user).me.wsp = 0 := by
  simp only [State.Canonical]; decide +kernel
/-- A call and a delivery that wait for the place: the spill frees it. -/
def callWaits : State := spiller.updMe fun x => { x with park := some ⟨.framePlace (some 0x100000010), 0x100000002, 0, false⟩ }
def deliveryWaits : State := spiller.updMe fun x => { x with tvec := 0x300, delivery := some ⟨8, 0x100000002, 0, 5⟩, park := some ⟨.framePlace none, 0x100000002, 0, false⟩ }
theorem witness_Spills_waiting : (callWaits.thread 0).park = some ⟨.framePlace (some 0x100000010), 0x100000002, 0, false⟩ ∧ (callWaits.thread 0).delivery = none ∧
    ({ callWaits.thread 0 with frames := List.replicate 6 (Vector.replicate 16 7) } : Thread).placeFree = true ∧
    (deliveryWaits.thread 0).park = some ⟨.framePlace none, 0x100000002, 0, false⟩ ∧ (deliveryWaits.thread 0).delivery = some ⟨8, 0x100000002, 0, 5⟩ ∧
    (deliveryWaits.thread 0).depth < 2 ^ 32 - 1 ∧ (deliveryWaits.thread 0).g6 = none := by decide +kernel
theorem test_spill : runs (.windowSpill 0) spiller (fun t => (t.thread 0).frames.length == 6 && (t.thread 0).wsp == 0x280 && (t.core 0).q.length == 16) = true ∧
    runs (.windowSpill 0) callWaits (fun t => (t.thread 0).pc == 0x100000010 && (t.thread 0).depth == 8 && (t.thread 0).park.isNone && reg 15 t == 0x100000002) = true := by
  decide +kernel
theorem test_fill : runs (.windowFill 0) filler (fun t => reg 8 t == 0x55 && reg 23 t == 0x66 && (t.thread 0).wsp == 0x200 && (t.thread 0).depth == 0 &&
    (t.thread 0).pc == 0x100000010 && (t.thread 0).park.isNone) = true := by decide +kernel

/-- A pending cause 10, and a delivery that waited for a place. -/
def trapped (c : Nat) (t : Thread) : State := one { t with pendTrap := some (c, 3) }
def delivering : State := one { handled with delivery := some ⟨8, 0x100000002, 0, 5⟩, park := some ⟨.framePlace none, 0x100000002, 0, false⟩ }
theorem witness_TrapDeliveries : (trapped 10 handled).Canonical ∧ ((trapped 10 handled).thread 0).pendTrap = some (10, 3) ∧ ((trapped 10 handled).thread 0).tsr.priv = false ∧
    ((trapped 10 handled).thread 0).tvecAddr ≠ 0 ∧ ((trapped 10 handled).thread 0).busy = false ∧ ((trapped 10 { handled with tvec := 0x301 }).thread 0).busy = true ∧
    ((trapped 10 user).thread 0).tvecAddr = 0 ∧ ((trapped 11 user).thread 0).SupervisorReady 11 ∧ delivering.Canonical ∧
    (delivering.thread 0).delivery = some ⟨8, 0x100000002, 0, 5⟩ ∧ (delivering.thread 0).placeFree = true ∧
    ((trapped 10 handled).core 0).hwWait = [] ∧ (∀ q : Fin 32, ((trapped 10 handled).pond 0 q).admitted = []) ∧
    ((one { stuckThread with delivery := some ⟨8, 0x100000002, 0, 5⟩ }).thread 0).placeFree = false := by
  simp only [State.Canonical, Thread.SupervisorReady]; decide +kernel
theorem test_leapcut : runs (.leapcut 0) (trapped 10 handled) (fun t => (t.thread 0).tcause == 10 && (t.thread 0).tinfo == 3 && (t.thread 0).pc == 0x300) = true ∧
    runs (.leapcut 0) (trapped 10 user) (fun t => (t.thread 0).tsr.cut && (t.thread 0).pendTrap.isNone) = true := by decide +kernel
theorem test_leaptrip : runs (.leaptrip 0) (trapped 11 user) (fun t => (t.thread 0).scause == 11 && (t.thread 0).tsr.priv) = true := by decide +kernel
/-- R174: a trap that met the wait of a BAR is held until the BAR completes. -/
theorem test_trap_held : runs (.leaptrip 0) (trapped 11 { user with barWait := some (0x100, 4) }) (fun t => (t.thread 0).pendTrap == some (11, 3)) = true := by
  decide +kernel
theorem test_user_delivery : runs (.userTrapDelivery 0) delivering (fun t => (t.thread 0).pc == 0x300 && (t.thread 0).tcause == 8 && (t.thread 0).park.isNone) = true := by
  decide +kernel
theorem test_supervisor_delivery : runs (.supervisorTrapDelivery 0) (trapped 11 user) (fun t => (t.thread 0).scause == 11) = true := by decide +kernel

/-! ### Matrices -/

/-- A READY tile of 16 rows of 128 bytes at a scratchpad offset. -/
def block (off : Word) (st : BitVec 2) : Tile := ⟨off, 0x0000008000800010, false, 0, 0, false, st⟩
/-- Tiles 0, 1, 2 of the context: D, A and B of FP64 jobs; tile 3 EMPTY. l0 names 0, 1, 2; l1 tile 3; l2 tile 8, past TCOUNT. -/
def tableOf (a b c d : Tile) : Table Tile := [(0, a), (1, b), (2, c), (3, d)]
def namer : Vector Word 32 := regs [(16, 0x000102), (17, 3), (18, 8), (19, 0x1000000), (20, 0x140), (21, 0x000302), (23, 0x30200)]
/-- A machine with those tiles, an engine of octet 0, and rings. -/
def board (t : Thread) (ts : Table Tile) (e : Engine) (rs : Table Ring) : State := { one { t with ctx := ctx5 } with
  clusters := [(0, { ClusterSt.init with tiles := ts, engines := #v[e, .zero, .zero, .zero, .zero, .zero], rings := rs })] }
def tiled (t : Thread) : State := board { t with regs := namer } (tableOf (block 0 2) (block 0x800 2) (block 0x1000 2) (block 0x1800 0)) .zero []
def tiles : State := tiled user
/-- The same with descriptors in TCM at 0x140: a valid one, whose reserved bits are set, and one of 257 rows. -/
def descriptor (w1 : Word) : State := put tiles [(tcmPa 0 0x140, 0xFF00000000002000), (tcmPa 0 0x148, w1)]
theorem witness_Tiles : (descriptor 0xFEFF0080008001FF).Canonical ∧ (descriptor 0).Idle ∧ (descriptor 0).Reaches ((descriptor 0).addrOf 20 []) 32 .read local140 ∧
    ((descriptor 0).r 18).extractLsb' 0 8 = 8 ∧ (ctx5.tiles.extractLsb' 8 9).toNat = 8 ∧ ((descriptor 0).tile 0 3).state = 0 ∧ ((descriptor 0).tile 0 2).state = 2 ∧
    ((descriptor 0).tile 0 2).pins = 0 ∧ ((descriptor 0).cluster 0).copyDrains 2 = false ∧ ¬(descriptor 0).me.pushes 22 := by
  simp only [State.Canonical, State.Idle, State.Reaches, Thread.pushes]; decide +kernel
theorem witness_noneDrains (n : Nat) (p : Parked) (h : (tiles.thread n).park = some p) : p.why ≠ .drain 0 2 := by
  rw [alone tiles _ (by decide +kernel : tiles.threads = [(0, tiles.thread 0)]) n] at h
  split at h
  · rw [show (tiles.thread 0).park = none by decide +kernel] at h
    cases h
  · cases h
theorem test_tdef : runs (.tdef 17 20 []) (descriptor 0x0000008000800020) (fun t => t.tile 0 3 == ⟨0x2000, 0x0000008000800020, false, 0, 0, false, 0⟩) = true ∧
    runs (.tdef 17 20 []) (descriptor 0x0000008000800101) (fun t => (t.thread 0).scause == 15 && (t.thread 0).saddr == 3) = true := by decide +kernel
theorem test_tdef_count : runs (.tdef 18 20 []) tiles (fun t => (t.thread 0).scause == 15 && (t.thread 0).saddr == 8 && (t.thread 0).sinfo.extractLsb' 0 16 == 1#16) = true := by
  decide +kernel
theorem test_tstat : runs (.tstat 22 16) tiles (reg 22 · == 2) = true := by decide +kernel
theorem test_tready : runs (.tready 17 0) tiles (fun t => (t.tile 0 3).state == 2) = true := by decide +kernel
theorem test_tempty : runs (.tempty 16 0) tiles (fun t => (t.tile 0 2).state == 0) = true ∧
    runs (.tempty 16 0) (board { user with regs := namer } (tableOf (block 0 2) (block 0x800 2) { block 0x1000 2 with pins := 1 } (block 0x1800 0)) .zero []) (fun t => (t.tile 0 2).state == 3 && (t.thread 0).park.isSome) = true := by decide +kernel

theorem witness_MatrixJobs : tiles.Canonical ∧ tiles.Idle ∧ octetOf tiles.cur < 6 ∧ goodFmt 0 = true ∧ shapeOf 0 = ⟨0, 16, 128, false, 8⟩ ∧
    (tiles.tile 0 0).state = 2 ∧ (tiles.tile 0 0).pins = 0 ∧ (tiles.tile 0 1).tagv = false ∧ (tiles.engine 0 0).queue.length < 32 ∧ ¬tiles.me.pushes 22 ∧
    ctx5.ringmask.getLsbD 0 = true ∧ cvtCount 0 0 128 = some 16 ∧ bytesFor 0 16 = 128 := by
  simp only [State.Canonical, State.Idle, Thread.pushes]; decide +kernel
/-- R248, R262, R265, R266: the destination is FILLING and latched, the operands are pinned, the slot waits. -/
theorem test_mma : runs (.mma 16 0) tiles (fun t => (t.engine 0 0).queue.map (fun j => (j.id, j.td, j.ta, j.tb)) == [(0, 0, 1, 2)] && (t.tile 0 0).state == 1 &&
    (t.tile 0 0).latch && (t.tile 0 1).pins == 1 && (t.tile 0 2).pins == 1 && (t.thread 0).park.isSome) = true := by decide +kernel
theorem test_mmaq : runs (.mmaq 16 0 (some ⟨22, 0⟩)) tiles (fun t => reg 22 t == 0 && (t.engine 0 0).nextId == 1 && (t.thread 0).park.isNone) = true := by decide +kernel
theorem test_mma_format : runs (.mma 16 0) (tiled { user with fmt := 20 }) (fun t => (t.thread 0).scause == 16) = true := by decide +kernel
theorem test_mma_waits : runs (.mma 16 0) (board { user with regs := namer } (tableOf (block 0 2) (block 0x800 1) (block 0x1000 2) (block 0x1800 0)) .zero []) (fun t => (t.thread 0).park.isSome && (t.engine 0 0).queue == []) = true := by
  decide +kernel
theorem test_mmag : runs (.mmag 16 3) tiles (fun t => (t.engine 0 0).queue.map (·.kind) == [.mmag 0]) = true := by decide +kernel
theorem test_mmagq : runs (.mmagq 16 3 (some ⟨22, 0⟩)) tiles (fun t => reg 22 t == 0 && (t.engine 0 0).queue.length == 1) = true := by decide +kernel
theorem test_mzero : runs (.mzero 17 0) tiles (fun t => (t.tile 0 3).state == 1 && (t.engine 0 0).queue.map (·.kind) == [.mzero]) = true := by decide +kernel
/-- Tile 2 to tile 3, FP64 to FP64. -/
theorem test_mcvt : runs (.mcvt 23 0) tiles (fun t => (t.tile 0 3).state == 1 && (t.tile 0 2).pins == 1 &&
    (t.engine 0 0).queue.map (·.kind) == [.mcvt]) = true := by decide +kernel

/-- A job of the octet, its owner, and an engine that holds jobs, outcomes and a latched D. -/
def owner5 : JobOwner := ⟨0, 0, ctx5, 0, false, none, false, 0⟩
def job (kind : MatKind) (td ta tb : Nat) : MatJob := ⟨4, owner5, kind, td, ta, tb, 0, 0, false, none, false, none⟩
def working : State := put (board user (tableOf { block 0 1 with latch := true } (block 0x800 2) (block 0x1000 2) (block 0x1800 0))
  { Engine.zero with queue := [job .mma 0 1 2], nextId := 5 } []) [(spadPa 0 0x800, 0x4000000000000000), (spadPa 0 0x1000, 0x4008000000000000)]
theorem witness_MatrixRuns : working.Canonical ∧ goodCluster 0 = true ∧ working.engineOn 0 0 = true ∧ working.bad = [] ∧ working.seals = [] ∧ working.regions = [] ∧
    working.codes = [] ∧ working.waits = [] ∧ working.meter = [] ∧ (working.engine 0 0).work = none ∧
    (working.engine 0 0).queue.find? (fun y => !y.run) = some (job .mma 0 1 2) ∧ job .mma 0 1 2 ∈ (working.engine 0 0).chain ∧
    (working.engine 0 0).latched = none ∧ (working.thread 0).pendJob = none ∧ (working.thread 0).park = none := by
  simp only [State.Canonical]; decide +kernel
/-- The same with the job started: reads and writes still to perform, and all of its words read. -/
def work (ph : MatPhase) (rd : List Nat) (got : Table Word) (wr : List JobWrite) : MatWork := ⟨4, ph, rd, got, wr, 0, false, 0, false⟩
def atWork (w : MatWork) : State := working.updEngine 0 0 fun e => { e with queue := [{ job .mma 0 1 2 with run := true }], work := some w }
def wordsRead : Table Word := [(spadPa 0 0x800, 0x4000000000000000), (spadPa 0 0x1000, 0x4008000000000000)]
def oneWrite : JobWrite := ⟨0x1000000, spadPa 0 0, (List.replicate 16 (some 7)), []⟩
theorem witness_MatrixRuns_work : let j := { job .mma 0 1 2 with run := true }
    (atWork (work .reading [spadPa 0 0] [] [])).Canonical ∧ ((atWork (work .reading [spadPa 0 0] [] [])).engine 0 0).queue.find? (fun y => y.id == 4) = some j ∧
    homeDie oneWrite.pa = 0 / 16 ∧ (atWork (work .writing [] [] [oneWrite])).asleep oneWrite.pa = none ∧ j.isMma = true ∧
    (atWork (work .reading [] wordsRead [])).Canonical ∧ (∀ n ∈ [0, 1, 2], ((atWork (work .reading [] wordsRead [])).tile 0 n).valid = true) ∧
    ∀ pa ∈ (List.range 48).flatMap fun r => wordsTouched (spadPa 0 (0x80 * r)) 128, Table.get 0 wordsRead pa = (atWork (work .reading [] wordsRead [])).word pa := by
  simp only [State.Canonical]; decide +kernel
theorem test_matrix_job : runs (.matrixJobRun 0 0) working (fun t => ((t.engine 0 0).work.map fun w => (w.phase, w.reads.length, w.writes.length)) ==
      some (.reading, 768, 0)) = true ∧
    runs (.er 2048 0) (atWork (work .reading [spadPa 0 0x800] [] [])) (fun t => ((t.engine 0 0).work.map fun w => (w.reads, w.got)) ==
      some ([], [(spadPa 0 0x800, 0x4000000000000000)])) = true ∧
    runs (.ew 2048 0) (atWork (work .writing [] [] [oneWrite])) (fun t => t.word (spadPa 0 0) == 0x0707070707070707 &&
      ((t.engine 0 0).work.map (·.writes)) == some []) = true := by decide +kernel
/-- R257: 0 + 2.0 × 3.0 in FP64; and 5 + 2 × 3 − 4 × 5 of INT8. -/
theorem test_dot : dotElem (shapeOf 0) false ⟨[decodeF .fp64 0x4000000000000000], []⟩ ⟨[decodeF .fp64 0x4008000000000000], []⟩ 0 = 0x4018000000000000 ∧
    dotElem (shapeOf 10) false ⟨[.fin false 2 0, .fin true 4 0], []⟩ ⟨[.fin false 3 0, .fin false 5 0], []⟩ 5 = 2 ^ 32 - 9 := by decide +kernel
def latched : State := board user (tableOf { block 0 1 with latch := true } { block 0x800 2 with pins := 1 } { block 0x1000 2 with pins := 1 } (block 0x1800 0))
  { Engine.zero with queue := [{ job .mma 0 1 2 with run := true }], nextId := 5, latched := some (0, List.replicate 256 0) } []
theorem witness_writeback : latched.Canonical ∧ (latched.engine 0 0).chain = [{ job .mma 0 1 2 with run := true }] ∧ (latched.tile 0 0).valid = true ∧
    (latched.engine 0 0).work = none ∧ (latched.engine 0 0).latched = some (0, List.replicate 256 0) ∧ (List.replicate 256 (0 : Word)).length = 256 ∧
    (latched.tile 0 1).state = 2 ∧ (latched.tile 0 2).state = 2 ∧ (latched.thread 0).pendJob = none ∧
    ((latched.updEngine 0 0 fun e => { e with work := some (work .writing [] [] []) }).engine 0 0).work = some (work .writing [] [] []) := by
  simp only [State.Canonical]; decide +kernel
/-- No slot waits for a job, as in every state of these tests: one slot is in use, and it is not parked. -/
theorem witness_alone (n : Nat) (p : Parked) (h : (latched.thread n).park = some p) (q : Park) : p.why ≠ q := by
  rw [alone latched _ (by decide +kernel : latched.threads = [(0, latched.thread 0)]) n] at h
  split at h
  · rw [show (latched.thread 0).park = none by decide +kernel] at h; cases h
  · cases h
/-- The written D: READY, unlatched, the operands unpinned, the outcome kept. -/
theorem test_chain_ends : runs (.chainWriteback 0 0) latched (fun t => ((t.engine 0 0).work.map fun w => (w.phase, w.writes.length)) == some (.writing, 128)) = true ∧
    runs (.chainWriteback 0 0) (latched.updEngine 0 0 fun e => { e with work := some (work .writing [] [] []) }) (fun t => (t.tile 0 0).state == 2 &&
      (t.tile 0 1).pins == 0 && (t.tile 0 2).pins == 0 && (t.engine 0 0).queue == [] && (t.engine 0 0).outcomes == [⟨4, 5, 0⟩]) = true := by decide +kernel
/-- A tile of one row of 16 bytes. -/
def row (off : Word) (st : BitVec 2) (pins : Nat) : Tile := ⟨off, 0x0000001000100001, false, 0, pins, false, st⟩
def zeroing (w : Option MatWork) : State := put (board user (tableOf (block 0 2) (block 0x800 2) (block 0x1000 2) (row 0x1800 1 0))
  { Engine.zero with queue := [{ job .mzero 3 3 3 with run := w.isSome }], nextId := 5, work := w } []) [(spadPa 0 0x1800, 5)]
theorem witness_mzero : (zeroing none).Canonical ∧ ((zeroing none).engine 0 0).queue = [job .mzero 3 3 3] ∧ ((zeroing none).engine 0 0).latched = none ∧
    (job .mzero 3 3 3).run = false ∧ ((zeroing (some (work .writing [] [] []))).engine 0 0).work = some (work .writing [] [] []) := by
  simp only [State.Canonical]; decide +kernel
theorem test_mzero_job : runs (.mzeroJob 0 0) (zeroing none) (fun t => ((t.engine 0 0).work.map fun w => w.writes.map fun x => (x.pa, x.bytes)) ==
      some [(spadPa 0 0x1800, List.replicate 16 (some 0))]) = true ∧
    runs (.mzeroJob 0 0) (zeroing (some (work .writing [] [] []))) (fun t => (t.tile 0 3).state == 2 && (t.engine 0 0).queue == []) = true := by decide +kernel
def converting (sc : Word) (w : Option MatWork) : State := put (board user (tableOf (block 0 2) (block 0x800 2) (row 0x1000 2 1) (row 0x1800 1 0))
  { Engine.zero with queue := [{ job .mcvt 3 2 2 with run := w.isSome, scp := sc }], nextId := 5, work := w } []) [(spadPa 0 0x1000, 0x4008000000000000)]
theorem witness_mcvt : (converting 0 none).Canonical ∧ ((converting 0 none).engine 0 0).queue.find? (fun y => !y.run) = some (job .mcvt 3 2 2) ∧
    ((converting 0 none).tile 0 2).state = 2 ∧ ((converting 0 none).tile 0 3).state = 1 ∧ ((converting 0 none).tile 0 2).valid = true ∧
    (∀ pa ∈ wordsTouched (spadPa 0 0x1000) 16, Table.get 0 [(spadPa 0 0x1000, (0x4008000000000000 : Word))] pa = (converting 0 none).word pa) ∧
    (converting 0x100 (some (work .writing [] [] []))).check 0 ctx5 false 0x100 8 .write = .ok local100 ∧ local100.isReg = false := by
  simp only [State.Canonical]; decide +kernel
/-- The largest magnitude, 3.0 as FP32, enters ring 0; then D is written, and the scale at SPTR. -/
theorem test_mcvt_job : runs (.mcvtJob 0 0) (converting 0 (some (work .reading [] [(spadPa 0 0x1000, 0x4008000000000000)] []))) (fun t =>
      ((t.engine 0 0).work.map fun w => (w.phase, w.writes.length)) == some (.writing, 1) && ((t.ring 0 0).entries.get 0 == 0x40400000) && (t.ring 0 0).count == 1) = true ∧
    runs (.mcvtJob 0 0) (converting 0 (some (work .writing [] [] []))) (fun t => (t.tile 0 3).state == 2 && (t.tile 0 2).pins == 0) = true ∧
    runs (.mcvtJob 0 0) (converting 0x100 (some (work .writing [] [] []))) (fun t => ((t.engine 0 0).work.map fun w => (w.phase, w.writes.map (·.pa))) ==
      some (.scale, [t100])) = true := by decide +kernel

/-- A queued job 4, a finished job 3, and ring 0 with 7 and 9. -/
def asked : State := board { user with regs := regs [(16, 4), (17, 3), (18, 0x100), (19, 1), (20, 0x300), (21, 5)] } []
  { Engine.zero with queue := [job .mzero 3 3 3], nextId := 5, outcomes := [⟨3, 5, 0⟩] } [(0, ⟨#v[7, 9, 0, 0, 0, 0, 0, 0, 0, 0, 0, 0, 0, 0, 0, 0], 2, 2⟩)]
theorem witness_JobStatesAndRings : asked.Canonical ∧ isCtl asked.cur = false ∧ ¬asked.me.pushes 22 ∧ (asked.engine 0 0).queue ≠ [] ∧ asked.me.ctx.ringmask.getLsbD 0 = true ∧
    asked.me.ctx.ringmask.getLsbD 1 = false ∧ (9 : BitVec 32) ∈ (asked.ring 0 0).entries.toList ∧ ((asked.ring 0 0).entries.toList.all fun x => decide (x.toNat ≤ 9)) = true := by
  simp only [State.Canonical, Thread.pushes]; decide +kernel
theorem test_jpoll : runs (.jpoll 22 16) asked (reg 22 · == 1) = true ∧ runs (.jpoll 22 17) asked (reg 22 · == 3) = true ∧ runs (.jpoll 22 19) asked (reg 22 · == 0) = true := by
  decide +kernel
theorem test_jwait : runs (.jwait 22 17) asked (reg 22 · == 3) = true ∧ runs (.jwait 22 16) asked (fun t => (t.thread 0).park.isSome) = true := by decide +kernel
theorem test_whint : runs (.whint 16 17) asked (fun t => (t.thread 0).pc == 0x100000002 && !(t.engine 0 0).waking) = true ∧
    runs (.whint 16 17) (board user [] { Engine.zero with gated := true } []) (fun t => (t.engine 0 0).waking) = true := by decide +kernel
theorem test_amaxr : runs (.amaxr 22 18) asked (reg 22 · == 9) = true ∧ runs (.amaxr 22 20) asked (reg 22 · == 2) = true ∧
    runs (.amaxr 22 19) asked (fun t => (t.thread 0).scause == 16) = true := by decide +kernel
theorem test_amaxc : runs (.amaxc 21 20) asked (fun t => (t.ring 0 0).entries.get 0 == 5 && (t.ring 0 0).count == 1 && (t.ring 0 0).next == 1) = true := by decide +kernel

theorem witness_EngineStates : goodCluster 0 = true ∧ (asked.engine 0 0).ahead.length < 3 ∧ ((asked.engine 0 0).queue.find? fun j => !j.run && !(asked.engine 0 0).ahead.contains j.id) =
    some (job .mzero 3 3 3) ∧ (asked.die 0).engidle.toNat = 0 ∧ ((tiles.updDie 0 fun d => { d with engidle := 100 }).die 0).engidle.toNat ≠ 0 ∧
    (tiles.engine 0 0).queue = [] ∧ (tiles.engine 0 0).idle + 100 ≤ tiles.now ∧ (({ working with clusters := [(0, { ClusterSt.init with railSpad := 1 })] } : State).cluster 0).railSpad ≠ 2 := by decide +kernel
theorem test_run_ahead : runs (.runAhead 0 0) asked (fun t => (t.engine 0 0).ahead == [4]) = true := by decide +kernel
theorem test_idle_gate : runs (.engineIdleGate 0 0) (tiles.updDie 0 fun d => { d with engidle := 100 }) (fun t => (t.engine 0 0).gated) = true ∧
    runs (.engineIdleGate 0 0) tiles (fun t => !(t.engine 0 0).gated) = true := by decide +kernel
theorem test_switch_on : runs (.engineSwitchOn 0 0) (board user [] { Engine.zero with gated := true, waking := true } []) (fun t => !(t.engine 0 0).gated) = true := by decide +kernel

/-! ### Copies -/

/-- A thread whose record stands in TCM at 0x200; l0 holds that address, l1 a handle, l2 a job number. -/
def copier (rec : List (Nat × Word)) : State := put (mapped (one { user with ctx := ctx5, regs := regs [(16, 0x200), (17, 0x0003200000000001), (18, 0)] }))
  (rec.map fun e => (tcmPa 0 0x200 + 8 * e.1, e.2))
def local200 : Target := Target.window (tcmPa 0 0x200) 0 false
/-- Two FP64 elements from 2^32 + 0x40 to 2^32 + 0x60, with a completion message of tag 7. -/
def region : List (Nat × Word) := [(0, 0x100000040), (1, 0x100000060), (2, 0x100000002), (3, 0x100000001), (10, 2 ^ 46), (13, 7)]
def copying : State := put (copier region) [(dev 0x40, 0x1111), (dev 0x48, 0x2222)]
def copyJob : CopyJob := copying.newJob .copy ((List.range 16).map fun i => copying.word (tcmPa 0 0x200 + 8 * i)) [] 0x200
/-- One row of 8 bytes, index 0, from 2^32 + 0x40 to the scratchpad. -/
def gather : List (Nat × Word) := [(0, 0x100000040), (1, 0x100000080), (2, 0x0008000000000001), (3, 8), (4, 0x1000000), (5, 0x0000000800000000)]
/-- A one-point restriction with a table of one class without terms at 2^32 + 0x100. -/
def stencil : List (Nat × Word) := [(0, 0x100000040), (1, 0x100000060), (2, 0x0001000000000001), (8, 0x100000100)]
theorem witness_CopyIssues : copying.Canonical ∧ copying.Idle ∧ ¬copying.me.pushes 20 ∧ copying.Reaches (copying.addrOf 16 []) 128 .read local200 ∧
    copyJob.badRegion = false ∧ copyJob.tileFault copying = none ∧ (copying.footCheck copyJob).1 = 0 ∧ copyJob.isRemote = false ∧ octetOf copying.cur < 6 ∧
    copyJob.dtile = none ∧ copyJob.stile = none ∧ ((copying.cluster 0).copies.get 0).queue = [] ∧
    copying.Reaches (copying.addrOf 16 []) 64 .read local200 ∧ copying.Reaches (0x100000100 + BitVec.ofNat 64 (8 * 33)) 8 .read (devT 0x208) ∧
    (copying.footCheck { copyJob with record := [0x140000000, 0x100000060, 0x100000002, 0x100000001] }).1 ∉ [0, 1] := by
  simp only [State.Canonical, State.Idle, State.Reaches, Thread.pushes]; decide +kernel
theorem test_copy : runs (.copy 20 16 []) copying (fun t => reg 20 t == 0 && ((t.cluster 0).copies.get 0).queue.map (fun j => (j.id, j.addr, j.tag, j.notify)) == [(0, 0x200, 7, true)] &&
    ((t.cluster 0).copies.get 0).nextId == 1) = true := by decide +kernel
theorem test_copy_bad : runs (.copy 20 16 []) (copier (region ++ [(12, 8)])) (reg 20 · == 0x80000) = true ∧
    runs (.copy 20 16 []) (copier (region ++ [(0, 0x140000000)])) (reg 20 · == 0x40000) = true := by decide +kernel
theorem test_sgath : runs (.sgath 20 16 []) (copier gather) (fun t => reg 20 t == 0 && (t.die 0).stack.queue.map (·.kind) == [.gather]) = true ∧
    runs (.sgath 20 16 []) (copier (gather ++ [(3, 4)])) (reg 20 · == 0x80000) = true := by decide +kernel
theorem test_scvt : runs (.scvt 20 16 []) (copier (region ++ [(10, 0x21)])) (fun t => (t.die 0).stack.queue.map (·.kind) == [.convert]) = true := by decide +kernel
theorem test_stxr_stxp : runs (.stxr 20 16 []) ((copier stencil).setWord (dev 0x100) 1) (fun t => ((t.cluster 0).copies.get 0).queue.map (·.kind) == [.restrict]) = true ∧
    runs (.stxp 20 16 []) ((copier stencil).setWord (dev 0x100) 1) (reg 20 · == 0x80000) = true ∧
    runs (.stxp 20 16 []) ((copier stencil).setWord (dev 0x100) 2) (fun t => ((t.cluster 0).copies.get 0).queue.map (·.kind) == [.prolong]) = true := by decide +kernel

/-- The record table: entry 0 FREE of generation 2, entry 1 current with one job in flight. -/
def handles : State := put copying [(dev 0x9000, 0x0002000000000000), (dev 0x9100, 0x0003000000010001), (dev 0x9180, 0x100000040), (dev 0x9188, 0x100000060),
  (dev 0x9190, 0x100000002), (dev 0x9198, 0x100000001)]
theorem witness_RecordHandles : handles.Canonical ∧ handles.Idle ∧ ¬handles.me.pushes 20 ∧ (handles.r 17).extractLsb' 44 4 = 2#4 ∧ ((handles.r 17).extractLsb' 0 44).toNat = 1 ∧
    (ctx5.rtsize.extractLsb' 0 21).toNat = 2 ∧ handles.recEntry ctx5 1 = some (dev 0x9100) ∧ handles.recEntry ctx5 0 = some (dev 0x9000) ∧
    (handles.word (dev 0x9100)).extractLsb' 48 16 = (handles.r 17).extractLsb' 48 16 ∧ (handles.word (dev 0x9100)).extractLsb' 0 2 = 1#2 ∧
    (handles.word (dev 0x9000)).extractLsb' 0 2 = 0#2 ∧ handles.Reaches (handles.addrOf 16 []) 128 .read local200 ∧ isCtl handles.cur = false ∧
    (handles.newJob (.handle (handles.r 17)) (handles.wordsAt (dev 0x9180) 16) [] (handles.r 17)).badRegion = false := by
  simp only [State.Canonical, State.Idle, State.Reaches, Thread.pushes]; decide +kernel
theorem test_hreg : runs (.hreg 20 16 []) handles (fun t => reg 20 t == 0x0002200000000000 && t.word (dev 0x9000) == 0x0002000000000001 && t.word (dev 0x9080) == 0x100000040 &&
    t.word (dev 0x90E8) == 7) = true := by decide +kernel
theorem test_hfree : runs (.hfree 20 17) handles (fun t => reg 20 t == 0 && t.word (dev 0x9100) == 0x0004000000010000) = true ∧
    runs (.hfree 20 16) handles (reg 20 · == 3) = true := by decide +kernel
theorem test_hchk : runs (.hchk 20 17) handles (reg 20 · == 0x10001) = true ∧ runs (.hchk 20 16) handles (reg 20 · == 0) = true := by decide +kernel
theorem test_copyh : runs (.copyh 20 17) handles (fun t => reg 20 t == 0 && t.word (dev 0x9100) == 0x0003000000020001 && ((t.cluster 0).copies.get 0).queue.length == 1) = true ∧
    runs (.copyh 20 16) handles (reg 20 · == 0x30000) = true := by decide +kernel
theorem test_cancel : runs (.cancel 20 18) (taken (.copy 20 16 []) copying) (fun t => reg 20 t == 1 && ((t.cluster 0).copies.get 0).queue.map (·.ended) == [some 7]) = true ∧
    runs (.cancel 20 18) copying (reg 20 · == 0) = true := by decide +kernel

/-- The job of `copying` at the head of its unit, as its steps leave it. -/
def chunked : State := after (execCopyChunk 0 0 (taken (.copy 20 16 []) copying))
def reading : State := after (execEr 0 0 chunked)
def writing : State := after (execEr 0 0 reading)
def wrote : State := after (execEw 0 0 writing)
theorem witness_CopyRuns : let j := ((chunked.copyUnit 0).queue.head?).getD copyJob
    chunked.Canonical ∧ goodUnit 0 = true ∧ (chunked.copyUnit 0).queue = [j] ∧ j.remote = [] ∧ j.isRemote = false ∧ j.begun = true ∧ j.ended = none ∧
    j.reads = [⟨0, 0, 0x100000040, 8⟩, ⟨1, 0, 0x100000048, 8⟩] ∧ j.kind.isRegion = true ∧ j.stile = none ∧ j.dtile = none ∧ chunked.bad = [] ∧
    j.place 0x100000040 = some (devT 0x40) ∧ homeDie (dev 0x40) = unitDie 0 ∧ chunked.asleep (dev 0x40) = none ∧ (devT 0x40).kind ≠ 3 ∧
    chunked.policy j.owner.codeid (devT 0x40) = none ∧ j.cancel = false ∧ j.stop = false ∧ 4096 * j.chunk < j.total ∧ j.plan chunked = [⟨dev 0x60, 16, [0, 1]⟩] := by
  simp only [State.Canonical]; decide +kernel
theorem witness_CopyRuns_writes : let j := ((writing.copyUnit 0).queue.head?).getD copyJob
    writing.Canonical ∧ (writing.copyUnit 0).queue = [j] ∧ j.reads = [] ∧ j.pieces = [⟨dev 0x60, 16, [0, 1]⟩] ∧ j.barrier = 0 ∧ writing.bad = [] ∧ writing.seals = [] ∧
    writing.waits = [] ∧ j.mayWrite ⟨dev 0x60, 16, [0, 1]⟩ = true ∧ (pairWrite (j.pieceBytes writing ⟨dev 0x60, 16, [0, 1]⟩)).part = [] ∧
    (pairWrite (j.pieceBytes writing ⟨dev 0x60, 16, [0, 1]⟩)).pa = dev 0x60 ∧ writing.asleep (dev 0x60) = none ∧ writing.guarded (dev 0x60) 16 = false := by
  simp only [State.Canonical]; decide +kernel
/-- Nothing is to be read or written any more: the last chunk ends the job; one that has been ended leaves. -/
theorem witness_CopyRuns_end : let j := ((wrote.copyUnit 0).queue.head?).getD copyJob
    wrote.Canonical ∧ j.begun = true ∧ j.ended = none ∧ j.reads = [] ∧ j.pieces = [] ∧ j.away = [] ∧ j.flying = 0 ∧ j.barrier = 0 ∧ j.total ≤ 4096 * (j.chunk + 1) ∧
    wrote.meter = [] ∧ j.notify = true ∧ j.owner.saved = none := by
  simp only [State.Canonical]; decide +kernel
theorem test_chunk_reads : ((reading.copyUnit 0).queue.map fun j => (j.reads.length, j.got.length)) = [(1, 1)] ∧
    ((writing.copyUnit 0).queue.map fun j => (j.reads.length, j.got.length)) = [(0, 2)] := by decide +kernel
theorem test_copy_writes : runs (.ew 0 0) writing (fun t => t.word (dev 0x60) == 0x1111 && t.word (dev 0x68) == 0x2222) = true := by decide +kernel
theorem test_copy_end : runs (.copyJobEnd 0 0) wrote (fun t => (t.copyUnit 0).queue == [] && t.outbox.map (fun m => (m.dest, m.header, m.payload.get 0)) ==
    [(0, 0x0000100000070000, 16)]) = true := by decide +kernel
/-- The stack engine of die 0 takes the same steps. -/
def gathering : State := after (execStackJobChunk 0 (taken (.sgath 20 16 []) (put (copier gather) [(dev 0x40, 0x77)])))
theorem test_stack_chunk : ((gathering.copyUnit 1024).queue.map fun j => (j.begun, j.reads)) = [(true, [⟨0, 0, 0x100000080, 4⟩])] := by decide +kernel
theorem test_stack_end : runs (.stackJobEnd 0) ({ State.reset with dies := [(0, { DieSt.init with stack := ⟨[{ copyJob with kind := .convert, ended := some 0, doneB := 16 }], 1⟩ })] })
    (fun t => (t.die 0).stack.queue == [] && t.outbox.map (fun m => (m.dest, m.header)) == [(0, 0x0000300000070000)]) = true := by decide +kernel

/-! ### Reservoirs and power -/

/-- A die with pond 9 of capacity 100; l1 holds 4, l2 a ticket. -/
def ponded (p : Pond) (l : LeapH) : State := { one { user with pondid := 9, rank := 2, leaph := l, regs := regs [(17, 4), (18, 0x0000048000000000), (19, 101)] } with
  dies := [(0, { DieSt.init with ponds := [(9, p)] })] }
def pond0 : Pond := ⟨100, 10, [], [], 0⟩
/-- The issuing slot's own reservation of 4 units, admitted or active with 600 drops spent. -/
def mine (active : Bool) (spent : Nat) : Resv := ⟨0, none, 0, 2, 4, 0, spent, active, []⟩
def held (st : RsvState) (active : Bool) (spent : Nat) : State := ponded { pond0 with admitted := [mine active spent], seq := 1 } ⟨st, 2, 9, 4, spent, 0⟩
/-- The same request waiting, behind none. -/
def queuedUp : State := ponded { pond0 with waiting := [mine false 0], seq := 1 } ⟨.waiting, 2, 9, 4, 0, 0⟩
/-- An admitted request whose reply waits for the leap of slot 1. -/
def cutting : State := ponded { pond0 with admitted := [{ mine false 0 with awaits := [1] }], seq := 1 } ⟨.admitted, 2, 9, 4, 0, 0⟩
def hotPond (st : RsvState) : State := { held st false 0 with dies := [(0, { DieSt.init with ponds := [(9, pond0)], tripped := true })] }
/-- A lower-ranked active leap of slot 1 fills the pond. -/
def displacing : State := { ponded { pond0 with admitted := [⟨1, none, 0, 1, 90, 0, 512, true, []⟩], seq := 1 } LeapH.zero with
  threads := [(0, { user with pondid := 9, rank := 2, regs := regs [(17, 4)] }), (1, { user with leaph := ⟨.active, 1, 9, 90, 512, 0⟩, tsr := ⟨false, false, false, false, false, true⟩ })] }
theorem witness_Leaps : (ponded pond0 LeapH.zero).Canonical ∧ ¬(ponded pond0 LeapH.zero).me.pushes 20 ∧ dieOf 0 < 8 ∧ (ponded pond0 LeapH.zero).pond 0 9 = pond0 ∧
    pond0.cap ≠ 0 ∧ (ponded pond0 LeapH.zero).r 17 ≠ 0 ∧ ((ponded pond0 LeapH.zero).r 17).toNat ≤ pond0.cap ∧ pond0.cap < ((ponded pond0 LeapH.zero).r 19).toNat ∧
    ((ponded pond0 LeapH.zero).die 0).tripped = false ∧ (held .admitted false 0).me.leaph.state = .admitted ∧ (held .active true 600).me.leaph.state = .active ∧
    displacing.Canonical ∧ (displacing.pond 0 9).admitted = [⟨1, none, 0, 1, 90, 0, 512, true, []⟩] ∧ (displacing.thread 1).adepth = 0 ∧
    (((held .admitted false 0).r 18).extractLsb' 50 14).toNat = 0 ∧ (((held .admitted false 0).r 18).extractLsb' 39 8).toNat = 9 ∧ (((held .admitted false 0).r 18).extractLsb' 47 3).toNat = 0 := by
  simp only [State.Canonical, Thread.pushes]; decide +kernel
/-- The other branches: a reply that waits for a cut leap, a waiting request, one displaced, a full queue, a tripped die. -/
theorem witness_Leaps_more : cutting.Canonical ∧ cutting.cutsLeft 0 = true ∧ (held .admitted false 0).cutsLeft 0 = false ∧ queuedUp.Canonical ∧
    queuedUp.me.leaph.state = .waiting ∧ (queuedUp.pond 0 9).waiting = [] ++ mine false 0 :: [] ∧ (queuedUp.pond 0 9).admitted = [] ∧
    (held .displaced false 0).Canonical ∧ (held .displaced false 0).me.leaph.state = .displaced ∧
    (ponded { pond0 with waiting := List.replicate 256 ⟨1, none, 0, 1, 97, 0, 0, false, []⟩ } LeapH.zero).Canonical ∧
    ((hotPond .admitted).die 0).tripped = true ∧ (hotPond .admitted).Canonical ∧ (held .active true 600).me.adepth = 0 ∧
    ((held .active true 600).pond 0 9).admitted = [] ++ mine true 600 :: [] ∧ ((held .active true 600).pond 0 9).waiting = [] := by
  simp only [State.Canonical]; decide +kernel
theorem test_rsv : runs (.rsv 20 17) (ponded pond0 LeapH.zero) (fun t => reg 20 t == 0 && (t.thread 0).leaph.state == .admitted && (t.pond 0 9).admitted.length == 1 &&
    (t.pond 0 9).seq == 1) = true ∧ runs (.rsv 20 19) (ponded pond0 LeapH.zero) (reg 20 · == 4) = true ∧
    runs (.rsv 20 17) (ponded { pond0 with fill := 97 } LeapH.zero) (reg 20 · == 1) = true ∧ runs (.rsv 20 17) (ponded Pond.zero LeapH.zero) (reg 20 · == 3) = true := by
  decide +kernel
theorem test_rsvw : runs (.rsvw 20 17) (ponded pond0 LeapH.zero) (fun t => reg 20 t == 0 && (t.thread 0).leaph.state == .admitted) = true ∧
    runs (.rsvw 20 17) (ponded { pond0 with fill := 97 } LeapH.zero) (fun t => (t.thread 0).park.isSome && (t.pond 0 9).waiting.length == 1) = true := by decide +kernel
theorem test_displacement : runs (.rsvw 20 17) displacing (fun t => (t.thread 1).pendTrap == some (10, 88) && !(t.thread 1).tsr.leap && (t.pond 0 9).fill == 12 &&
    (t.thread 0).leaph.state == .admitted && (t.thread 0).park.isSome) = true := by decide +kernel
theorem test_rsvq : runs (.rsvq 20 17) (ponded { pond0 with fill := 97 } LeapH.zero) (fun t => reg 20 t == 0x0000048000000009 && (t.thread 0).leaph.state == .waiting) = true ∧
    runs (.rsvq 20 17) (ponded pond0 LeapH.zero) (fun t => reg 20 t == 0x0000048000000000) = true := by decide +kernel
theorem test_rwait : runs (.rwait 20 18) (held .admitted false 0) (reg 20 · == 0) = true ∧ runs (.rwait 20 17) (held .admitted false 0) (reg 20 · == 5) = true ∧
    runs (.rwait 20 18) (held .waiting false 0) (fun t => (t.thread 0).park.isSome) = true := by decide +kernel
theorem test_leap : runs (.leap 20 0) (held .admitted false 0) (fun t => reg 20 t == 0 && (t.thread 0).tsr.leap && (t.thread 0).leaph.state == .active) = true ∧
    runs (.leap 20 0) (ponded pond0 LeapH.zero) (reg 20 · == 5) = true := by decide +kernel
/-- R356: 600 drops are three units of 256. -/
theorem test_lend : runs (.lend 20 0) (held .active true 600) (fun t => reg 20 t == 3 && (t.pond 0 9).fill == 13 && (t.pond 0 9).admitted == []) = true ∧
    runs (.lend 20 0) queuedUp (fun t => reg 20 t == 0 && (t.pond 0 9).waiting == [] && (t.thread 0).leaph.state == .none) = true ∧
    runs (.lend 20 0) (ponded pond0 LeapH.zero) (reg 20 · == 0xFFFFFFFFFFFFFFFF) = true := by decide +kernel
theorem test_rqry : runs (.rqry 20 0) (ponded pond0 LeapH.zero) (reg 20 · == 100) = true ∧ runs (.rqry 20 1) (ponded pond0 LeapH.zero) (reg 20 · == 10) = true ∧
    runs (.rqry 20 3) (ponded pond0 LeapH.zero) (reg 20 · == 90) = true ∧ runs (.rqry 20 0) (ponded Pond.zero LeapH.zero) (reg 20 · == 0xFFFFFFFFFFFFFFFF) = true := by
  decide +kernel

def writable : State := ponded { pond0 with admitted := [mine false 0] } LeapH.zero
/-- A pond with a tripping leap of slot 1; RTRIP 100. -/
def hot (tripped : Bool) (sense : Nat) : State := { one user with
  threads := [(0, user), (1, { user with leaph := ⟨.active, 1, 9, 90, 512, 0⟩, tsr := ⟨false, false, false, false, false, true⟩ })]
  dies := [(0, { DieSt.init with ponds := [(9, { pond0 with admitted := [⟨1, none, 0, 1, 90, 0, 512, true, []⟩] })], rtrip := 100, rsense := sense, rhyst := 5, tripped := tripped })] }
/-- Slot 1 parked in RSVW for 97 units; the pond has 10 outstanding. -/
def asking : State := { one user with
  threads := [(0, user), (1, { user with park := some ⟨.pond .rsvw 20 none, 0x100000004, 0, false⟩, leaph := ⟨.waiting, 0, 9, 97, 0, 0⟩ })]
  dies := [(0, { DieSt.init with ponds := [(9, { pond0 with waiting := [⟨1, none, 0, 1, 97, 0, 0, false, []⟩] })] })] }
theorem witness_PondWrites : writable.Canonical ∧ (writable.pond 0 9).waiting = [] ∧ asking.Canonical ∧ ¬(asking.thread 1).pushes 20 ∧
    ((asking.pond 0 9).waiting.map (·.units)) = [97] ∧ (97 : Int) ≤ ((asking.pond 0 9).cap : Int) - ((asking.pond 0 9).fill - 7 : Nat) ∧
    ((hot false 0).die 0).ponds.map (·.1) = [9] ∧ (hot false 99).Canonical ∧ ((hot false 0).pond 0 9).admitted = [⟨1, none, 0, 1, 90, 0, 512, true, []⟩] ∧
    ((hot true 94).die 0).rsense < 95 ∧ (asking.thread 1).leaph.pond = 9 ∧ (asking.thread 1).adepth = 0 ∧ dieOf 1 = 0 ∧
    (∃ q, (asking.thread 1).park = some q ∧ q.why = .pond .rsvw 20 none ∧ q.drops = 0) ∧ ((hot true 99).die 0).tripped = true ∧
    (hot true 99).Canonical ∧ (hot true 99).dies.length = 1 ∧ ((hot false 0).thread 1).adepth = 0 := by
  simp only [State.Canonical, Thread.pushes]; decide +kernel
theorem test_pcap : runs (.pcapWrite 0 9 8192) writable (fun t => (t.pond 0 9).cap == 8192 && (t.pond 0 9).seq == 0) = true ∧
    runs (.pcapWrite 0 9 8193) writable (· == writable) = true ∧ runs (.pcapWrite 0 64 1) writable (· == writable) = true ∧
    runs (.pcapWrite 0 8 8092) writable (fun t => (t.pond 0 8).cap == 8092) = true := by decide +kernel
theorem test_pdrain : runs (.pdrainWrite 0 9 4) writable (fun t => (t.pond 0 9).fill == 6) = true ∧
    runs (.pdrainWrite 0 9 11) writable (fun t => (t.pond 0 9).fill == 0) = true ∧
    runs (.pdrainWrite 0 9 7) asking (fun t => (t.pond 0 9).fill == 3 && (t.pond 0 9).waiting == [] && (t.thread 1).park == none && (t.thread 1).pc == 0x100000004 &&
      (t.thread 1).leaph.state == .admitted) = true := by decide +kernel
theorem test_trip : runs (.rsenseWrite 0 100) (hot false 99) (fun t => (t.die 0).tripped && (t.thread 1).pendTrap == some (11, 88) && (t.pond 0 9).fill == 12) = true ∧
    runs (.rsenseWrite 0 99) (hot false 0) (fun t => !(t.die 0).tripped && (t.thread 1).pendTrap == none) = true ∧
    runs (.rtripWrite 0 99) (hot false 99) (fun t => (t.die 0).tripped) = true ∧
    runs (.rsenseWrite 0 95) (hot true 99) (fun t => (t.die 0).tripped) = true ∧
    runs (.rsenseWrite 0 94) (hot true 99) (fun t => !(t.die 0).tripped) = true ∧ runs (.rtripWrite 0 0) (hot true 99) (fun t => !(t.die 0).tripped) = true := by
  decide +kernel

/-- Cluster 17 of die 1 in a state; its only slot in use is on cluster 0. -/
def powered (c : ClusterSt) : State := { one sup with clusters := [(17, c)] }
def k17 (t : State) : ClusterSt := t.cluster 17
theorem witness_ClusterPower : (powered { ClusterSt.init with qreq := true }).Canonical ∧ goodCluster 17 = true ∧ ((powered ClusterSt.init).thread (ctlBase + 1)).park = none ∧
    (powered { ClusterSt.init with qreq := true }).threads = [(0, sup)] ∧ clusterOf 0 ≠ 17 ∧ ctlBase + 17 / 16 = ctlBase + 1 ∧
    (powered { ClusterSt.init with qreq := true }).cores = [] ∧ goodCluster 12 = false ∧ goodCluster 123 = true ∧ goodCluster 124 = false := by
  simp only [State.Canonical]; decide +kernel
theorem test_quiesce : runs (.cpqreqWrite 17 0x8000000000000000) (powered ClusterSt.init) (fun t => (k17 t).qreq) = true ∧
    runs (.cpqreqWrite 17 0) (powered { ClusterSt.init with qreq := true, quiet := true, gate := true }) (fun t => (k17 t).qreq && (k17 t).evt == 0x10) = true ∧
    runs (.clusterQuiet 17) (powered { ClusterSt.init with qreq := true }) (fun t => (k17 t).quiet && (k17 t).evt == 1) = true ∧
    runs (.clusterQuiet 17) (powered ClusterSt.init) (fun t => !(k17 t).quiet) = true := by decide +kernel
theorem test_retention : runs (.save 17) (powered { ClusterSt.init with quiet := true }) (fun t => (k17 t).ret == .saving) = true ∧
    runs (.save 17) (powered ClusterSt.init) (fun t => (k17 t).refused) = true ∧
    runs (.saveComplete 17) (powered { ClusterSt.init with ret := .saving }) (fun t => (k17 t).ret == .saved && (k17 t).evt == 2 && (k17 t).saved.isSome) = true ∧
    runs (.restore 17) (powered { ClusterSt.init with ret := .saved }) (fun t => (k17 t).ret == .restoring) = true ∧
    runs (.restore 17) (powered { ClusterSt.init with ret := .saved, railSpad := 1 }) (fun t => (k17 t).refused) = true ∧
    runs (.restoreComplete 17) (powered { ClusterSt.init with ret := .restoring, saved := some ⟨[], [], [(1088, 40)], Vector.replicate 3 7, 5⟩ })
      (fun t => (k17 t).divs == Vector.replicate 3 7 && (k17 t).coreOn == 5 && (k17 t).evt == 4 && (k17 t).ret == .none) = true := by decide +kernel
theorem test_clock : runs (.cpcgateWrite 17 1) (powered { ClusterSt.init with quiet := true }) (fun t => (k17 t).gate) = true ∧
    runs (.cpcgateWrite 17 1) (powered ClusterSt.init) (fun t => (k17 t).evt == 0x10) = true ∧
    runs (.cpdivWrite 17 2 0x123456789) (powered ClusterSt.init) (fun t => (k17 t).divs[2] == 0x23456789) = true ∧
    runs (.wakereq 1 1 1) (powered ClusterSt.init) (fun t => (k17 t).wake == 1) = true ∧
    runs (.vexclWindow 17) { powered { ClusterSt.init with askCore := true, askBase := true, leapCore := true, askAt := 1, window := 1 } with now := 512 } (fun t => (k17 t).halved == 2 && (k17 t).evt == 0x100) = true ∧
    runs (.shuntUseChange 17 8 200) (powered ClusterSt.init) (fun t => (k17 t).eshunt[5] == 100) = true ∧
    runs (.pwrinUpdate 0x12345) (powered ClusterSt.init) (fun t => (t.die 0).pwrin == 0x2345) = true := by decide +kernel

theorem witness_RailsAndRows : (powered { ClusterSt.init with moves := [⟨.eng 2, 1, 8, none⟩], railEng := 0x3B, eshunt := #v[0, 91, 0, 0, 0, 0] }).Canonical ∧
    91 ∈ (powered { ClusterSt.init with eshunt := #v[0, 91, 0, 0, 0, 0] }).neighbours 17 (.eng 2) ∧
    90 ∉ (powered ClusterSt.init).neighbours 17 (.eng 2) ∧ (powered ClusterSt.init).now + 1 < 4096 + 100 ∧
    ((List.range 16).flatMap fun i => slotsOf (17 * 64 + 16 * 2 + i)).all (fun t => ((powered ClusterSt.init).thread t).state == .free) = true := by
  simp only [State.Canonical]; decide +kernel
/-- CPRAIL with every field at 2 or 1 but engine 2 off, which needs a quiesced and gated cluster. -/
theorem test_rail : runs (.cprailWrite 17 0x3B022A) (powered ClusterSt.init) (fun t => (k17 t).evt == 0x10 && (k17 t).moves == []) = true ∧
    runs (.cprailWrite 17 0x3B022A) (powered { ClusterSt.init with quiet := true, gate := true }) (fun t => (k17 t).moves == [⟨.eng 2, 0, 1, none⟩]) = true ∧
    runs (.cprailWrite 17 0x3F022A) (powered { ClusterSt.init with railEng := 0x3B }) (fun t => (k17 t).moves == [⟨.eng 2, 1, 8, none⟩]) = true ∧
    runs (.cprailWrite 17 0x3F0229) (powered { ClusterSt.init with quiet := true, gate := true }) (fun t => (k17 t).evt == 0x10) = true := by decide +kernel
theorem test_railStep : runs (.railStep 17) (powered { ClusterSt.init with railEng := 0x3B, moves := [⟨.eng 2, 1, 8, none⟩] }) (fun t => (k17 t).moves == [⟨.eng 2, 1, 7, none⟩]) = true ∧
    runs (.railStep 17) (powered { ClusterSt.init with railEng := 0x3B, moves := [⟨.eng 2, 1, 1, none⟩] }) (fun t => (k17 t).railEng == 0x3F && (k17 t).evt == 8) = true ∧
    runs (.railStep 17) (powered { ClusterSt.init with railEng := 0x3B, moves := [⟨.eng 2, 1, 8, none⟩], shunt := #v[0, 91, 0] })
      (fun t => (k17 t).evt == 0x80 && (k17 t).moves == [⟨.eng 2, 1, 8, some 100⟩]) = true ∧
    runs (.stepWaitExpiry 17) { powered { ClusterSt.init with railEng := 0x3B, moves := [⟨.eng 2, 1, 8, some 100⟩], shunt := #v[0, 91, 0] } with now := 4196 }
      (fun t => (k17 t).moves == [⟨.eng 2, 1, 7, none⟩]) = true ∧
    runs (.stepWaitExpiry 17) { powered { ClusterSt.init with railEng := 0x3B, moves := [⟨.eng 2, 1, 8, some 100⟩], shunt := #v[0, 91, 0] } with now := 4195 }
      (fun t => (k17 t).moves == [⟨.eng 2, 1, 8, some 100⟩]) = true := by decide +kernel
theorem test_coresOn : runs (.cpcoreWrite 17 0xFFFFFFFFFFFE) (powered ClusterSt.init) (fun t => (k17 t).coreOn == 0xFFFFFFFFFFFE) = true ∧
    runs (.cpcoreWrite 17 0xFFFFFFFFFFFF) (powered { ClusterSt.init with coreOn := 0xFFFFFFFFFFFE, shunt := #v[0, 91, 0] })
      (fun t => (k17 t).evt == 0x80 && (k17 t).coreMove == [(0, some 100)]) = true := by decide +kernel
theorem test_phases : runs (.phaseFailure 17 2) (powered ClusterSt.init) (fun t => (k17 t).rows[2] == ⟨1, false, 0, false⟩ && (k17 t).evt == 0x20) = true ∧
    runs (.phaseFailure 17 2) (powered { ClusterSt.init with rows := #v[⟨0, false, 0, false⟩, ⟨0, false, 0, false⟩, ⟨1, false, 0, false⟩] })
      (fun t => (k17 t).rows[2] == ⟨2, true, 100, false⟩ && (k17 t).evt == 0x60) = true ∧
    runs (.darkRowExpiry 17 2) { powered { ClusterSt.init with rows := #v[⟨0, false, 0, false⟩, ⟨0, false, 0, false⟩, ⟨2, true, 100, false⟩] } with now := 16777316 }
      (fun t => (k17 t).rows[2].gone && (k17 t).railRow[2] == 0) = true := by decide +kernel

/-! ### Contexts, halts, migration -/

/-- A supervisor with those tables: l0 names a slot or a context, q0 a record at 2^32 + 0x1000; l2 and l3 the operands of a TLBI. -/
def boss (l0 : Word) (others : List (Nat × Thread)) : State := mapped { one user with threads := (0, { sup with
  ctx := ctx5, regs := regs [(16, l0), (24, 0x100001000), (18, 0x100000000), (19, 0x0000100000000001), (26, 0x0000200000000001)] }) :: others }
def leaf0 : TlbEntry := ⟨5, 0x100000000, 65536, 0x4000003F⟩
def translating : State := { boss 0 [] with
  cores := [(0, { CoreSt.init with utlb := [leaf0, { leaf0 with va := 0x100010000 }] })]
  clusters := [(0, { ClusterSt.init with tlb := [leaf0], icache := [⟨0x40000000, 0x100000000, 0⟩, ⟨0x40000002, 0x100000001, 0⟩] })] }
def flushing (left : List Nat) : State := { translating with tlbis := [⟨0, true, 0, 0x100000000, 1, 7, left⟩] }
theorem witness_Invalidations : translating.Canonical ∧ translating.me.tsr.priv = true ∧ (translating.r 18).toNat < 2 ^ 48 ∧
    ((translating.r 19).extractLsb' 45 3).toNat = 0 ∧ ((translating.r 26).extractLsb' 45 3).toNat = 1 ∧ isCtl translating.cur = false ∧
    translating.ir.getLast? = some 0x0609 ∧ (flushing [0]).Canonical ∧ (flushing [0]).chans = [] ∧ (flushing [0]).waits = [] ∧
    ((flushing [0]).thread 0).park = none ∧ translating.walk 0x10000 0x100000000 = .leaf 0x4000003F 0x40000000 ∧
    translating.walk 0x10000 0x140000000 = .absent ∧ goodTid 0 = true := by
  simp only [State.Canonical]; decide +kernel
theorem test_tlbi : runs (.tlbi 18 19) translating (fun t => (t.core 0).utlb.length == 1 && t.outbox.length == 1 && (t.cluster 0).tlb.length == 1) = true ∧
    runs (.tlbi 18 26) translating (fun t => t.tlbis.map (·.left) == [[0]] && (t.core 0).utlb.length == 2 && t.outbox == []) = true := by decide +kernel
/-- A SCOPE of 4 is reserved. -/
theorem test_tlbi_scope : runs (.tlbi 18 20) { translating with threads := [(0, { translating.me with regs := regs [(20, 0x0000800000000000)] })] }
    (fun t => (t.thread 0).scause == 1 && (t.thread 0).sepc == 0x100000000) = true := by decide +kernel
theorem test_tlbiAck : runs (.tlbiAck 0 0) (flushing [0]) (fun t => (t.cluster 0).tlb == [] && t.tlbis == [] && t.outbox.length == 1) = true ∧
    runs (.tlbiAck 0 0) (flushing [0, 1]) (fun t => t.tlbis.map (·.left) == [[1]] && t.outbox == []) = true ∧
    runs (.tlbiAck 0 2) (flushing [0, 1]) (fun t => (t.cluster 0).tlb.length == 1) = true := by decide +kernel
theorem test_icinv : runs (.icinv 18 19) translating (fun t => (t.thread 0).park.isSome && t.icinvs.length == 1) = true ∧
    runs (.icinvComplete 0) { translating with icinvs := [⟨0, [0], [0], 0x100000000, 1⟩] } (fun t => (t.cluster 0).icache.length == 1 && t.icinvs == []) = true := by
  decide +kernel
/-- A walk of the gigabyte page caches its leaf beside the others. -/
theorem test_tableWalk : runs (.tableWalk 0 0x120000000) translating (fun t => (t.cluster 0).tlb.length == 2 && (t.core 0).utlb.length == 3) = true := by
  decide +kernel

def held16 : State := boss 16 [(16, { user with state := .held, regs := regs [(5, 77)], pc := 0x100000010 })]
theorem witness_ContextRecords : held16.Canonical ∧ held16.me.tsr.priv = true ∧ held16.me.state = .running ∧ ¬held16.me.pushes 20 ∧
    held16.check 0 held16.me.ctx true (held16.addrOf 24 []) 1 .write = .ok (devT 0x1000) ∧ held16.bad = [] ∧ held16.outbox = [] ∧
    held16.Idle ∧ held16.guarded (dev 0x1000) 2048 = false ∧ goodTid 16 = true ∧ (held16.thread 16).state = .held ∧ storageOf (dev 0x1000) = .device ∧
    held16.policy held16.me.codeid (devT 0x1000) = none ∧ (held16.addrOf 24 []).toNat = 0x100001000 ∧ held16.clusters = [] ∧ held16.dies = [] := by
  simp only [State.Canonical, State.Idle, Thread.pushes]; decide +kernel
theorem test_ctxs : runs (.ctxs 16 24 []) (boss 16 []) (reg 16 · == 1) = true ∧ ((held16.saveThread 16 ⟨dev 0x1000, 256, 0⟩).thread 16).state = .free := by decide +kernel
/-- VALID and the TID, the pc and x5 (Table 13.5). -/
theorem test_ctxs_record : let ws := held16.toRecord 16 0 []
    ws.length = 256 ∧ ws[0]? = some 0x8000000000000010 ∧ ws[16]? = some 0x100000010 ∧ ws[41]? = some 77 := by decide +kernel
/-- A saved thread loads again, into the lowest slot of the core it was saved from. -/
theorem test_ctxl : runs (.ctxl 16 24 []) (boss 16 []) (reg 16 · == 0x8000000000000001) = true ∧
    runs (.ctxl 16 24 []) (put (boss 32 []) [(dev 0x1000, 0x8000000000000000), (dev 0x1080, 0x100000010), (dev 0x1148, 77)])
      (fun t => reg 16 t == 32 && (t.thread 32).pc == 0x100000010 && (t.thread 32).regs[5] == 77 && !(t.word (dev 0x1000)).getLsbD 63) = true := by
  decide +kernel

def halting : State := boss 16 [(16, { user with preempts := [0] })]
def halting' : State := { halting with threads := [(0, { halting.me with park := some ⟨.preempt 16 20, 0x100000002, 0, false⟩ }), (16, { user with preempts := [0] })] }
theorem witness_PreemptionAndTeardown : halting.Canonical ∧ halting.me.tsr.priv = true ∧ ¬halting.me.pushes 20 ∧ (halting.r 16).toNat = 16 ∧
    (halting.thread 16).state = .running ∧ halting'.Canonical ∧ (halting'.thread 16).preempts = [0] ∧ (halting'.thread 16).leaph.state = .none ∧
    ((halting'.thread 0).park.map (·.why)) = some (.preempt 16 20) ∧ halting.kills = [] ∧ halting.joins = [] ∧ halting.chans = [] ∧
    goodTid (halting.r 24).toNat = false := by
  simp only [State.Canonical, Thread.pushes]; decide +kernel
theorem test_preempt : runs (.preempt 20 0) halting (reg 20 · == 1) = true ∧ runs (.preempt 24 0) halting (reg 24 · == 2) = true ∧
    runs (.preempt 16 0) halting (fun t => (t.thread 0).park.isSome && (t.thread 16).preempts == [0, 0]) = true ∧
    runs (.preemptHalt 16) halting' (fun t => (t.thread 16).state == .held && (t.thread 0).park == none && reg 20 t == 0 && (t.thread 0).pc == 0x100000002) = true := by
  decide +kernel
theorem test_kill : runs (.kill 20 0) halting (reg 20 · == 1) = true ∧
    runs (.kill 16 0) { boss 6 [] with kills := [⟨6, none, 0⟩] } (reg 16 · == 2) = true ∧
    runs (.killComplete 6) { boss 6 [] with kills := [⟨6, some 0, 0⟩] } (fun t => t.kills == [] && t.outbox.map (·.dest) == [0]) = true := by decide +kernel
theorem test_kill_takes : (match execKill 16 0 (boss 6 [(16, { user with ctx := { Ctx.zero with id := 6 } })]) with
    | .next t => reg 16 t == 0 && (t.thread 16).state == .free && t.kills == [⟨6, some 0, 0⟩]
    | _ => false) = true := by decide +kernel

/-- Slot 16 marked for die 1; packed; and aboard. -/
def moving : State := boss 16 [(16, { user with migr := some (1, some 0) })]
def packed : State := boss 16 [(16, { user with migr := some (1, some 0), park := some ⟨.migration 1 3 true, 0x100000000, 0, false⟩ })]
def aboard : State := { boss 16 [] with dies := [(1, { DieSt.init with arrivals := [⟨user, 16, [⟨16, 9, #v[1, 2, 3, 4], 3⟩], [], 3, some 0⟩] })] }
theorem witness_Migration : moving.Canonical ∧ ¬moving.me.pushes 20 ∧ (moving.r 16).toNat = 16 ∧ dieOf 16 = 0 ∧ (moving.thread 16).migr = some (1, some 0) ∧
    (moving.thread 16).frames = [] ∧ (moving.thread 16).qbnd = 0 ∧ moving.streams = [] ∧ moving.cores = [] ∧ moving.clusters = [] ∧ moving.dies = [] ∧
    packed.Canonical ∧ ((packed.thread 16).park.map (·.why)) = some (.migration 1 3 true) ∧ (packed.die 1).arrivals.length < 64 ∧
    aboard.Canonical ∧ (aboard.die 1).arrivals.length = 1 ∧ aboard.coreTakes 1024 = true ∧ (aboard.freeSlots 1024).head? = some 16384 ∧
    (aboard.cluster 16).qreq = false := by
  simp only [State.Canonical, Thread.pushes]; decide +kernel
theorem test_migr : runs (.migr 24 20) moving (reg 24 · == 2) = true ∧ runs (.migr 16 0) moving (reg 16 · == 3) = true ∧
    runs (.migr 16 19) (boss 16 []) (reg 16 · == 1) = true ∧
    runs (.migr 16 19) (boss 16 [(16, user)]) (fun t => reg 16 t == 0 && (t.thread 16).migr == some (1, some 0)) = true := by decide +kernel
theorem test_migration : runs (.migrationPack 16) moving (fun t => ((t.thread 16).park.map (·.why)) == some (.migration 1 3 true)) = true ∧
    runs (.tadpoleShip 16) packed (fun t => (t.thread 16).state == .free && (t.die 1).arrivals.length == 1) = true ∧
    runs (.tadpolePlace 1) aboard (fun t => (t.thread 16384).tsr.migrated && (t.core 1024).mailbox.length == 1 && t.outbox.map (·.payload[1]) == [16384] &&
      (t.die 1).arrivals == []) = true := by decide +kernel

def haltable : State := boss 16 []
theorem witness_HaltsRequestsErrors : haltable.Canonical ∧ haltable.me.tsr.priv = true ∧ isCtl haltable.cur = false ∧ haltable.Idle ∧
    haltable.Reaches (haltable.addrOf 24 []) 64 .read (devT 0x1000) ∧ ¬haltable.me.pushes 20 ∧ haltable.ramov.length < 16 ∧
    ({ haltable with ramov := [⟨0, ctx5, true, false, [9], 0⟩] } : State).Canonical ∧
    storageOf t100 = .tcm ∧ storageOf 0x9000000000100 = .spad ∧ storageOf 0x8000000000100 = .sram ∧ storageOf (dev 0) = .device := by
  simp only [State.Canonical, State.Idle, State.Reaches, Thread.pushes]; decide +kernel
theorem test_halt : runs (.halt 16 20) haltable (fun t => ((t.thread 0).park.map (·.why)) == some .halt) = true ∧
    runs (.halt 16 20) { haltable with cores := [(0, { CoreSt.init with mailbox := [⟨0, 9, #v[1, 2, 3, 4], 3⟩] })] }
      (fun t => (t.thread 0).park == none && (t.thread 0).pc == 0x100000002) = true := by decide +kernel
theorem test_secm : runs (.secm 20 24 []) haltable (fun t => reg 20 t == 0 && t.ramov.length == 1) = true ∧
    runs (.secm 20 24 []) { haltable with ramov := List.replicate 16 ⟨0, ctx5, true, false, [], 0⟩ } (reg 20 · == 1) = true := by decide +kernel
theorem test_softError : runs (.softError t100 true) haltable (fun t => (t.die 0).cecnt[0] == 1) = true ∧
    runs (.softError (dev 5) false) haltable (fun t => t.uncorrectable (dev 0) && !t.uncorrectable (dev 8)) = true := by decide +kernel
theorem test_unseal : runs (.unseal 0) { haltable with
    threads := [(0, { haltable.me with park := some ⟨.unseal, 0x100000004, 0, false⟩, sinfo := 2 })], seals := [(2 * 4096 + 5, some ⟨0x100000000, 2⟩)] }
    (fun t => t.seals == [] && (t.thread 0).park == none && (t.thread 0).pc == 0x100000004) = true := by decide +kernel

/-! ### Links, host, start, metering -/

def link (x : Link) : State := { one sup with dies := [(0, { DieSt.init with links := #v[x, Link.init, Link.init] })] }
def narrow : Link := { Link.init with good := 60, width := 1, reqWidth := 1 }
theorem witness_LinksAndRegisters : (link narrow).Canonical ∧ ((link narrow).die 0).links[0] = narrow ∧ (link { narrow with reqWidth := 2, busy := true, wpend := true }).Canonical ∧
    ((link { narrow with reqWidth := 2, busy := true, wpend := true }).die 0).links[0].busy = true ∧ (link narrow).dies.length = 1 := by
  simp only [State.Canonical]; decide +kernel
/-- The far end of link 0 of die 0 is link 1 of die 1. -/
theorem test_linkctl : runs (.linkctlWrite 0 0 2) (link narrow) (fun t => (t.die 0).links[0].busy && (t.die 0).links[0].reqWidth == 2 && (t.die 1).links[1].busy) = true ∧
    runs (.linkctlWrite 0 0 0) (link narrow) (fun t => (t.die 0).links[0].ignored && !(t.die 1).links[1].busy) = true ∧
    runs (.linkctlWrite 1 1 2) (link narrow) (fun t => (t.die 1).links[1].ignored) = true := by decide +kernel
theorem test_linkChange : runs (.linkWidthChange 0 0) (link { narrow with reqWidth := 2, busy := true, wpend := true }) (fun t =>
      (t.die 0).links[0] == ⟨2, 0, 2, 0, 60, false, false, true, false, false, false⟩ && (t.die 1).links[1].width == 2) = true ∧
    runs (.linkRateChange 0 0) (link { narrow with reqRate := 1, busy := true, rpend := true }) (fun t => (t.die 0).links[0].rate == 1 && (t.die 0).links[0].rdone) = true := by
  decide +kernel
/-- A width stays while it has its lanes; else the link goes to the widest that it has. -/
theorem test_laneFailure : runs (.laneFailure 0 0) (link { Link.init with good := 64 }) (fun t => (t.die 0).links[0].good == 63 && (t.die 0).links[0].width == 1 &&
      (t.die 0).links[0].wdone) = true ∧
    runs (.laneFailure 0 0) (link { narrow with good := 33 }) (fun t => (t.die 0).links[0].good == 32 && (t.die 0).links[0].width == 1) = true ∧
    runs (.laneFailure 0 0) (link { narrow with good := 32 }) (fun t => (t.die 0).links[0].good == 31 && (t.die 0).links[0].width == 2) = true := by decide +kernel
theorem test_registerWrite : runs (.registerWrite 0xA000000000000 0xFFFFFFFFFFFFFFFF) (link narrow) (fun t => (t.die 0).suptid == 0x800000000001FFFF) = true ∧
    runs (.registerWrite 0xA000700004000 0x12345) (link narrow) (fun t => t.pkgid == 0x2345) = true := by decide +kernel

/-- A module with package number 3 and a context at 5, which knows package 4; a frame of two bytes to 2^32 + 0x106 and a message to slot 16. -/
def packaged : State := { boss 0 [] with pkgid := 3, ctxs := [(5, some ctx5)], peers := [(0, ⟨0x8000000000000004, 0x112233445566⟩)] }
def frame (cls : Nat) (dest : Word) (ws : List Word) : Frame := ⟨false, 0, 4, 3, cls, 0, 0, dest, 5, ws, 2⟩
def write2 : Frame := frame 0 0x100000106 [0xABCD]
/-- The frame taken, its one write still to perform; and two frames of ours not acknowledged. -/
def incoming (n : Nat) : State := { packaged with incoming := [⟨4, 0, 5, [(0x100000106, [0xCD, 0xAB])], n⟩], streams := [(16, ⟨0, [], false, 1⟩)] }
def unacked4 : State := { packaged with streams := [(16, ⟨2, [⟨write2, 50, 3⟩, ⟨{ write2 with seq := 1 }, 60, 3⟩], false, 0⟩)], now := 131122 }
theorem witness_Frames : packaged.Canonical ∧ write2.dstPkg = packaged.pkgid.toNat ∧ packaged.pkgid ≠ 0x7FFF#15 ∧ write2.seq = 0 ∧ write2.cls = 0 ∧ 0 < write2.bytes ∧
    write2.bytes ≤ 8 * write2.words.length ∧ (packaged.peerOf 4).isSome = true ∧ packaged.incoming = [] ∧ goodTid 16 = true ∧
    (packaged.core (coreOf 16)).mailbox.length + 8 ≤ 32 ∧ (packaged.core (coreOf 16)).sysq = [] ∧ packaged.routeOpen 7 (dieOf 16) = true ∧
    (packaged.thread 16).park = none ∧ goodTid 0x1FFFF = false ∧ packaged.clusters = [] := by
  simp only [State.Canonical]; decide +kernel
/-- The same where the page lies on die 7, where the frames arrive. -/
def incoming7 : State := put (incoming 0) [(0x20020, 0x70000000003F)]
theorem witness_Frames_writes : (incoming 0).Canonical ∧ ((incoming 0).incoming.map (·.writes)) = [[(0x100000106, [0xCD, 0xAB])]] ∧
    (Table.get none (incoming 0).ctxs 5).isSome = true ∧ (incoming 0).walk 0x10000 0x100000106 = .leaf 0x4000003F 0x40000000 ∧ homeDie (dev 0x106) = 0 ∧
    storageOf (dev 0x106) = .device ∧ incoming7.Canonical ∧ incoming7.walk 0x10000 0x100000106 = .leaf 0x70000000003F 0x40000000 ∧
    homeDie 0x700000000106 = 7 ∧ storageOf 0x700000000106 = .device ∧ incoming7.guarded 0x700000000106 2 = false ∧ incoming7.seals = [] ∧ incoming7.waits = [] ∧
    incoming7.bad = [] ∧ incoming7.asleep 0x700000000106 = none ∧ (incoming 1).Canonical := by
  simp only [State.Canonical]; decide +kernel
/-- The write goes into the channel, or is performed and its frame acknowledged. -/
theorem test_incoming : runs (.ew 1032 0) (incoming 0) (fun t => t.incoming.map (fun x => (x.writes, x.flying)) == [([], 1)] && t.chans.length == 1 && t.sent == []) = true ∧
    runs (.ew 1032 0) incoming7 (fun t => t.incoming == [] && t.byte 0x700000000107 == 0xAB && t.sent.map (fun f => (f.cls, f.ack)) == [(2, 0)]) = true := by
  decide +kernel
theorem witness_Frames_sent : unacked4.Canonical ∧ (Table.get Stream.zero unacked4.streams (4 * 4 + 0)).unacked.map (·.sentAt) = [50, 60] ∧
    50 + 2 ^ 17 ≤ unacked4.now ∧ unacked4.now < 60 + 2 ^ 17 ∧ (write2.seq : Nat) = 0 := by
  simp only [State.Canonical]; decide +kernel
theorem test_writeFrame : runs (.remoteWriteFrame write2) packaged (fun t => t.incoming == (incoming 0).incoming && t.streams == (incoming 0).streams && t.sent == []) = true ∧
    runs (.remoteWriteFrame { write2 with seq := 1 }) packaged (· == packaged) = true ∧
    runs (.remoteWriteFrame { write2 with dstPkg := 4 }) packaged (· == packaged) = true := by decide +kernel
theorem test_messageFrame : runs (.remoteMessageFrame (frame 1 16 [0x9, 1, 2, 3, 4])) packaged (fun t =>
      (t.core 1).mailbox.map (·.payload) == [#v[1, 2, 3, 4]] && t.sent.map (fun f => (f.mac, f.dstPkg, f.cls, f.ack, f.dest)) == [(0x112233445566, 4, 2, 0, 1)]) = true ∧
    runs (.remoteMessageFrame (frame 1 0x1FFFF [0x9, 1, 2, 3, 4])) packaged (fun t => t.lostmsg == 1) = true := by decide +kernel
theorem test_ack : runs (.acknowledgementFrame 4 0 0) unacked4 (fun t => (Table.get Stream.zero t.streams 16).unacked.length == 1) = true ∧
    runs (.acknowledgementFrame 4 0 7) unacked4 (· == unacked4) = true := by decide +kernel
theorem test_retransmit : runs (.retransmit 4 0) unacked4 (fun t => t.sent.length == 2 && (Table.get Stream.zero t.streams 16).unacked.map (·.tries) == [4, 4]) = true ∧
    runs (.retransmit 4 0) { unacked4 with now := 131121 } (fun t => t.sent.length == 0) = true ∧
    runs (.retransmit 4 0) { unacked4 with streams := [(16, ⟨2, [⟨write2, 50, 64⟩], false, 0⟩), (17, ⟨1, [⟨write2, 50, 3⟩], false, 0⟩)] }
      (fun t => (Table.get Stream.zero t.streams 17).dead && (Table.get Stream.zero t.streams 16).dead && t.lostmsg == 1) = true := by decide +kernel

/-- Stage 7; queue 2 of function 0, which every module has, with two entries for context 5, its base at 0x30000. -/
def hosted (q : HostQueue) : State := { packaged with
  stage := 7
  bar2base := [(0, 0x40000000)]
  queues := [(2, q)] }
def q2 (t : State) : HostQueue := Table.get HostQueue.zero t.queues 2
def q0 : HostQueue := { HostQueue.zero with en := true, ctx := 5, log2n := 1, base := 0x30000 }
/-- An entry whose launch block has a count of 1, MODE 0, die 2; and one of no die. -/
def entered (dies : Word) : State := put (hosted { q0 with tail := 1 }) [(0x30000, 0x100001000), (0x30008, 0x50000), (0x30018, 0x10003), (dev 0x1008, 1), (dev 0x1010, dies)]
/-- A BAR2 write of function 0 in the channel to die 1, and a read after it. -/
def farWrite : ChanItem := .hostWrite 0 3 0x100000000010 [7, 8]
def farHost (items : List ChanItem) : State := { hosted q0 with chans := [(1, items)], hostSeq := 5, hostReads := [⟨4, [], 1⟩] }
theorem witness_HostQueues : (hosted q0).Canonical ∧ 6 ≤ (hosted q0).stage.toNat ∧ (hosted q0).err = 0 ∧ storageOf (dev 0x10) = .device ∧ homeDie (dev 0x10) = 0 ∧
    (hosted q0).guarded (dev 0x10) 3 = false ∧ (hosted q0).waits = [] ∧ (hosted q0).bad = [] ∧ (hosted q0).hostReads = [] ∧ (hosted q0).notifies = [] ∧
    (hosted q0).chans = [] ∧ (q2 (hosted q0)).offer = none ∧ (q2 (hosted q0)).head = (q2 (hosted q0)).tail ∧ (hosted q0).stage.toNat ≠ 5 := by
  simp only [State.Canonical]; decide +kernel
theorem witness_HostQueues_entry : (entered 0x400).Canonical ∧ (q2 (entered 0x400)).head ≠ (q2 (entered 0x400)).tail ∧ storageOf 0x30000 = .device ∧ storageOf 0x3003F = .device ∧
    (entered 0x400).word 0x30000 = 0x100001000 ∧ (Table.get none (entered 0x400).ctxs 5).isSome = true ∧
    (entered 0x400).walk 0x10000 0x100001000 = .leaf 0x4000003F 0x40000000 ∧ ((entered 0x400).word (dev 0x1010)).getLsbD (8 + 2) = true ∧
    (entered 0x400).routeOpen 0 2 = true ∧ ((entered 0x400).die 2).launchesUsed < 64 ∧ Table.get none ((entered 0x400).die 2).launches 0 = none ∧
    (entered 0x400).policy 0 ⟨dev 0x1000, 0, 0, 15, false, false, 0x40000000, 0x40000000⟩ = none := by
  simp only [State.Canonical]; decide +kernel
theorem witness_HostQueues_channel : (farHost [farWrite]).Canonical ∧ (farHost [farWrite]).routeOpen 0 1 = true ∧ Table.get [] (farHost [farWrite]).chans 1 = [farWrite] ∧
    (farHost [farWrite]).guarded 0x100000000010 2 = false ∧ homeDie 0x100000000010 ≠ 0 ∧ (farHost [.hostRead 4 0x100000000010 2]).Canonical ∧
    ((farHost [farWrite]).hostReads.map (·.id)) = [4] := by
  simp only [State.Canonical]; decide +kernel
theorem test_bar2 : runs (.bar2Write 0 0x13 [7, 8]) (hosted q0) (fun t => t.word (dev 0x10) == 0x0000000807000000) = true ∧
    runs (.bar2Read 0 0x41 2) (put (hosted q0) [(dev 0x40, 0x332211)]) (fun t => t.hostOut == [.data [0x22, 0x33]]) = true ∧
    runs (.bar2Read 0 0x41 2) { hosted q0 with stage := 5 } (fun t => t.hostOut == [.unsupported]) = true ∧
    runs (.bar2Read 0 0x41 4097) (hosted q0) (fun t => t.hostOut == [.unsupported]) = true := by decide +kernel
/-- A notify waits for the earlier write of its function, and goes on when that is performed. -/
theorem test_qtail : runs (.qtailWrite 0 2 2) (hosted q0) (fun t => (q2 t).tail == 2 && !(q2 t).ovr) = true ∧
    runs (.qtailWrite 0 2 3) (hosted q0) (fun t => (q2 t).tail == 0 && (q2 t).ovr) = true ∧
    runs (.qtailWrite 0 2 2) (farHost [farWrite]) (fun t => (q2 t).tail == 0 && t.notifies == [⟨2, 2, [3]⟩]) = true ∧
    runs (.nd 0 1) { farHost [farWrite] with notifies := [⟨2, 2, [3]⟩] } (fun t => (q2 t).tail == 2 && t.notifies == [] && t.byte 0x100000000011 == 8) = true := by
  decide +kernel
theorem test_qctl : runs (.qctlWrite 0 2 0x8000000000600010 true) (hosted q0) (fun t => (q2 t).ctx == 6 && (q2 t).log2n == 16 && !(q2 t).badcfg) = true ∧
    runs (.qctlWrite 0 2 0x8000000000600011 true) (hosted q0) (fun t => (q2 t).badcfg && !(q2 t).en) = true ∧
    runs (.qctlWrite 0 2 0x8000000000600010 false) (hosted q0) (fun t => (q2 t).ctx == 5) = true := by decide +kernel
theorem test_hostQueueTake : runs (.hostQueueTake 0 2) (entered 0x400) (fun t => (q2 t).head == 1 && (q2 t).entries == [⟨0, 0x50000, 0, 0x10003, 0, [2]⟩] &&
      (t.die 2).launches.length == 1) = true ∧
    runs (.hostQueueTake 0 2) (entered 0) (fun t => (q2 t).entries == [⟨0, 0x50000, 0, 0x10003, 2, []⟩]) = true ∧
    runs (.hostQueueTake 0 2) (entered 3) (fun t => (q2 t).entries == [⟨0, 0x50000, 0, 0x10003, 3, []⟩]) = true ∧
    runs (.hostQueueTake 0 2) (hosted q0) (· == hosted q0) = true := by decide +kernel
theorem test_hostCompletion : runs (.hostCompletion 0 2) (hosted { q0 with entries := [⟨0, 0x50000, 9, 0x10003, 2, []⟩] })
    (fun t => t.hostOut == [.record 0x50000 9 0x10002, .msix 0 3] && (q2 t).entries == []) = true := by decide +kernel

/-- A module at a stage, with a record at 0x40001000 whose tables map its pc. -/
def staged (n : BitVec 8) : State := { put (mapped State.reset) [(dev 0x1000, 0xE000000000000000), (dev 0x1018, 0x10000), (dev 0x1080, 0x100000000), (dev 0x1160, 77)] with
  stage := n.setWidth _ }
theorem witness_StartSequence : (staged 6).Canonical ∧ (staged 6).stage.toNat = 6 ∧ (staged 6).err = 0 ∧ (staged 6).meter = [] ∧ (staged 6).codes = [] ∧
    (staged 6).bad = [] ∧ storageOf (dev 0x1000) = .device ∧ storageOf (dev 0x17FF) = .device ∧
    (staged 6).walk 0x10000 0x100000000 = .leaf 0x4000003F 0x40000000 ∧ ((staged 6).word (dev 0x1000)).extractLsb' 61 3 = 7 ∧
    (staged 3).stage.toNat = 3 ∧ (staged 4).stage.toNat = 4 := by
  simp only [State.Canonical]; decide +kernel
theorem test_stages : runs .ramovBoot (staged 1) (fun t => t.stage == 2) = true ∧ runs .ramovBoot (staged 2) (fun t => t.stage == 2) = true ∧
    runs .pcieEnumerate (staged 5) (fun t => t.stage == 6) = true ∧ runs (.bootcmdWrite 0 0x40001000) (staged 5) (· == staged 5) = true ∧
    runs (.bootcmdWrite 0 0x40002000) (staged 6) (fun t => t.err == 4) = true ∧
    runs .moduleReset (staged 6) (fun t => t.stage == 1 && t.word (dev 0x1080) == 0x100000000) = true := by decide +kernel

/-- Region 2 metered in bytes, next to its counter's end; slot 0's l0 names it, l1 asks for its state. -/
def region2 : Region := { Region.zero with state := .opened, serial := 8, metBytes := true, bytes := 2 ^ 64 - 5, ckBytes := 2 ^ 64 - 5, seq := 4 }
def metered : State := { boss 2 [] with
  threads := [(0, { (boss 2 []).me with regs := regs [(16, 2), (17, 0x2002), (18, 0x3002), (19, 0x100001000)] })]
  regions := [(2, region2)] }
theorem witness_Metering : metered.Canonical ∧ metered.meter = [] ∧ ¬metered.me.pushes 20 ∧
    metered.check 0 metered.me.ctx true 0x100001000 64 .read = .ok (devT 0x1000) ∧ metered.check 0 metered.me.ctx true 0x140000000 64 .read = .trap 4 0x140000000 ∧
    metered.ramov.length < 16 ∧ Table.wf Region.zero metered.regions = true ∧ region2.bytes < region2.ckBytes + 2 ^ 30 ∧
    ({ metered with meter := [⟨2, false, 9, 0⟩] } : State).Canonical := by
  simp only [State.Canonical, Thread.pushes]; decide +kernel
theorem test_mtrq : runs (.mtrq 20 16) metered (reg 20 · == 0xFFFFFFFFFFFFFFFB) = true ∧ runs (.mtrq 20 17) metered (reg 20 · == 0x101) = true ∧
    runs (.mtrq 20 18) metered (reg 20 · == 0xFFFFFFFFFFFFFFFF) = true := by decide +kernel
theorem test_mtrs : runs (.mtrs 20 19) metered (fun t => reg 20 t == 0 && t.ramov.length == 1) = true ∧
    runs (.mtrs 20 19) { metered with ramov := List.replicate 16 ⟨0, ctx5, true, false, [], 0⟩ } (reg 20 · == 1) = true := by decide +kernel
theorem test_meterApply : runs (.meterApply 0) { metered with meter := [⟨2, false, 9, 0⟩] } (fun t =>
      (Table.get Region.zero t.regions 2).bytes == 2 ^ 64 - 1 && (Table.get Region.zero t.regions 2).satBytes && t.meter == []) = true ∧
    runs (.meterApply 0) { metered with meter := [⟨2, true, 9, 0⟩] } (fun t => Table.get Region.zero t.regions 2 == region2) = true := by decide +kernel
theorem test_powerLoss : runs .powerLoss { metered with regions := [(2, { region2 with bytes := 9, ckBytes := 4 }), (3, { region2 with state := .closed })] } (fun t =>
      (Table.get Region.zero t.regions 2).state == .broken && (Table.get Region.zero t.regions 2).bytes == 4 && (Table.get Region.zero t.regions 3).state == .closed &&
      t.stage == 1) = true := by decide +kernel

/-- A request of context 5 at the head of the queue; region 2 open, region 3 with a record, region 4 closed. -/
def asks (block : List Word) (mtrs : Bool) (addr : Word) : State := { boss 0 [] with
  ramov := [⟨0, ctx5, true, mtrs, block, addr⟩]
  regions := [(2, region2), (3, { region2 with state := .broken, record := [1, 2, 3] }), (4, { region2 with state := .closed })] }
/-- The tables that map the page do not lie in it. -/
theorem kept (s v : State) (pa n va : Nat) (hb : s.bad = []) (hv : v.bad = s.bad) (ho : s.SameOutside v pa n) (hp : 0x30000 ≤ pa)
    (hl : s.word 0x10000 = 0x20001 ∧ s.word 0x20020 = 0x4000003F) (ha : 0x100000000 ≤ va ∧ va < 0x140000000) :
    s.walk 0x10000 va = .leaf 0x4000003F 0x40000000 ∧ v.walk 0x10000 va = s.walk 0x10000 va := by
  have same : ∀ a, a < 0x30000 - 8 → v.word a = s.word a := by
    intro a h
    simp only [State.word, State.readNat]
    rw [ho a (by omega), ho (a + 1) (by omega), ho (a + 1 + 1) (by omega), ho (a + 1 + 1 + 1) (by omega), ho (a + 1 + 1 + 1 + 1) (by omega),
      ho (a + 1 + 1 + 1 + 1 + 1) (by omega), ho (a + 1 + 1 + 1 + 1 + 1 + 1) (by omega), ho (a + 1 + 1 + 1 + 1 + 1 + 1 + 1) (by omega)]
  have walks : ∀ u : State, u.bad = [] → u.word 0x10000 = 0x20001 → u.word 0x20020 = 0x4000003F → u.walk 0x10000 va = .leaf 0x4000003F 0x40000000 := by
    intro u h0 h1 h2
    have e1 : va / 2 ^ 39 % 2 ^ 9 = 0 := by omega
    have e2 : va / 2 ^ 30 % 2 ^ 9 = 4 := by omega
    have n : ∀ a, u.uncorrectable a = false := by intro a; rw [State.uncorrectable, h0]; rfl
    have r : bits (0x10000 : Word) 51 12 * 4096 = 0x10000 := by decide
    have q : bits (0x20001 : Word) 51 8 * 256 = 0x20000 := by decide
    simp only [State.walk, levels, State.walkFrom, r, e1, e2, Nat.mul_zero, Nat.add_zero, n, h1]
    rw [if_neg (by decide), if_neg (by decide), if_neg (by decide), if_neg (by decide), if_neg (by decide), if_pos (by decide), q, if_neg (by decide),
      if_neg (by decide), h2]
    rfl
  have a := walks s hb hl.1 hl.2
  exact ⟨a, (walks v (hv.trans hb) ((same _ (by decide)).trans hl.1) ((same _ (by decide)).trans hl.2)).trans a.symm⟩

/-- Requests for buffers at 2^32 + 0x1000. -/
def close2 : State := asks [0x70002, 2, 0x100001000] false 0
theorem witness_RegionRequests : close2.Canonical ∧ close2.bad = [] ∧ close2.seals = [] ∧ close2.waits = [] ∧
    (Table.get Region.zero close2.regions 2).state = .opened ∧ close2.meter = [] ∧ close2.codes = [] ∧ close2.guarded (dev 0x1000) 1664 = false ∧
    ((Table.get Region.zero close2.regions 3).record.length ≤ 1664) ∧ (asks [0x70001, 0x100001000] false 0).guarded (dev 0x1000) 1536 = false ∧
    (asks [] true 0x100001000).Canonical := by
  simp only [State.Canonical]; decide +kernel
/-- The buffer is where the statement asks it to be. -/
theorem witness_RegionRequests_buffer : storageOf (dev 0x1000) = .device ∧ dev 0x1000 = leafPa 0x4000003F + 0x100001000 % 0x40000000 ∧
    ∀ v : State, v.bad = close2.bad → close2.SameOutside v (dev 0x1000) 1664 →
      close2.walk 0x10000 0x100001000 = .leaf 0x4000003F 0x40000000 ∧ v.walk 0x10000 0x100001000 = close2.walk 0x10000 0x100001000 :=
  ⟨by decide, by decide, fun v h k => kept close2 v _ _ _ (by decide +kernel) h k (by decide) ⟨by decide +kernel, by decide +kernel⟩ (by decide)⟩
def status (t : State) : List (BitVec 16) := t.outbox.map fun m => m.header.extractLsb' 0 16
theorem test_requests_refused : runs .close (asks [0x70002, 5, 0x100001000] false 0) (status · == [1]) = true ∧
    runs .close (asks [0x70002, 4, 0x100001000] false 0) (status · == [7]) = true ∧
    runs .getckpt (asks [0x70007, 2, 0x100001000] false 0) (status · == [7]) = true ∧
    runs .attach (asks [0x70003, 2, 0x100001000] false 0) (status · == [7]) = true ∧
    runs .register (asks [0x70001, 0x100001000] false 0) (status · == [2]) = true ∧
    runs .close (asks [0x70001, 0x100001000] false 0) (fun t => t.ramov.length == 1) = true := by decide +kernel
theorem test_getckpt : runs .getckpt (asks [0x70007, 3, 0x100001000] false 0) (fun t => status t == [0] && t.word (dev 0x1000) == 0x030201) = true := by
  decide +kernel
/-- The closed region's number may be used again, region 0 is the lowest free; a range that region 2 protects is refused. -/
theorem test_register : runs .register (put { asks [0x70001, 0x100001000] false 0 with regions := [(2, { region2 with ranges := [(0x50000000, 65536)] })] }
    [(dev 0x1000, 0x0001000000000001), (dev 0x1100, 0x50000000), (dev 0x1108, 65536)]) (status · == [5]) = true := by decide +kernel
theorem test_mtrs_state : runs .signedRecordRequest (put (asks [] true 0x100001000) [(dev 0x1000, 3)]) (status · == [7]) = true ∧
    runs .signedRecordRequest (put (asks [] true 0x100001000) [(dev 0x1000, 6)]) (status · == [1]) = true := by decide +kernel

/-- FIPS 202's digest of no bytes begins 46 b9 dd 2b 0b a8 8d 13. -/
theorem test_shake256 : (shake256 [])[0]? = some 0x138DA80B2BDDB946 := by decide +kernel

/-- A manifest at 2^32 + 0x1000 of the eight bytes at 2^32; code 1 entered. -/
def manifest : State := put { asks [0x70004, 0x100001000] false 0 with codes := [(1, some ⟨[], 5, 0, 8, []⟩)] }
  [(dev 0x1000, 1), (dev 0x1008, 0x100000000), (dev 0x1010, 8), (dev 0x1018, 0x100000000), (dev 0x1020, 8)]
theorem witness_CodeRequests : manifest.Canonical ∧ manifest.bad = [] ∧ manifest.seals = [] ∧ manifest.waits = [] ∧ manifest.word (dev 0x1000) = 1 ∧
    manifest.word (dev 0x1018) = manifest.word (dev 0x1008) ∧ manifest.word (dev 0x1020) = manifest.word (dev 0x1010) ∧
    (Table.get none manifest.codes 1).isSome = true ∧ Table.get none manifest.codes 2 = none ∧ manifest.guarded (dev 0x2000) 4096 = false ∧
    (bytesOfWords (BitVec.ofNat 64 (manifest.fwlog.length / 10) :: manifest.fwlog)).length ≤ 4096 := by
  simp only [State.Canonical]; decide +kernel
/-- The digest is that of the manifest and of the word with its full/empty bit. -/
theorem test_measure : runs .measure manifest (fun t => status t == [0] && t.outbox.map (·.payload[0]) == [2] &&
    (Table.get none t.codes 2).any fun c => c.digest == shake256 (bytesOfWords [1, 0, 8, 0, 8] ++ List.replicate 8 0 ++ [1])) = true := by decide +kernel
theorem test_unregister : runs .unregister (asks [0x70005, 1] false 0) (status · == [1]) = true ∧
    runs .unregister { asks [0x70005, 1] false 0 with codes := [(1, some ⟨[], 5, 0, 8, []⟩)] } (fun t => status t == [0] && t.codes == []) = true := by decide +kernel
theorem test_getlog : runs .getlog { asks [0x70006, 0x100001000] false 0 with fwlog := [0x107, 2, 3, 4, 5, 6, 7, 8, 9, 1] } (fun t => status t == [0] &&
    t.word (dev 0x1000) == 1 && t.word (dev 0x1008) == 0x107 && t.word (dev 0x1050) == 1) = true := by decide +kernel

/-! ### The whole machine -/

theorem witness_EncodeDecodeRoundTrip : (Instr.ld64 16 9 (some ⟨0, 17⟩) [1] (some ⟨1, 4, 0, 0⟩)).group.isSome = true ∧
    (Instr.ld64 16 9 (some ⟨0, 17⟩) [1] (some ⟨1, 4, 0, 0⟩)).wf = true ∧ decode [0xF804, 0xF413, 0xF040, 0x1A08] = .ok (.task 16 8 (some ⟨0, 19⟩) [64]) 4 := by
  decide +kernel

/-- ADDI l0, 4 of an immediate extension, where slot 0 fetches. -/
def fetching : State := State.reset.withFetchWord 32 0x4204F003
theorem witness_StepRunsDecodedGroup : fetching.Canonical ∧ fetching.turns = [.issue 0 0] ∧ fetching.eligible 0 = true ∧ (fetching.thread 0).park = none ∧
    (fetching.thread 0).preempts = [] ∧ (fetching.thread 0).migr = none ∧ (fetching.thread 0).pendTrap = none ∧ (fetching.thread 0).pendJob = none ∧
    (fetching.thread 0).qbnd = 0 ∧ fetching.bad = [] ∧ (fetching.core 0).fetch = [] ∧ (fetching.cluster 0).icache = [] ∧
    decodeLoop (some (fetching.thread 0).vt) .start [0xF003, 0x4204] = .ok (.addi 16 4 none [3]) 2 ∧ (Instr.addi 16 4 none [3]).group.isSome = true ∧
    isCtl 0 = false ∧ fetching.check 0 (fetching.thread 0).ctx true (fetching.thread 0).pc 2 .fetch = .ok { devT 0 with perms := 7 } ∧ fetching.readNat (dev 0) 2 = 0xF003 ∧
    fetching.check 0 (fetching.thread 0).ctx true ((fetching.thread 0).pc + 2) 2 .fetch = .ok { devT 2 with perms := 7 } ∧ fetching.readNat (dev 2) 2 = 0x4204 := by
  simp only [State.Canonical]; decide +kernel
theorem test_step : (match step fetching with
    | .next t => reg 16 t == 100 && (t.thread 0).pc == 0x100000004
    | _ => false) = true := by decide +kernel
theorem witness_StepKeepsCanonical : fetching.Canonical ∧ ∃ t, step fetching = .next t := by
  refine ⟨by simp only [State.Canonical]; decide +kernel, ?_⟩
  have h : (match step fetching with
    | .next _ => true
    | _ => false) = true := by decide +kernel
  cases e : step fetching with
  | next t => exact ⟨t, rfl⟩
  | fault f => rw [e] at h; exact Bool.noConfusion h
  | refused r => rw [e] at h; exact Bool.noConfusion h
/-- The start sequence runs from reset where the schedule names nothing. -/
theorem test_step_reset : (match step State.reset with
    | .next t => t.stage == 2
    | _ => false) = true := by decide +kernel

end Sys2Proof.Tests
end

/-! # The integer unit of page 7 (O3)

What a scalar group yields, once for each shared form; the words that the arithmetic of Table 3.14 delivers (R97); and the counts, reversals
and fields of R96 and R98, read bit by bit. -/

namespace Sys2Proof.Machine

/-! ### What a scalar group yields -/

section
variable {s : State} {i : Instr} {a b : Reg} {v : Word}

/-- An instruction that ends in the result `v` yields it. -/
theorem yields_of_result {rd : Reg} (h : s.Canonical) (hp : ¬s.me.pushes rd) (e : exec i s = .next (s.result rd v 0)) :
    Yields i s (s.GivesScalar rd v FFlags.none 0) :=
  ⟨_, e, State.result_gives h rd v 0 hp⟩

/-- R81: an instruction of the form A op B yields the word that `op` delivers. -/
theorem yields_of_alu {r : Option RPfx} (h : s.Canonical) (hp : ¬s.me.pushes (destOf a r)) (f : Word → Word → Word)
    (e : exec i s = .next (s.alu f a b r)) (hv : f (s.r a) (s.r b) = v) :
    Yields i s (s.GivesScalar (destOf a r) v FFlags.none 0) :=
  yields_of_result h hp (hv ▸ e)

/-- R96: an instruction of the form op B yields the word that `op` delivers. -/
theorem yields_of_unary (h : s.Canonical) (hp : ¬s.me.pushes a) (f : Word → Word)
    (e : exec i s = .next (s.unary f a b)) (hv : f (s.r b) = v) : Yields i s (s.GivesScalar a v FFlags.none 0) :=
  yields_of_result h hp (hv ▸ e)

end

/-! ### Fields of a control word -/

theorem extractLsb'_six_toNat (y : Word) : (y.extractLsb' 0 6).toNat = y.toNat % 64 := by
  rw [BitVec.extractLsb'_toNat, Nat.shiftRight_zero]

theorem extractLsb'_fieldLen (y : Word) : (y.extractLsb' 6 7).toNat = fieldLen y := by
  rw [BitVec.extractLsb'_toNat, Nat.shiftRight_eq_div_pow]; rfl

/-! ### Products, quotients and remainders -/

/-- The high half of the signed product depends on the product modulo 2^128 alone. -/
theorem mulh_eq_extractLsb' (x y : Word) :
    BitVec.ofInt 64 (x.toInt * y.toInt / 2 ^ 64) = (x.signExtend 128 * y.signExtend 128).extractLsb' 64 64 := by
  have hprod : x.signExtend 128 * y.signExtend 128 = BitVec.ofInt 128 (x.toInt * y.toInt) := by
    rw [BitVec.ofInt_mul, BitVec.signExtend, BitVec.signExtend]
  apply BitVec.eq_of_toNat_eq
  rw [hprod, BitVec.extractLsb'_toNat, BitVec.toNat_ofInt, BitVec.toNat_ofInt, Nat.shiftRight_eq_div_pow]
  generalize x.toInt * y.toInt = p
  omega

theorem mulhu_eq_extractLsb' (x y : Word) :
    BitVec.ofNat 64 (x.toNat * y.toNat / 2 ^ 64) = (x.setWidth 128 * y.setWidth 128).extractLsb' 64 64 := by
  have hlt : x.toNat * y.toNat < 2 ^ 128 := calc
    x.toNat * y.toNat < 2 ^ 64 * 2 ^ 64 := Nat.mul_lt_mul'' x.isLt y.isLt
    _ = 2 ^ 128 := by decide
  have hprod : (x.setWidth 128 * y.setWidth 128).toNat = x.toNat * y.toNat := by
    rw [BitVec.toNat_mul, BitVec.toNat_setWidth_of_le (by decide), BitVec.toNat_setWidth_of_le (by decide), Nat.mod_eq_of_lt hlt]
  apply BitVec.eq_of_toNat_eq
  rw [BitVec.extractLsb'_toNat, hprod, BitVec.toNat_ofNat, Nat.shiftRight_eq_div_pow]

/-- The quotient truncated toward zero; -2^63 / -1 wraps. -/
theorem ofInt_tdiv_eq_sdiv (x y : Word) : BitVec.ofInt 64 (x.toInt.tdiv y.toInt) = x.sdiv y :=
  BitVec.eq_of_toInt_eq (by rw [BitVec.toInt_ofInt, BitVec.toInt_sdiv])

/-- R97: DIV. -/
theorem divSigned_eq (x y : Word) : divSigned x y = if y = 0 then BitVec.allOnes 64 else x.sdiv y := by
  rw [divSigned, ofInt_tdiv_eq_sdiv]

/-- R97: REM, which has the sign of the dividend since the quotient is truncated. -/
theorem remSigned_eq (x y : Word) : remSigned x y = if y = 0 then x else x - x.sdiv y * y := by
  have hsum : BitVec.ofInt 64 (x.toInt.tmod y.toInt) + x.sdiv y * y = x := by
    calc BitVec.ofInt 64 (x.toInt.tmod y.toInt) + x.sdiv y * y
        = BitVec.ofInt 64 (x.toInt.tmod y.toInt + x.toInt.tdiv y.toInt * y.toInt) := by
          rw [BitVec.ofInt_add, BitVec.ofInt_mul, ofInt_tdiv_eq_sdiv, BitVec.ofInt_toInt]
      _ = x := by rw [Int.tmod_add_tdiv_mul, BitVec.ofInt_toInt]
  rw [remSigned, ← BitVec.sub_eq_iff_eq_add.mpr hsum.symm]

theorem ofNat_mod_eq_sub (x y : Word) : BitVec.ofNat 64 (x.toNat % y.toNat) = x - x / y * y := by
  have hsum : BitVec.ofNat 64 (x.toNat % y.toNat) + x / y * y = x := by
    calc BitVec.ofNat 64 (x.toNat % y.toNat) + x / y * y
        = BitVec.ofNat 64 (x.toNat % y.toNat + x.toNat / y.toNat * y.toNat) := by
          rw [BitVec.ofNat_add, BitVec.ofNat_mul, BitVec.udiv_def, BitVec.ofNat_toNat, BitVec.setWidth_eq]
      _ = x := by rw [Nat.mod_add_div', BitVec.ofNat_toNat, BitVec.setWidth_eq]
  exact (BitVec.sub_eq_iff_eq_add.mpr hsum.symm).symm

/-! ### Minima, maxima and rotations -/

theorem minu_eq (x y : Word) : (if y.ult x then y else x) = if x.toNat ≤ y.toNat then x else y := by
  simp only [BitVec.ult, decide_eq_true_eq, ← Nat.not_lt, ite_not]

theorem maxu_eq (x y : Word) : (if x.ult y then y else x) = if x.toNat ≤ y.toNat then y else x := by
  simp only [BitVec.ult, decide_eq_true_eq]
  rcases Nat.lt_trichotomy x.toNat y.toNat with hlt | heq | hgt
  · rw [if_pos hlt, if_pos (Nat.le_of_lt hlt)]
  · rw [BitVec.eq_of_toNat_eq heq, ite_self, ite_self]
  · rw [if_neg (Nat.lt_asymm hgt), if_neg (Nat.not_le_of_lt hgt)]

theorem rotateLeft_amount (x y : Word) : x.rotateLeft (amount y) =
    (x <<< (y.extractLsb' 0 6).toNat) ||| (x >>> (64 - (y.extractLsb' 0 6).toNat)) := by
  rw [BitVec.rotateLeft_def, extractLsb'_six_toNat, amount, Nat.mod_mod]

theorem rotateRight_amount (x y : Word) : x.rotateRight (amount y) =
    (x >>> (y.extractLsb' 0 6).toNat) ||| (x <<< (64 - (y.extractLsb' 0 6).toNat)) := by
  rw [BitVec.rotateRight_def, extractLsb'_six_toNat, amount, Nat.mod_mod]

/-! ### Reversals

BREV and BSWAP reverse the digits of a word in base 2 and in base 256; one fact about digits serves both. -/

/-- The lowest `n` digits of `v` in base `B`, reversed. -/
def reverseDigits (B v : Nat) : Nat → Nat
  | 0 => 0
  | n + 1 => v % B * B ^ n + reverseDigits B (v / B) n

theorem reverseBits_eq_reverseDigits (v n : Nat) : reverseBits v n = reverseDigits 2 v n := by
  induction n generalizing v with
  | zero => rfl
  | succ n ih => rw [reverseBits, reverseDigits, ih]

theorem reverseBytes_eq_reverseDigits (v n : Nat) : reverseBytes v n = reverseDigits 256 v n := by
  induction n generalizing v with
  | zero => rfl
  | succ n ih => rw [reverseBytes, reverseDigits, ih]

theorem reverseDigits_lt {B : Nat} (hB : 0 < B) (v n : Nat) : reverseDigits B v n < B ^ n := by
  induction n generalizing v with
  | zero => exact Nat.one_pos
  | succ n ih =>
    calc v % B * B ^ n + reverseDigits B (v / B) n
        < v % B * B ^ n + B ^ n := Nat.add_lt_add_left (ih _) _
      _ = (v % B + 1) * B ^ n := (Nat.succ_mul _ _).symm
      _ ≤ B * B ^ n := Nat.mul_le_mul_right _ (Nat.mod_lt v hB)
      _ = B ^ (n + 1) := (Nat.pow_succ').symm

/-- Digit `i` of the reversal is digit `n - 1 - i`. -/
theorem reverseDigits_digit {B : Nat} (hB : 0 < B) (v n i : Nat) (hi : i < n) :
    reverseDigits B v n / B ^ i % B = v / B ^ (n - 1 - i) % B := by
  induction n generalizing v with
  | zero => exact absurd hi (Nat.not_lt_zero i)
  | succ n ih =>
    rw [reverseDigits]
    rcases Nat.lt_succ_iff_lt_or_eq.mp hi with hlt | rfl
    · obtain ⟨k, rfl⟩ : ∃ k, n = i + 1 + k := ⟨n - (i + 1), by omega⟩
      have htop : v % B * B ^ (i + 1 + k) = B ^ i * (B * (v % B * B ^ k)) := by
        rw [Nat.pow_add, Nat.pow_succ]
        ac_rfl
      rw [htop, Nat.mul_add_div (Nat.pow_pos hB), Nat.mul_add_mod, ih _ hlt, Nat.div_div_eq_div_mul, ← Nat.pow_succ']
      congr 3; omega
    · have hlow := reverseDigits_lt hB (v / B) i
      rw [Nat.mul_comm, Nat.mul_add_div (Nat.pow_pos hB), Nat.div_eq_of_lt hlow, Nat.add_zero, Nat.mod_mod,
        Nat.add_sub_cancel, Nat.sub_self, Nat.pow_zero, Nat.div_one]

theorem testBit_reverseBits (v n i : Nat) (hi : i < n) : (reverseBits v n).testBit i = v.testBit (n - 1 - i) := by
  rw [Nat.testBit_eq_decide_div_mod_eq, Nat.testBit_eq_decide_div_mod_eq, reverseBits_eq_reverseDigits,
    reverseDigits_digit Nat.two_pos v n i hi]

/-- R96: BREV, bit by bit. -/
theorem getLsbD_reverseBits (y : Word) (i : Nat) (hi : i < 64) :
    (BitVec.ofNat 64 (reverseBits y.toNat 64)).getLsbD i = y.getLsbD (63 - i) := by
  rw [BitVec.getLsbD_ofNat, decide_eq_true hi, Bool.true_and, testBit_reverseBits _ _ _ hi, BitVec.testBit_toNat]

/-- R96: BSWAP, byte by byte. -/
theorem extractLsb'_reverseBytes (y : Word) (i : Nat) (hi : i < 8) :
    (BitVec.ofNat 64 (reverseBytes y.toNat 8)).extractLsb' (8 * i) 8 = y.extractLsb' (56 - 8 * i) 8 := by
  have hlt : reverseBytes y.toNat 8 < 2 ^ 64 := by
    rw [reverseBytes_eq_reverseDigits]; exact reverseDigits_lt (B := 256) (by decide) _ 8
  have hdigit := reverseDigits_digit (B := 256) (by decide) y.toNat 8 i hi
  have hpow : ∀ k, (256 : Nat) ^ k = 2 ^ (8 * k) := fun k => Nat.pow_mul 2 8 k ▸ rfl
  rw [hpow, hpow, ← reverseBytes_eq_reverseDigits, show 8 * (8 - 1 - i) = 56 - 8 * i by omega] at hdigit
  apply BitVec.eq_of_toNat_eq
  rw [BitVec.extractLsb'_toNat, BitVec.extractLsb'_toNat, BitVec.toNat_ofNat, Nat.mod_eq_of_lt hlt,
    Nat.shiftRight_eq_div_pow, Nat.shiftRight_eq_div_pow]
  exact hdigit

/-! ### Counts -/

/-- `trailing v n` is the place of the lowest one bit of `v`, or `n` where the lowest `n` bits are zero. -/
theorem trailing_spec (v n : Nat) : trailing v n ≤ n ∧ (∀ i, i < trailing v n → v.testBit i = false) ∧
    (trailing v n < n → v.testBit (trailing v n) = true) := by
  induction n generalizing v with
  | zero => exact ⟨Nat.le_refl 0, fun i hi => absurd hi (Nat.not_lt_zero i), fun h => absurd h (Nat.lt_irrefl 0)⟩
  | succ n ih =>
    obtain ⟨hle, hzero, hone⟩ := ih (v / 2)
    rw [trailing]
    split
    case isTrue hodd =>
      exact ⟨Nat.zero_le _, fun i hi => absurd hi (Nat.not_lt_zero i), fun _ => by rw [Nat.testBit_zero, hodd]; rfl⟩
    case isFalse heven =>
      rw [Nat.add_comm 1]
      refine ⟨Nat.succ_le_succ hle, fun i hi => ?_, fun h => ?_⟩
      · cases i with
        | zero => rw [Nat.testBit_zero, decide_eq_false heven]
        | succ i => rw [Nat.testBit_succ, hzero i (Nat.lt_of_succ_lt_succ hi)]
      · rw [Nat.testBit_succ, hone (Nat.lt_of_succ_lt_succ h)]

/-- R96: POPC counts the one bits. -/
theorem ones_eq_countP (v n : Nat) : ones v n = (List.range n).countP fun i => v.testBit i := by
  induction n generalizing v with
  | zero => rfl
  | succ n ih =>
    have hlow : v % 2 = if v.testBit 0 then 1 else 0 := by
      rcases Nat.mod_two_eq_zero_or_one v with h | h <;>
        simp only [Nat.testBit_zero, h, decide_true, if_true, Nat.zero_ne_one, decide_false, Bool.false_eq_true, if_false]
    have htail : (fun i => v.testBit i) ∘ Nat.succ = fun i => (v / 2).testBit i := funext (Nat.testBit_succ v)
    rw [ones, ih, List.range_succ_eq_map, List.countP_cons, List.countP_map, htail, hlow, Nat.add_comm]

/-! ### Fields (R98) -/

/-- BEXT: bits of the field, and zeros above its length. -/
theorem getLsbD_fieldOf (x y : Word) (i : Nat) (hi : i < 64) :
    (fieldOf x y).getLsbD i = (decide (i < fieldLen y) && x.getLsbD (fieldPos y + i)) := by
  unfold fieldOf
  split
  case isTrue hlen =>
    rw [BitVec.getLsbD_and, BitVec.getLsbD_ushiftRight, BitVec.getLsbD_ofNat, Nat.testBit_two_pow_sub_one, decide_eq_true hi,
      Bool.true_and, Bool.and_comm]
  case isFalse hlen =>
    rw [BitVec.getLsbD_ushiftRight, decide_eq_true (show i < fieldLen y by omega), Bool.true_and]

/-- BINS: the field's bits come from x, the others from D. -/
theorem getLsbD_fieldIn (d x y : Word) (i : Nat) (hi : i < 64) : (fieldIn d x y).getLsbD i =
    if fieldPos y ≤ i ∧ i < fieldPos y + fieldLen y then x.getLsbD (i - fieldPos y) else d.getLsbD i := by
  have hmask : (BitVec.ofNat 64 ((2 ^ fieldLen y - 1) * 2 ^ fieldPos y)).getLsbD i =
      decide (fieldPos y ≤ i ∧ i < fieldPos y + fieldLen y) := by
    rw [BitVec.getLsbD_ofNat, Nat.testBit_mul_two_pow, Nat.testBit_two_pow_sub_one, decide_eq_true hi, Bool.true_and,
      ← Bool.decide_and]
    exact decide_eq_decide.mpr (by omega)
  simp only [fieldIn, BitVec.getLsbD_or, BitVec.getLsbD_and, BitVec.getLsbD_not, BitVec.getLsbD_shiftLeft, hmask, hi]
  split
  case isTrue hin =>
    simp only [hin, decide_true, decide_eq_false (Nat.not_lt.mpr hin.1), and_self, Bool.not_true, Bool.not_false, Bool.and_false,
      Bool.and_true, Bool.true_and, Bool.false_or]
  case isFalse hout =>
    simp only [hout, decide_true, decide_false, Bool.not_false, Bool.and_false, Bool.and_true, Bool.or_false]

/-! ### Page 7 -/

section
variable {s : State} {a b : Reg} {r : Option RPfx}

/-- R96: CLZ counts the zeros above the highest one bit. -/
theorem yields_clz (h : s.Canonical) (hp : ¬s.me.pushes a) :
    ∃ n, n ≤ 64 ∧ (∀ i, i < n → (s.r b).getLsbD (63 - i) = false) ∧ (n < 64 → (s.r b).getLsbD (63 - n) = true) ∧
      Yields (.clz a b) s (s.GivesScalar a (BitVec.ofNat 64 n) FFlags.none 0) := by
  have hrev : ∀ i, i < 64 → (reverseBits (s.r b).toNat 64).testBit i = (s.r b).getLsbD (63 - i) :=
    fun i hi => testBit_reverseBits _ _ _ hi
  obtain ⟨hle, hzero, hone⟩ := trailing_spec (reverseBits (s.r b).toNat 64) 64
  exact ⟨_, hle, fun i hi => hrev i (by omega) ▸ hzero i hi, fun hn => hrev _ hn ▸ hone hn, yields_of_unary h hp _ rfl rfl⟩

/-- R96: CTZ counts the zeros below the lowest one bit. -/
theorem yields_ctz (h : s.Canonical) (hp : ¬s.me.pushes a) :
    ∃ n, n ≤ 64 ∧ (∀ i, i < n → (s.r b).getLsbD i = false) ∧ (n < 64 → (s.r b).getLsbD n = true) ∧
      Yields (.ctz a b) s (s.GivesScalar a (BitVec.ofNat 64 n) FFlags.none 0) := by
  obtain ⟨hle, hzero, hone⟩ := trailing_spec (s.r b).toNat 64
  exact ⟨_, hle, hzero, hone, yields_of_unary h hp _ rfl rfl⟩

end

/-- Settles O3: each instruction is one of the shared forms, whose word is the stated one. -/
theorem integerUnit : Obligations.IntegerUnit := by
  refine ⟨fun s a b r h hpa hp => ⟨?_, ?_⟩, fun s a b r h =>
    ⟨fun hp => ⟨yields_clz h hp, yields_ctz h hp, ?_, ?_, ?_⟩, fun hp => ?_, fun hp => ?_⟩⟩
  · simp only [List.forall_mem_cons, List.not_mem_nil, false_implies, implies_true, and_true]
    exact ⟨yields_of_alu h hp _ rfl (mulh_eq_extractLsb' _ _),
      yields_of_alu h hp _ rfl (mulhu_eq_extractLsb' _ _),
      yields_of_alu h hp _ rfl (divSigned_eq _ _),
      yields_of_alu h hp _ rfl (by rw [BitVec.udiv_def]),
      yields_of_alu h hp _ rfl (remSigned_eq _ _),
      yields_of_alu h hp _ rfl (by rw [ofNat_mod_eq_sub]),
      yields_of_alu h hp _ rfl (minu_eq _ _),
      yields_of_alu h hp _ rfl (maxu_eq _ _),
      yields_of_alu h hp _ rfl (rotateLeft_amount _ _),
      yields_of_alu h hp _ rfl (rotateRight_amount _ _)⟩
  · simp only [List.forall_mem_cons, List.not_mem_nil, false_implies, implies_true, and_true]
    exact ⟨yields_of_unary h hpa _ rfl rfl,
      yields_of_unary h hpa _ rfl BitVec.xor_allOnes.symm,
      yields_of_unary h hpa _ rfl (by rw [BitVec.setWidth_eq_extractLsb' (by decide)]),
      yields_of_unary h hpa _ rfl (by rw [BitVec.setWidth_eq_extractLsb' (by decide)]),
      yields_of_unary h hpa _ rfl (by rw [BitVec.setWidth_eq_extractLsb' (by decide)])⟩
  · exact yields_of_unary h hp _ rfl (congrArg _ (ones_eq_countP _ _))
  · exact ⟨_, getLsbD_reverseBits (s.r b), yields_of_unary h hp _ rfl rfl⟩
  · exact ⟨_, extractLsb'_reverseBytes (s.r b), yields_of_unary h hp _ rfl rfl⟩
  · rw [extractLsb'_six_toNat, extractLsb'_fieldLen]
    exact ⟨_, getLsbD_fieldOf (s.r a) (s.r b), yields_of_alu h hp _ rfl rfl⟩
  · rw [extractLsb'_six_toNat, extractLsb'_fieldLen]
    exact ⟨_, getLsbD_fieldIn (s.r (dOf r)) (s.r a) (s.r b), yields_of_result h hp rfl⟩

end Sys2Proof.Machine

/-! # The integer lanes of page 1 (O11)

The lanes of a register made from a list; what a lane-wise group yields, once for each shared form; and the lane that each operation of
Table 5.4 delivers, as an operation on bit vectors (R135 to R137). -/

namespace Sys2Proof.Machine

/-! ### The lanes of a register -/

theorem lane_eq_toNat_vlane (w : Nat) (v : VWord) (i : Nat) : lane w v i = (vlane w v i).toNat := by
  rw [lane, vlane, BitVec.extractLsb'_toNat, Nat.shiftRight_eq_div_pow]

theorem length_lanes (w : Nat) (v : VWord) : (lanes w v).length = 128 / w := by
  rw [lanes, List.length_map, List.length_range]

theorem getElem_lanes (w : Nat) (v : VWord) (i : Nat) (hi : i < (lanes w v).length) : (lanes w v)[i] = (vlane w v i).toNat := by
  simp only [lanes, List.getElem_map, List.getElem_range, lane_eq_toNat_vlane]

theorem joinLanes_lt (w : Nat) (xs : List Nat) : joinLanes w xs < 2 ^ (w * xs.length) := by
  induction xs with
  | nil => exact Nat.one_pos
  | cons x xs ih =>
    calc x % 2 ^ w + 2 ^ w * joinLanes w xs
        < 2 ^ w + 2 ^ w * joinLanes w xs := Nat.add_lt_add_right (Nat.mod_lt x (Nat.two_pow_pos w)) _
      _ = 2 ^ w * (joinLanes w xs + 1) := by rw [Nat.mul_succ, Nat.add_comm]
      _ ≤ 2 ^ w * 2 ^ (w * xs.length) := Nat.mul_le_mul_left _ ih
      _ = 2 ^ (w * (xs.length + 1)) := by rw [← Nat.pow_add, Nat.mul_succ, Nat.add_comm]

/-- The lanes of a joined number are its digits in base 2^w. -/
theorem joinLanes_digit (w : Nat) (xs : List Nat) (i : Nat) (hi : i < xs.length) :
    joinLanes w xs / 2 ^ (w * i) % 2 ^ w = xs[i] % 2 ^ w := by
  induction xs generalizing i with
  | nil => exact absurd hi (Nat.not_lt_zero i)
  | cons x xs ih =>
    cases i with
    | zero => rw [joinLanes, Nat.mul_zero, Nat.pow_zero, Nat.div_one, Nat.add_mul_mod_self_left, Nat.mod_mod, List.getElem_cons_zero]
    | succ i =>
      have htail : (x % 2 ^ w + 2 ^ w * joinLanes w xs) / 2 ^ w = joinLanes w xs := by
        rw [Nat.add_mul_div_left _ _ (Nat.two_pow_pos w), Nat.div_eq_of_lt (Nat.mod_lt x (Nat.two_pow_pos w)), Nat.zero_add]
      rw [joinLanes, Nat.mul_succ, Nat.add_comm (w * i), Nat.pow_add, ← Nat.div_div_eq_div_mul, htail, List.getElem_cons_succ]
      exact ih i (Nat.lt_of_succ_lt_succ hi)

/-- Lane `i` of a packed register is entry `i` of the list, where all entries have room. -/
theorem vlane_pack (w : Nat) (xs : List Nat) (hroom : w * xs.length ≤ 128) (i : Nat) (hi : i < xs.length) :
    vlane w (pack w xs) i = BitVec.ofNat w xs[i] := by
  have hlt : joinLanes w xs < 2 ^ 128 := Nat.lt_of_lt_of_le (joinLanes_lt w xs) (Nat.pow_le_pow_right Nat.two_pos hroom)
  apply BitVec.eq_of_toNat_eq
  rw [← lane_eq_toNat_vlane, lane, pack, BitVec.toNat_ofNat, Nat.mod_eq_of_lt hlt, joinLanes_digit w xs i hi, BitVec.toNat_ofNat]

/-! ### Element types -/

theorem isIntType_of_mem {t : Reg} (ht : t ∈ [1#5, 2#5, 3#5, 4#5]) : isIntType t = true := by
  revert t; decide

theorem both_has {t : Reg} (ht : isIntType t = true) : TypeSet.both.has t = true := by
  rw [TypeSet.has, ht, Bool.true_or]

theorem classOf_of_isIntType {t : Reg} (ht : isIntType t = true) : classOf t = 1 := by
  revert t; decide

/-! ### What a lane-wise group yields -/

/-- The instruction's whole effect is a vector result at one drop and without flags, whose lane `j` of `w` bits is `g j`. -/
def State.YieldsLanes (s : State) (i : Instr) (vd : Reg) (w : Nat) (g : Nat → BitVec w) : Prop :=
  ∃ v, (∀ j, j < 128 / w → vlane w v j = g j) ∧ Yields i s (s.GivesVector vd v FFlags.none 1)

/-- An instruction that ends in the packed result `xs`, one entry for each lane, yields these lanes. -/
theorem yieldsLanes_of_pack {s : State} {i : Instr} {vd : Reg} {w : Nat} {g : Nat → BitVec w} (h : s.Canonical) (xs : List Nat)
    (hlen : xs.length = 128 / w) (e : exec i s = .next (s.resultV vd (pack w xs) 1))
    (hg : ∀ j, (hj : j < xs.length) → BitVec.ofNat w xs[j] = g j) : s.YieldsLanes i vd w g := by
  have hroom : w * xs.length ≤ 128 := hlen ▸ Nat.mul_div_le 128 w
  refine ⟨pack w xs, fun j hj => ?_, _, e, State.resultV_gives h vd _ 1⟩
  rw [vlane_pack w xs hroom j (hlen ▸ hj), hg j]

section
variable {s : State} {i : Instr} {a b : Reg} {r : Option RPfx} {t : Reg} {g : Nat → BitVec (laneWidth t)}

theorem State.typed_of_has {ts : TypeSet} (he : s.elem (eOf r) = t) (k : Reg → State) (hts : ts.has t = true) : s.typed ts r k = k t := by
  subst he; exact if_pos hts

theorem State.vecBoth_of_isIntType (he : s.elem (eOf r) = t) (ht : isIntType t = true) (f : IntOp)
    (f' : Fmt → Modes → Nat → Nat → Rounded) : s.vecBoth f f' a b r = s.vecInt f a b r t := by
  rw [State.vecBoth, State.typed_of_has he _ (both_has ht), if_pos ht]

theorem State.vecShift_of_lt {is : IPfx} (he : s.elem (eOf r) = t) (ht : isIntType t = true) (hk : immShift is b < laneWidth t) (f : IntOp) :
    s.vecShift f a b r is =
      s.resultV (destOf a r) (pack (laneWidth t) ((lanes (laneWidth t) (s.v a)).map fun x => f (laneWidth t) x (immShift is b))) 1 := by
  rw [State.vecShift, State.typed_of_has (ts := .ints) he _ ht]
  exact if_neg (Nat.not_le_of_lt hk)

theorem State.vecMap_of_isIntType {ts : TypeSet} (he : s.elem (eOf r) = t) (ht : isIntType t = true) (hts : ts.has t = true)
    (f : Nat → Nat → Nat) (f' : Fmt → Nat → Nat) :
    s.vecMap ts f f' a b r = s.resultV a (pack (laneWidth t) ((lanes (laneWidth t) (s.v b)).map (f (laneWidth t)))) 1 := by
  rw [State.vecMap, State.typed_of_has he _ hts]
  dsimp only
  rw [if_pos ht, classOf_of_isIntType ht]

/-- The binary form over integer lanes. -/
theorem yieldsLanes_of_vecInt (h : s.Canonical) (f : IntOp) (e : exec i s = .next (s.vecInt f a b r t))
    (hf : ∀ j, BitVec.ofNat (laneWidth t) (f (laneWidth t) (vlane (laneWidth t) (s.v a) j).toNat (vlane (laneWidth t) (s.v b) j).toNat) = g j) :
    s.YieldsLanes i (destOf a r) (laneWidth t) g := by
  refine yieldsLanes_of_pack h _ ?_ e fun j hj => ?_
  · rw [List.length_zipWith, length_lanes, length_lanes, Nat.min_self]
  · rw [List.getElem_zipWith, getElem_lanes, getElem_lanes, hf]

section
variable (h : s.Canonical) (he : s.elem (eOf r) = t) (ht : isIntType t = true)
include h he ht

/-- The binary form over integer types alone. -/
theorem yieldsLanes_of_ints (f : IntOp) (e : exec i s = .next (s.typed .ints r fun t => s.vecInt f a b r t))
    (hf : ∀ j, BitVec.ofNat (laneWidth t) (f (laneWidth t) (vlane (laneWidth t) (s.v a) j).toNat (vlane (laneWidth t) (s.v b) j).toNat) = g j) :
    s.YieldsLanes i (destOf a r) (laneWidth t) g :=
  yieldsLanes_of_vecInt h f (e.trans (congrArg _ (State.typed_of_has he _ ht))) hf

/-- The binary form over both kinds of types, on an integer type. -/
theorem yieldsLanes_of_both (f : IntOp) (f' : Fmt → Modes → Nat → Nat → Rounded)
    (e : exec i s = .next (s.vecBoth f f' a b r))
    (hf : ∀ j, BitVec.ofNat (laneWidth t) (f (laneWidth t) (vlane (laneWidth t) (s.v a) j).toNat (vlane (laneWidth t) (s.v b) j).toNat) = g j) :
    s.YieldsLanes i (destOf a r) (laneWidth t) g :=
  yieldsLanes_of_vecInt h f (e.trans (congrArg _ (State.vecBoth_of_isIntType he ht f f'))) hf

/-- The shift by an immediate below the lane width. -/
theorem yieldsLanes_of_shift {is : IPfx} (hk : immShift is b < laneWidth t) (f : IntOp)
    (e : exec i s = .next (s.vecShift f a b r is))
    (hf : ∀ j, BitVec.ofNat (laneWidth t) (f (laneWidth t) (vlane (laneWidth t) (s.v a) j).toNat (immShift is b)) = g j) :
    s.YieldsLanes i (destOf a r) (laneWidth t) g := by
  refine yieldsLanes_of_pack h _ ?_ (e.trans (congrArg _ (State.vecShift_of_lt he ht hk f))) fun j hj => ?_
  · rw [List.length_map, length_lanes]
  · rw [List.getElem_map, getElem_lanes, hf]

/-- The unary form, on an integer type. -/
theorem yieldsLanes_of_map {ts : TypeSet} (hts : ts.has t = true) (f : Nat → Nat → Nat) (f' : Fmt → Nat → Nat)
    (e : exec i s = .next (s.vecMap ts f f' a b r))
    (hf : ∀ j, BitVec.ofNat (laneWidth t) (f (laneWidth t) (vlane (laneWidth t) (s.v b) j).toNat) = g j) :
    s.YieldsLanes i a (laneWidth t) g := by
  refine yieldsLanes_of_pack h _ ?_ (e.trans (congrArg _ (State.vecMap_of_isIntType he ht hts f f'))) fun j hj => ?_
  · rw [List.length_map, length_lanes]
  · rw [List.getElem_map, getElem_lanes, hf]

end

end

/-! ### Signed lanes, arithmetic and comparisons -/

section
variable {w : Nat} (x y : BitVec w)

theorem ofNat_toNat_self : BitVec.ofNat w x.toNat = x := by rw [BitVec.ofNat_toNat, BitVec.setWidth_eq]

theorem signedLane_toNat : signedLane w x.toNat = x.toInt := by
  rw [signedLane, BitVec.toInt_eq_toNat_cond]
  cases w with
  | zero => rw [BitVec.of_length_zero (x := x)]; rfl
  | succ n => simp only [Nat.add_sub_cancel, Nat.pow_succ', Nat.mul_lt_mul_left Nat.two_pos]

/-- R135: a lane wraps modulo 2^w. -/
theorem ofNat_wrapLane (z : Int) : BitVec.ofNat w (wrapLane w z) = BitVec.ofInt w z := by
  apply BitVec.eq_of_toNat_eq
  have hpos : (0 : Int) < (2 ^ w : Nat) := Int.natCast_pos.mpr (Nat.two_pow_pos w)
  have hlt : wrapLane w z < 2 ^ w := by
    rw [wrapLane, Int.toNat_lt (Int.emod_nonneg z (Int.ne_of_gt hpos))]
    exact Int.emod_lt_of_pos z hpos
  rw [BitVec.toNat_ofNat, Nat.mod_eq_of_lt hlt, BitVec.toNat_ofInt, wrapLane]

theorem ofNat_wrapping (f : Int → Int → Int) : BitVec.ofNat w (wrapping f w x.toNat y.toNat) = BitVec.ofInt w (f x.toInt y.toInt) := by
  rw [wrapping, ofNat_wrapLane, signedLane_toNat, signedLane_toNat]

/-- VADD. -/
theorem ofNat_wrapping_add : BitVec.ofNat w (wrapping (fun x y => x + y) w x.toNat y.toNat) = x + y := by
  rw [ofNat_wrapping, BitVec.ofInt_add, BitVec.ofInt_toInt, BitVec.ofInt_toInt]

/-- VSUB. -/
theorem ofNat_wrapping_sub : BitVec.ofNat w (wrapping (fun x y => x - y) w x.toNat y.toNat) = x - y := by
  rw [ofNat_wrapping, Int.sub_eq_add_neg, BitVec.ofInt_add, BitVec.ofInt_neg, BitVec.ofInt_toInt, BitVec.ofInt_toInt, BitVec.sub_eq_add_neg]

/-- VMUL. -/
theorem ofNat_wrapping_mul : BitVec.ofNat w (wrapping (fun x y => x * y) w x.toNat y.toNat) = x * y := by
  rw [ofNat_wrapping, BitVec.ofInt_mul, BitVec.ofInt_toInt, BitVec.ofInt_toInt]

/-- VMULH. -/
theorem ofNat_laneMulh : BitVec.ofNat w (laneMulh w x.toNat y.toNat) = BitVec.ofInt w (x.toInt * y.toInt / 2 ^ w) := by
  rw [laneMulh, ofNat_wrapLane, signedLane_toNat, signedLane_toNat, Int.natCast_pow, Int.cast_ofNat_Int]

/-- VNEG. -/
theorem ofNat_wrapLane_neg : BitVec.ofNat w (wrapLane w (-signedLane w y.toNat)) = -y := by
  rw [ofNat_wrapLane, signedLane_toNat, BitVec.ofInt_neg, BitVec.ofInt_toInt]

/-- VABS. -/
theorem ofNat_signedLane_abs : BitVec.ofNat w (if signedLane w y.toNat < 0 then wrapLane w (-signedLane w y.toNat) else y.toNat) =
    if y.toInt < 0 then -y else y := by
  rw [apply_ite (BitVec.ofNat w), ofNat_wrapLane_neg, ofNat_toNat_self, signedLane_toNat]

/-- VMIN. -/
theorem ofNat_lanePick_false : BitVec.ofNat w (lanePick false w x.toNat y.toNat) = if x.toInt ≤ y.toInt then x else y := by
  rw [lanePick, Bool.bne_false, signedLane_toNat, signedLane_toNat, apply_ite (BitVec.ofNat w), ofNat_toNat_self, ofNat_toNat_self]
  simp only [decide_eq_true_eq, ← Int.not_le, ite_not]

/-- VMAX. -/
theorem ofNat_lanePick_true : BitVec.ofNat w (lanePick true w x.toNat y.toNat) = if x.toInt ≤ y.toInt then y else x := by
  rw [lanePick, Bool.bne_true, signedLane_toNat, signedLane_toNat, apply_ite (BitVec.ofNat w), ofNat_toNat_self, ofNat_toNat_self]
  simp only [Bool.not_eq_true', decide_eq_false_iff_not, Int.not_lt]

/-- VMINU. -/
theorem ofNat_lanePickU_false : BitVec.ofNat w (lanePickU false w x.toNat y.toNat) = if x.toNat ≤ y.toNat then x else y := by
  rw [lanePickU, Bool.bne_false, apply_ite (BitVec.ofNat w), ofNat_toNat_self, ofNat_toNat_self]
  simp only [decide_eq_true_eq, ← Nat.not_le, ite_not]

/-- VMAXU. -/
theorem ofNat_lanePickU_true : BitVec.ofNat w (lanePickU true w x.toNat y.toNat) = if x.toNat ≤ y.toNat then y else x := by
  rw [lanePickU, Bool.bne_true, apply_ite (BitVec.ofNat w), ofNat_toNat_self, ofNat_toNat_self]
  simp only [Bool.not_eq_true', decide_eq_false_iff_not, Nat.not_lt]

theorem ofNat_two_pow_sub_one (w : Nat) : BitVec.ofNat w (2 ^ w - 1) = BitVec.allOnes w := by
  apply BitVec.eq_of_toNat_eq
  rw [BitVec.toNat_ofNat, BitVec.toNat_allOnes, Nat.mod_eq_of_lt (Nat.sub_one_lt_of_lt (Nat.two_pow_pos w))]

/-- R136: a relation that holds gives all ones, and one that does not gives zeros. -/
theorem ofNat_maskOf (f : Nat → Nat → Nat → Bool) {c : Bool} (hc : f w x.toNat y.toNat = c) :
    BitVec.ofNat w (maskOf f w x.toNat y.toNat) = if c then BitVec.allOnes w else 0 := by
  rw [maskOf, hc, apply_ite (BitVec.ofNat w), ofNat_two_pow_sub_one]; rfl

theorem toNat_beq : (x.toNat == y.toNat) = (x == y) := by
  rw [Bool.eq_iff_iff, beq_iff_eq, beq_iff_eq, BitVec.toNat_inj]

theorem decide_signedLane_lt : decide (signedLane w x.toNat < signedLane w y.toNat) = x.slt y := by
  rw [signedLane_toNat, signedLane_toNat, BitVec.slt]

theorem decide_signedLane_le : decide (signedLane w x.toNat ≤ signedLane w y.toNat) = x.sle y := by
  rw [signedLane_toNat, signedLane_toNat, BitVec.sle]

/-! ### Shifts (R137) -/

/-- VSHL and VSHLI. -/
theorem ofNat_laneShl (k : Nat) : BitVec.ofNat w (laneShl w x.toNat k) = x <<< k := by
  unfold laneShl
  split
  case isTrue hk => rw [BitVec.shiftLeft_eq_zero hk]
  case isFalse =>
    apply BitVec.eq_of_toNat_eq
    rw [BitVec.toNat_ofNat, Nat.mod_mod, BitVec.toNat_shiftLeft, Nat.shiftLeft_eq]

/-- VSHR and VSHRI. -/
theorem ofNat_laneShr (k : Nat) : BitVec.ofNat w (laneShr w x.toNat k) = x >>> k := by
  unfold laneShr
  split
  case isTrue hk => rw [BitVec.ushiftRight_eq_zero hk]
  case isFalse =>
    apply BitVec.eq_of_toNat_eq
    rw [← Nat.shiftRight_eq_div_pow, ← BitVec.toNat_ushiftRight, ofNat_toNat_self]

/-- A number of w bits shifted right by w bits or more is 0 or -1, so shifting it by w bits is enough. -/
theorem toInt_ediv_two_pow_min (k : Nat) : x.toInt / 2 ^ min k w = x.toInt / 2 ^ k := by
  rcases Nat.le_total k w with hk | hk
  · rw [Nat.min_eq_left hk]
  · have hpow : (2 : Int) ^ w ≤ 2 ^ k := Int.ofNat_le.mpr (Nat.pow_le_pow_right Nat.two_pos hk)
    have hlo := BitVec.le_two_mul_toInt (x := x)
    have hhi := BitVec.two_mul_toInt_lt (x := x)
    rw [Nat.min_eq_right hk]
    rcases Int.lt_or_le x.toInt 0 with hneg | hpos
    · rw [Int.ediv_eq_neg_one_of_neg_of_le hneg (by omega), Int.ediv_eq_neg_one_of_neg_of_le hneg (by omega)]
    · rw [Int.ediv_eq_zero_of_lt hpos (by omega), Int.ediv_eq_zero_of_lt hpos (by omega)]

/-- VSAR and VSARI. -/
theorem ofNat_laneSar (k : Nat) : BitVec.ofNat w (laneSar w x.toNat k) = x.sshiftRight k := by
  rw [laneSar, ofNat_wrapLane, signedLane_toNat, BitVec.sshiftRight, Int.shiftRight_eq_div_pow, Int.natCast_pow, Int.natCast_pow,
    Int.cast_ofNat_Int, toInt_ediv_two_pow_min]

/-! ### Counts -/

theorem foldl_add_bits (n v : Nat) (is : List Nat) :
    is.foldl (fun n i => n + v / 2 ^ i % 2) n = n + is.countP fun i => v.testBit i := by
  induction is generalizing n with
  | nil => rfl
  | cons i is ih =>
    have hbit : v / 2 ^ i % 2 = if v.testBit i then 1 else 0 := by
      rw [Nat.testBit_eq_decide_div_mod_eq]
      rcases Nat.mod_two_eq_zero_or_one (v / 2 ^ i) with h | h <;> rw [h] <;> rfl
    rw [List.foldl_cons, ih, List.countP_cons, hbit, Nat.add_right_comm, Nat.add_assoc]

/-- VPOPC. -/
theorem ofNat_foldl_bits : BitVec.ofNat w ((List.range w).foldl (fun n i => n + y.toNat / 2 ^ i % 2) 0) =
    BitVec.ofNat w ((List.range w).countP fun i => y.getLsbD i) := by
  rw [foldl_add_bits, Nat.zero_add]; rfl

end

/-- Settles O11: each instruction is one of the shared forms, on whose lanes its operation is the stated one. -/
theorem vectorIntegerLanes : Obligations.VectorIntegerLanes := by
  intro s a b r is h t hmem w k mask
  have ht : isIntType t = true := isIntType_of_mem hmem
  refine ⟨?_, fun hk => ?_, ?_⟩ <;> simp only [List.forall_mem_cons, List.not_mem_nil, false_implies, implies_true, and_true]
  · exact ⟨yieldsLanes_of_both h rfl ht _ _ rfl fun _ => ofNat_wrapping_add _ _,
      yieldsLanes_of_both h rfl ht _ _ rfl fun _ => ofNat_wrapping_sub _ _,
      yieldsLanes_of_both h rfl ht _ _ rfl fun _ => ofNat_wrapping_mul _ _,
      yieldsLanes_of_ints h rfl ht _ rfl fun _ => ofNat_laneMulh _ _,
      yieldsLanes_of_both h rfl ht _ _ rfl fun _ => ofNat_lanePick_false _ _,
      yieldsLanes_of_both h rfl ht _ _ rfl fun _ => ofNat_lanePick_true _ _,
      yieldsLanes_of_ints h rfl ht _ rfl fun _ => ofNat_lanePickU_false _ _,
      yieldsLanes_of_ints h rfl ht _ rfl fun _ => ofNat_lanePickU_true _ _,
      yieldsLanes_of_ints h rfl ht _ rfl fun _ => ofNat_laneShl _ _,
      yieldsLanes_of_ints h rfl ht _ rfl fun _ => ofNat_laneShr _ _,
      yieldsLanes_of_ints h rfl ht _ rfl fun _ => ofNat_laneSar _ _,
      yieldsLanes_of_both h rfl ht _ _ rfl fun _ => ofNat_maskOf _ _ _ (toNat_beq _ _),
      yieldsLanes_of_both h rfl ht _ _ rfl fun _ => ofNat_maskOf _ _ _ (decide_signedLane_lt _ _),
      yieldsLanes_of_ints h rfl ht _ rfl fun _ => ofNat_maskOf _ _ _ rfl,
      yieldsLanes_of_both h rfl ht _ _ rfl fun _ => ofNat_maskOf _ _ _ (decide_signedLane_le _ _)⟩
  · exact ⟨yieldsLanes_of_shift h rfl ht hk _ rfl fun _ => ofNat_laneShl _ _,
      yieldsLanes_of_shift h rfl ht hk _ rfl fun _ => ofNat_laneShr _ _,
      yieldsLanes_of_shift h rfl ht hk _ rfl fun _ => ofNat_laneSar _ _⟩
  · exact ⟨yieldsLanes_of_map h rfl ht (both_has ht) _ _ rfl fun _ => ofNat_signedLane_abs _,
      yieldsLanes_of_map h rfl ht (both_has ht) _ _ rfl fun _ => ofNat_wrapLane_neg _,
      yieldsLanes_of_map (ts := .ints) h rfl ht ht _ _ rfl fun _ => ofNat_foldl_bits _⟩

end Sys2Proof.Machine
